-- ==== Sys2Proof/Word.lean ====
section
/-!
DEFINITION. Word.lean: bit ranges of words held as natural numbers, and little-endian bytes (R10: bit 0 is the
least significant bit and a range [high:low] includes both ends; every structure in memory is little-endian).
-/

namespace Sys2Proof

/-- One byte. -/
abbrev Byte := BitVec 8

/-- The `n` bits of `w` whose lowest is bit `lo`. -/
def bits (w lo n : Nat) : Nat := (w >>> lo) % 2 ^ n

/-- Bit `i` of `w`. -/
def bit (w i : Nat) : Bool := bits w i 1 == 1

/-- `w` with its `n` bits from bit `lo` replaced by the low bits of `v`. -/
def setBits (w lo n v : Nat) : Nat :=
  w % 2 ^ lo + (v % 2 ^ n) * 2 ^ lo + (w >>> (lo + n)) * 2 ^ (lo + n)

/-- 1 for true, 0 for false. -/
def b2n (b : Bool) : Nat := if b then 1 else 0

/-- The least integer not below `a / b`. -/
def ceilDiv (a b : Nat) : Nat := (a + b - 1) / b

/-- The number whose little-endian bytes are `bs` (R10). -/
def ofBytes : List Byte → Nat
  | [] => 0
  | b :: bs => b.toNat + 256 * ofBytes bs

/-- The low `n` bytes of `w`, least significant first (R10). -/
def toBytes : Nat → Nat → List Byte
  | 0, _ => []
  | n + 1, w => BitVec.ofNat 8 w :: toBytes n (w / 256)

/-- The two's complement reading of the low `n` bits of `w`. -/
def signed (n w : Nat) : Int :=
  if w % 2 ^ n < 2 ^ (n - 1) then Int.ofNat (w % 2 ^ n) else Int.ofNat (w % 2 ^ n) - 2 ^ n

/-- The low `n` bits of an integer in two's complement. -/
def unsigned (n : Nat) (i : Int) : Nat := (i % (2 ^ n : Int)).toNat

/-- `f` applied `n` times. -/
def iter {α : Type} (f : α → α) : Nat → α → α
  | 0, a => a
  | n + 1, a => iter f n (f a)

end Sys2Proof
end

