-- ==== Sys2Proof/Syntax.lean ====
section
/-!
DEFINITION. Syntax.lean: the commands of the block and the types of their operands.
-/

namespace Sys2Proof

/-- The hints of a stack access (R237). -/
inductive Hint where
  | normal | stream | keep | last
  deriving DecidableEq, Repr

/-- The errors a word of SRAM or of the cache may show (R224, R253). -/
inductive EccErr where
  | none
  | single
  | double        -- cleared by the re-read
  | persistent    -- a double-bit error that the re-read does not clear
  deriving DecidableEq, Repr

/-- How one attempt of a burst goes wrong (R248): `dead` says that the stack's dies read the data uncorrectably; `flips` are the bits that change
on the way, by place in the burst with its CRC after it. -/
structure BurstTry where
  dead : Bool
  flips : List (Nat × Byte)
  deriving DecidableEq, Repr

/-- What strikes the arrays and the stack interfaces, and waits there until an access meets it (R24, R224, R248 to R253): an error in the word of
the scratchpad, accumulator buffer or merge buffer at a local address; an error in a word of a cache line, or of the link buffers of a port;
the attempts of the next read burst or write burst within a line that go wrong, in order; a flash page that fails to program in the next record
written, and what the reads of a journal record show (R482); an error of the PCI Express link that its data link layer corrects (R532).
[DESIGN CHOICE, log entry 142] -/
inductive Upset where
  | word (addr : Nat) (err : EccErr)
  | line (line : Nat) (err : EccErr)
  | link (port : Fin 16) (err : EccErr)
  | readBurst (line : Nat) (tries : List BurstTry)
  | writeBurst (line : Nat) (tries : List BurstTry)
  | program
  | record (typ key : Nat) (err : EccErr)
  | hostLink
  deriving DecidableEq, Repr

/-- What a requester asks of a line: bytes to read, or bytes to write. -/
inductive MemAsk where
  | read (n : Nat)
  | write (data : List Byte)
  deriving DecidableEq, Repr

/-- Whose synchronised access a slot command concerns: the weight loader's, the activation feeder's or the drain's of the dense
operation, the drover operation's, a transfer's, the receipt of a neighbour send through a LINK descriptor, or a REDUCE's
reads or writes. -/
inductive Staller where
  | loader | feeder | drain | drover
  | transfer (id : Nat)
  | neighbour (desc : BitVec 12)
  | reduceRead (tid : BitVec 16)
  | reduceWrite (tid : BitVec 16)
  deriving DecidableEq, Repr

/-- The time of a slot stall, in ACLK cycles (R88, R213): how long the access has been stalled; in how many of those cycles another access was
stalled too and its stall is counted; and in how many the dense engine was frozen for another cause and its freeze is counted. -/
structure StallTime where
  cycles : Nat
  shared : Nat
  frozen : Nat
  deriving DecidableEq, Repr

/-- The profiles of Table 13.3. -/
inductive Profile where
  | constrainedBaseline
  | main
  | main10
  | high
  | other
  deriving DecidableEq, Repr

/-- What the headers of a video stream say of it (R388 to R390): its profile and level (in tenths; of MPEG-2 Low 0, Main 1, High-1440 2, High 3),
whether it is 4:2:0 or monochrome, whether it is monochrome, its bit depth and picture size, whether it is interlaced, whether it is coded field by
field (field_seq_flag), and how many reference pictures it needs. -/
structure StreamInfo where
  profile : Profile
  level : Nat
  sampled : Bool
  mono : Bool
  depth : Nat
  width : Nat
  height : Nat
  interlaced : Bool
  fieldSeq : Bool
  refs : Nat
  deriving DecidableEq, Repr

/-- A decoded 4:2:0 or monochrome picture: its size, bit depth, whether it is interlaced, the matrix (0 BT.601, 1 BT.709, 2 BT.2020) and the
range that the stream signals, and its planes, row by row; the chroma planes have half the width and half the height, rounded up. -/
structure Picture where
  width : Nat
  height : Nat
  depth : Nat
  mono : Bool
  interlaced : Bool
  matrix : Option (Fin 3)
  fullRange : Option Bool
  luma : List Nat
  cb : List Nat
  cr : List Nat
  deriving DecidableEq, Repr

/-- What becomes of one decoded picture (R387, R391): its number in presentation order from the first random-access picture, whether it is a
random-access picture, whether no other picture refers to it (R390), whether it is the second field of its frame (R388), whether it decodes with an error
of its own, the pictures it is predicted from, the coded units (PES packets, ISO samples) that its bytes lie in, by their place in the stream, whether
it is the first picture to begin in the first of them, and its presentation time where the standard derives it. -/
structure FrameResult where
  number : Nat
  random : Bool
  nonref : Bool
  second : Bool
  error : Bool
  predicted : List Nat
  units : List Nat
  first : Bool
  pts : BitVec 33
  deriving DecidableEq, Repr

/-- A frame that reaches an ingest port (R375, R377): damaged beyond its FEC, an ARP request or a neighbour solicitation with the address asked for and
the MAC and IP address of the one who asks, a packet that the requester processes, or another. -/
inductive EthFrame where
  | damaged
  | arp (target : BitVec 32) (mac : BitVec 48) (ip : BitVec 32)
  | solicit (target : BitVec 128) (mac : BitVec 48) (ip : BitVec 128)
  | requester
  | other
  deriving DecidableEq, Repr

/-- Which packet of a READ response a packet is (R377). -/
inductive ReadPart where
  | first
  | middle
  | last
  | only
  deriving DecidableEq, Repr

/-- The place of a READ response packet: its PSN and what its opcode says. -/
structure ReadPlace where
  psn : BitVec 24
  part : ReadPart
  deriving DecidableEq, Repr

/-- The oldest request of a queue pair has waited for `ns` nanoseconds (R379). -/
structure QpWait where
  qp : BitVec 12
  ns : Nat
  deriving DecidableEq, Repr

/-- An Acknowledge packet (R377, R379). -/
inductive AckKind where
  | ack
  | sequenceNak
  | remoteNak
  deriving DecidableEq, Repr

/-- What a sample finds of the engines' timing (Tables 19.3 and 19.4): whether the dense engine froze in the cycle, for which causes, and
the requests queued at the stack controllers. [DESIGN CHOICE, log entry 132] -/
structure Probe where
  frozen : Bool
  feedDry : Bool
  drainFull : Bool
  queued : List Byte
  deriving DecidableEq, Repr

/-- A stream of rows again (R100): the panel whose failed tile is meant, and the cycles frozen for want of rows alone, for want of room in the
drain alone, and for both (R88). -/
structure Restream where
  panel : Fin 4
  feed : Nat
  drain : Nat
  both : Nat
  deriving DecidableEq, Repr

/-- A close of a REDUCE (R348): its TID and, by block, the faults of the circuits that the block's combine meets. -/
structure CloseFire where
  tid : BitVec 16
  hw : List (Nat × List Nat)
  deriving DecidableEq, Repr

/-- A port, and what its partner makes of it: it asks for ×4 (R286). -/
structure WidthAsk where
  port : Fin 16
  partner : Bool
  deriving DecidableEq, Repr

/-- A port that sends, and whether the idle flit sent before failed its CRC at the partner (R291). -/
structure SendTurn where
  port : Fin 16
  idleLost : Bool
  deriving DecidableEq, Repr

/-- The TICK edges that a timecode meets (R414, R416): how many are accepted between its arrival and its application, and whether it is applied in the
cycle of the next advance of the count. -/
structure TcEdges where
  edges : BitVec 8
  same : Bool
  deriving DecidableEq, Repr

/-- How far the record stands that is being written when the flash commit of supply stage 4 begins (R481): whether its payload is complete, and how many
bytes of it remain to be programmed. -/
structure Stage4Write where
  complete : Bool
  left : Nat
  deriving DecidableEq, Repr

/-- What the host writes into the configuration space of the PCI Express function (Table 18.1): Bus Master Enable, the addresses of BAR0 and BAR2, and
the enable of its MSI-X capability. -/
structure FnConfig where
  bme : Bool
  bar0 : BitVec 64
  bar2 : BitVec 64
  msix : Bool
  deriving DecidableEq, Repr

/-- A management access on the I3C bus (R529, R530): the address it is sent to, whether a byte of it fails its parity, and whether its command byte is
one that Table 18.5 does not have, in place of the row's own. -/
structure MgmtAccess where
  addr : BitVec 7
  parity : Bool
  unknown : Bool
  deriving DecidableEq, Repr

/-- What resets the PCI Express function (R515). -/
inductive FnReset where
  | perst | hot | flr
  deriving DecidableEq, Repr

/-- Which bytes of a register an access covers: all eight, or the lower or upper four (R15). -/
inductive Span where
  | whole | low | high
  deriving DecidableEq, Repr

/-- A window transfer, by its number, and the µs since its last packet was sent (R313). -/
structure WinWait where
  transfer : BitVec 16
  us : Nat
  deriving DecidableEq, Repr

/-- The commands: one constructor for each row of the opcode table, in its order. What a command brings is what the spec leaves to the world
outside the block (an input, a measurement, the outcome of a check) and the name of the unit that acts. [DESIGN CHOICE, log entries 8, 9] -/
inductive Instr where
  /-- HALT (R261): sequencer `q` executes the HALT at its program counter. -/
  | halt (q : Fin 4)
  /-- WAIT_TICK (R266): sequencer `q` executes the WAIT at its program counter. -/
  | waitTick (q : Fin 4)
  /-- WAIT_SLOT (R267): `cycles` are the ACLK cycles that the wait has stalled. -/
  | waitSlot (q : Fin 4) (cycles : Nat)
  /-- WAIT_DONE (R267). -/
  | waitDone (q : Fin 4)
  /-- SIGNAL_CLOSE (R268). -/
  | signalClose (q : Fin 4)
  /-- SIGNAL_DRAIN (R268). -/
  | signalDrain (q : Fin 4)
  /-- SIGNAL_SET (R268). -/
  | signalSet (q : Fin 4)
  /-- SETC (R269). -/
  | setc (q : Fin 4)
  /-- LOOP (R269). -/
  | loop (q : Fin 4)
  /-- BR (R269). -/
  | br (q : Fin 4)
  /-- CALL (R269). -/
  | call (q : Fin 4)
  /-- RET (R269). -/
  | ret (q : Fin 4)
  /-- LDS (R270). -/
  | lds (q : Fin 4)
  /-- LOADW (R271). -/
  | loadw (q : Fin 4)
  /-- STREAM (R271). -/
  | stream (q : Fin 4)
  /-- DRAIN (R271). -/
  | drain (q : Fin 4)
  /-- DENSE_PASS (R79): cycles frozen for want of rows, for want of room in the drain and for both, and cycles waited for weights. -/
  | densePass (feed drain both wait : Nat)
  /-- WEIGHT_LOAD (R82): the panel whose idle buffer is filled. -/
  | weightLoad (panel : Fin 4)
  /-- CHECK_TILE_COMPLETE (R97): `upsets` are the outputs (row, column, W48 pattern) that a fault in the panel has changed. -/
  | checkTileComplete (panel : Fin 4) (upsets : List (Nat × Nat × BitVec 48))
  /-- RECOMPUTE_TILE (R100). -/
  | recomputeTile (r : Restream)
  /-- DEFERRED_PASS (R102). -/
  | deferredPass
  /-- DENSE_OP_COMPLETE (R31). -/
  | denseOpComplete
  /-- PANEL_RETIRE (R107). -/
  | panelRetire (panel : Fin 4)
  /-- PANEL_REVIVE (R107). -/
  | panelRevive (panel : Fin 4)
  /-- CHECK_INJ (R106): the PANEL and COUNT written. -/
  | checkInj (panel : Fin 4) (count : Nat)
  /-- NOP (R118). -/
  | nop (q : Fin 4)
  /-- ADD (R142). -/
  | add (q : Fin 4)
  /-- SUB (R142). -/
  | sub (q : Fin 4)
  /-- MUL (R142). -/
  | mul (q : Fin 4)
  /-- FMA (R46). -/
  | fma (q : Fin 4)
  /-- AXPBY (R142). -/
  | axpby (q : Fin 4)
  /-- MAX (R46). -/
  | max (q : Fin 4)
  /-- MIN (R46). -/
  | min (q : Fin 4)
  /-- ABS (R142). -/
  | abs (q : Fin 4)
  /-- SEL (R142). -/
  | sel (q : Fin 4)
  /-- RELU (R142). -/
  | relu (q : Fin 4)
  /-- CONVERT (R142). -/
  | convert (q : Fin 4)
  /-- RCP (R143). -/
  | rcp (q : Fin 4)
  /-- RSQRT (R143). -/
  | rsqrt (q : Fin 4)
  /-- SQRT (R143). -/
  | sqrt (q : Fin 4)
  /-- EXP (R143). -/
  | exp (q : Fin 4)
  /-- LOG (R143). -/
  | log (q : Fin 4)
  /-- TANH (R143). -/
  | tanh (q : Fin 4)
  /-- SIGMOID (R143). -/
  | sigmoid (q : Fin 4)
  /-- GELU (R143). -/
  | gelu (q : Fin 4)
  /-- SILU (R143). -/
  | silu (q : Fin 4)
  /-- ROWSUM (R144). -/
  | rowsum (q : Fin 4)
  /-- ROWMAX (R144). -/
  | rowmax (q : Fin 4)
  /-- ROWSUMSQ (R144). -/
  | rowsumsq (q : Fin 4)
  /-- SOFTMAX (R145). -/
  | softmax (q : Fin 4)
  /-- LAYERNORM (R146). -/
  | layernorm (q : Fin 4)
  /-- RMSNORM (R146). -/
  | rmsnorm (q : Fin 4)
  /-- UPD_SGDM (R366). -/
  | updSgdm (q : Fin 4)
  /-- UPD_2MOM (R367). -/
  | upd2mom (q : Fin 4)
  /-- GATHER (R120). -/
  | gather (q : Fin 4)
  /-- SCATTER (R120). -/
  | scatter (q : Fin 4)
  /-- SCATTER_MERGE (R128). -/
  | scatterMerge (q : Fin 4)
  /-- SPMM (R139). -/
  | spmm (q : Fin 4)
  /-- COMPRESS (R136). -/
  | compress (q : Fin 4)
  /-- EXPAND (R137). -/
  | expand (q : Fin 4)
  /-- DROVER_OP_COMPLETE (R118): `cycles` are those that the operation took. -/
  | droverOpComplete (cycles : Nat)
  /-- SELECT_SEND (R157). -/
  | selectSend (q : Fin 4)
  /-- RESEND (R164). -/
  | resend (q : Fin 4)
  /-- RETURN (R164). -/
  | routeReturn (q : Fin 4)
  /-- COMBINE (R164). -/
  | combine (q : Fin 4)
  /-- ROUTE_ALLOC_GO (R165): the SEQ written. -/
  | routeAllocGo (seq : BitVec 16)
  /-- ROUTE_ALLOC_TIMEOUT (R165). -/
  | routeAllocTimeout
  /-- SHUFFLE_SEND (R168). -/
  | shuffleSend
  /-- TALLY (R274). -/
  | tally (q : Fin 4)
  /-- CHECK (R274). -/
  | check (q : Fin 4)
  /-- XFER_LOCAL (R275). -/
  | xferLocal (q : Fin 4)
  /-- XFER_WINDOW_WRITE (R275). -/
  | xferWindowWrite (q : Fin 4)
  /-- XFER_NEIGHBOUR_SEND (R314). -/
  | xferNeighbourSend (q : Fin 4)
  /-- XFER_WINDOW_READ (R275). -/
  | xferWindowRead (q : Fin 4)
  /-- REDUCE (R276). -/
  | reduce (q : Fin 4)
  /-- SOURCE_BLOCK_FORM (R336): the REDUCE is named by its TID. -/
  | sourceBlockForm (tid : BitVec 16)
  /-- COMBINE_FIRE (R339): the block, and for each attempt the fault of the circuits: 0 none, 2 one that the sum check finds, 3 one that the narrowing check finds. -/
  | combineFire (tid : BitVec 16) (block : Nat) (hw : List Nat)
  /-- REDUCE_CLOSE (R348). -/
  | reduceClose (c : CloseFire)
  /-- RESULT_MISSING (R351). -/
  | resultMissing (tid : BitVec 16)
  /-- REDUCE_COMPLETE (R351). -/
  | reduceComplete (tid : BitVec 16)
  /-- ADJ_REVIEW (R352): the group. -/
  | adjReview (g : Fin 4)
  /-- STEP_START (R260). -/
  | stepStart
  /-- STEP_COMPLETE (R34). -/
  | stepComplete
  /-- FORCED_HALT (R263): the sequencer that has not halted. -/
  | forcedHalt (q : Fin 4)
  /-- HOOK_QUEUE (R277): the tag, and the page that C13 takes, if any. -/
  | hookQueue (tag : Nat) (page : Option Nat)
  /-- HOOK_TAKE (R277). -/
  | hookTake (q : Fin 4)
  /-- DESC_COMMIT (R195): the NUMBER written with COMMIT 1. -/
  | descCommit (number : BitVec 12)
  /-- DESC_VALIDATE_DONE (R195). -/
  | descValidateDone
  /-- SLOT_STALL_RESUME (R213): `cycles` are those that the access has stalled. -/
  | slotStallResume (w : Staller) (time : StallTime)
  /-- SLOT_READ_TIMEOUT (R215). -/
  | slotReadTimeout (w : Staller) (time : StallTime)
  /-- SLOT_WRITE_TIMEOUT (R216). -/
  | slotWriteTimeout (w : Staller) (time : StallTime)
  /-- PATROL_READ (R224): the reader, and what has struck since the last command that says so. -/
  | patrolRead (reader : Fin 76) (upsets : List Upset)
  /-- MEM_REQUEST (R231): channel, hint, stack address, what is asked, and what has struck the bursts and the arrays. -/
  | memRequest (ch : Nat) (hint : Hint) (addr : BitVec 40) (ask : MemAsk) (bursts cells : List Upset)
  /-- CACHE_FILL_ARRIVE (R241): the line, and what has struck. -/
  | cacheFillArrive (line : Nat) (upsets : List Upset)
  /-- PREFETCH_ISSUE (R246): the line, and the demand requests that its controller holds. -/
  | prefetchIssue (line queued : Nat)
  /-- PREFETCH_DROP (R246). -/
  | prefetchDrop (line : Nat)
  /-- STREAM_IDLE_FREE (R245): the channel, and the cycles since its stream last moved. -/
  | streamIdleFree (ch cycles : Nat)
  /-- PAGE_RETIRE (R251). -/
  | pageRetire
  /-- PAGE_REPAIR (R251): `spare` says that a spare row was free. -/
  | pageRepair (page : BitVec 24) (spare : Bool)
  /-- CACHE_FLUSH (R255). -/
  | cacheFlush
  /-- UNKEEP (R239). -/
  | unkeep
  /-- PORT_TRAIN (R285): whether a partner is found, whether the low and the high four lanes train, and the round trip measured. -/
  | portTrain (n : Fin 16) (partner low high : Bool) (delay : Nat)
  /-- PARTNER_DETECT_RETRY (R285). -/
  | partnerDetectRetry (n : Fin 16) (partner low high : Bool) (delay : Nat)
  /-- DOWN_RETRY (R285): the lanes that train, and the round trip measured. -/
  | downRetry (n : Fin 16) (low high : Bool) (delay : Nat)
  /-- WIDTH_CHANGE (R286). -/
  | widthChange (a : WidthAsk)
  /-- FLIT_RECEIVE (R289): the bytes of the flit as they arrive. -/
  | flitReceive (n : Fin 16) (data : List Byte)
  /-- FLIT_TRANSMIT (R294). -/
  | flitTransmit (a : SendTurn)
  /-- NAK_REPEAT (R289). -/
  | nakRepeat (n : Fin 16)
  /-- QUICK_RETRAIN (R290): the lanes that train, the round trip measured, and the credits that the partner restates. -/
  | quickRetrain (n : Fin 16) (low high : Bool) (delay : Nat) (credits : List Nat)
  /-- RETRAIN (R290). -/
  | retrain (n : Fin 16) (low high : Bool) (delay : Nat)
  /-- PORT_DISABLE (R285). -/
  | portDisable (n : Fin 16)
  /-- FULLTRAIN (R285). -/
  | fulltrain (n : Fin 16) (partner low high : Bool) (delay : Nat)
  /-- HEARTBEAT_SEND (R315). -/
  | heartbeatSend
  /-- HEARTBEAT (R316): the port at whose receive buffer the packet stands; so for the other received packets. -/
  | heartbeat (n : Fin 16)
  /-- NEIGHBOUR_LOST (R319): the direction. -/
  | neighbourLost (d : Fin 8)
  /-- EPOCH_CHANGE (R321). -/
  | epochChange (n : Fin 16)
  /-- CENSUS_START (R474). -/
  | censusStart
  /-- CENSUS_REQ (R322). -/
  | censusReq (n : Fin 16)
  /-- CENSUS_REPLY (R322). -/
  | censusReply (n : Fin 16)
  /-- CENSUS_WAIT_EXPIRE (R322). -/
  | censusWaitExpire
  /-- CENSUS_OK (R322). -/
  | censusOk (n : Fin 16)
  /-- NOTIFY (R297). -/
  | notify (n : Fin 16)
  /-- VACATE_EPOCH (R443). -/
  | vacateEpoch
  /-- DEADLINE_ADJ (R323). -/
  | deadlineAdj (n : Fin 16)
  /-- ADOPT (R449). -/
  | adopt (n : Fin 16)
  /-- ADOPT_FETCH (R450). -/
  | adoptFetch
  /-- ADOPT_COMPLETE (R451). -/
  | adoptComplete
  /-- WIN_WRITE (R311). -/
  | winWrite (n : Fin 16)
  /-- WIN_READ (R312). -/
  | winRead (n : Fin 16)
  /-- WIN_DATA (R313). -/
  | winData (n : Fin 16)
  /-- WIN_DONE (R313). -/
  | winDone (n : Fin 16)
  /-- WIN_TIMEOUT (R313): the transfer and the time since its last packet was sent. -/
  | winTimeout (w : WinWait)
  /-- NEIGHBOUR (R314). -/
  | neighbour (n : Fin 16)
  /-- ROUTED_ROW (R158). -/
  | routedRow (n : Fin 16)
  /-- ROUTE_CLOSE (R159). -/
  | routeClose (n : Fin 16)
  /-- SAMPLE (R209). -/
  | sample (n : Fin 16)
  /-- G16 (R330): `upset` says that the packet's residue check fails. -/
  | g16 (n : Fin 16) (upset : Bool)
  /-- TIMECODE (R414): the phase at which it arrives and the time it resides here, in nanoseconds, and the TICK edges that it meets. -/
  | timecode (n : Fin 16) (phi residence : BitVec 32) (edges : TcEdges)
  /-- TIMECODE_SEND (R413). -/
  | timecodeSend (delay : BitVec 32)
  /-- SEND_TC (R413). -/
  | sendTc
  /-- TICK_SET (R416). -/
  | tickSet (v : BitVec 64)
  /-- TICK_EDGE (R406): REFCLK cycles since the last accepted edge. -/
  | tickEdge (gap : BitVec 32)
  /-- TICK_LOSS (R408). -/
  | tickLoss
  /-- FREEWHEEL_ADVANCE (R408). -/
  | freewheelAdvance
  /-- SCHED_INSTALL (R417): the entry, and the word 1 written. -/
  | schedInstall (n : Fin 64) (w : BitVec 64)
  /-- POWER_ENTRY_FIRE (R420). -/
  | powerEntryFire
  /-- CHECKPOINT_ENTRY_FIRE (R421). -/
  | checkpointEntryFire
  /-- GOVERNOR_ADMIT (R425): CCLK cycles since the governor last acted. -/
  | governorAdmit (cycles : BitVec 32)
  /-- VETO_RELEASE (R425). -/
  | vetoRelease (cycles : BitVec 32)
  /-- VETO_EXPIRE (R425). -/
  | vetoExpire (q : Fin 4) (cycles : BitVec 32)
  /-- PREDICTOR_SAMPLE (R427). -/
  | predictorSample
  /-- PRED_RESET (R429). -/
  | predReset
  /-- ETH_PORT_TRAIN (R374). -/
  | ethPortTrain (port : Fin 2) (lanes : BitVec 8)
  /-- ETH_FRAME_RECEIVE (R375): its length in bytes and its IEEE 802.1Q tags. -/
  | ethFrameReceive (port : Fin 2) (frame : EthFrame) (len tags : Nat)
  /-- PFC_FRAME (R376). -/
  | pfcFrame (port : Fin 2) (prio : Fin 8) (pause : Bool)
  /-- SAMPLE_FETCH (R383). -/
  | sampleFetch
  /-- READ_ISSUE (R380). -/
  | readIssue (qp : BitVec 12)
  /-- READ_RESPONSE (R377): `ce` says that it is marked CE, `since` that 50 µs have passed since the last notification on the queue pair. -/
  | readResponse (qpn : BitVec 24) (place : ReadPlace) (ce since : Bool) (data : List Byte)
  /-- ACKNOWLEDGE (R379): the local queue-pair number that it names. -/
  | acknowledge (qpn : BitVec 24) (kind : AckKind)
  /-- TRANSPORT_TIMEOUT (R379). -/
  | transportTimeout (wait : QpWait)
  /-- QP_RESET (R379). -/
  | qpReset (qp : BitVec 12)
  /-- QP_RESET_ALL (R379). -/
  | qpResetAll
  /-- PIPE_ASSIGN (R390). -/
  | pipeAssign (info : StreamInfo)
  /-- FRAME_DECODE (R391): the pipe, what has become of the picture, and the picture. -/
  | frameDecode (pipe : Fin 48) (f : FrameResult) (pic : Picture)
  /-- TOKENISE_FRAME (R393). -/
  | tokeniseFrame
  /-- SAMPLE_DELIVER (R396): the place of the sample among those taken up, whether its stream has ended, and the staging slot that takes it. -/
  | sampleDeliver (which : Nat) (ended : Bool) (slot : Nat)
  /-- SAMPLE_ABANDON (R399). -/
  | sampleAbandon
  /-- LOCKSTEP_MISMATCH (R438): `within` says that a lock-up has occurred in the last second. -/
  | lockstepMismatch (within : Bool)
  /-- FIRMWARE_RESUME (R439): whether the copy in control SRAM verifies, and how many reads of the flash record fail. -/
  | firmwareResume (copyOk : Bool) (fails : Fin 4)
  /-- WDOG_KICK (R440). -/
  | wdogKick
  /-- WATCHDOG_RESET (R440). -/
  | watchdogReset
  /-- SNAPSHOT (R458). -/
  | snapshot
  /-- YIELD (R452). -/
  | yield
  /-- LOCKSTEP_INJ (R460): `within` as for LOCKSTEP_MISMATCH. -/
  | lockstepInj (within : Bool)
  /-- LOG_ENTRY_WRITE (R454). -/
  | logEntryWrite
  /-- W1C_CLEAR (R12): the register's number, which is its control-space offset divided by 8, and the ones written. -/
  | w1cClear (reg : BitVec 21) (ones : BitVec 64)
  /-- RC_READ (R13): the register's number and the bytes read. -/
  | rcRead (reg : BitVec 21) (p : Span)
  /-- REGISTER_WRITE (R11): the register's number, the bytes written, and the value in its place. -/
  | registerWrite (reg : BitVec 21) (p : Span) (v : BitVec 64)
  /-- ADDRESS_ERROR (R8): the address, and whether it is written. -/
  | addressError (addr : BitVec 44) (write : Bool)
  /-- OPEN (R471). -/
  | imgOpen (slot : Fin 64)
  /-- STORE (R471). -/
  | store (slot : Fin 64)
  /-- LOAD (R471). -/
  | load (slot : Fin 64)
  /-- STORE_LOAD (R471). -/
  | storeLoad (slot : Fin 64)
  /-- DELETE (R471). -/
  | delete (slot : Fin 64)
  /-- DEFAULT (R471). -/
  | default (slot : Fin 64)
  /-- SWITCH (R471). -/
  | switch (slot : Fin 64)
  /-- OWNER (R470). -/
  | owner (slot : Fin 64)
  /-- NODEFAULT (R471). -/
  | nodefault (slot : Fin 64)
  /-- IMG_OP_COMPLETE (R475): how many reads of the slot fail, and how many flash pages fail to program. -/
  | imgOpComplete (readFails : Fin 4) (progFails : Nat)
  /-- IMAGE_INSTALL (R472). -/
  | imageInstall
  /-- IMAGE_WINDOW_WRITE (R517). -/
  | imageWindowWrite (offset : BitVec 22) (data : List Byte)
  /-- FW_STAGE (R477). -/
  | fwStage
  /-- FW_STORE (R477). -/
  | fwStore
  /-- FW_SWITCH (R477). -/
  | fwSwitch
  /-- FW_SWITCH_EXEC (R477). -/
  | fwSwitchExec
  /-- JOURNAL_COMPACT (R480). -/
  | journalCompact
  /-- QUOTE (R483). -/
  | quote
  /-- QUOTE_SIGNED (R483). -/
  | quoteSigned
  /-- SUPPLY_SAMPLE (R491): the input in millivolts. -/
  | supplySample (mv : BitVec 16)
  /-- STAGE4_COMMIT_DONE (R493): how far a record being written stood. -/
  | stage4CommitDone (w : Stage4Write)
  /-- BROWN_OUT (R491). -/
  | brownOut
  /-- OVERVOLTAGE (R489). -/
  | overvoltage
  /-- PWR_FAIL (R494): the level of PWR_FAIL_L. -/
  | pwrFail (low : Bool)
  /-- POWER_ON (R495). -/
  | powerOn
  /-- PIN_RESET (R499): whether RESET_L has gone low. -/
  | pinReset (low : Bool)
  /-- ENGINE_RESET (R497). -/
  | engineReset (key : BitVec 8)
  /-- CHIP_RESET (R497). -/
  | chipReset (key : BitVec 8)
  /-- DEBUG_RESET (R496). -/
  | debugReset
  /-- CLOCK_FAILURE (R498). -/
  | clockFailure
  /-- CLOCK_RECOVER (R498). -/
  | clockRecover
  /-- RELEASE_STEP_COMPLETE (R501): the option pins, and how many reads of flash fail. -/
  | releaseStepComplete (pins : BitVec 8) (fails : Nat)
  /-- THERMAL_TRIP (R504): the die and stack readings in degrees. -/
  | thermalTrip (die stack : BitVec 8)
  /-- ALERT_JUDGEMENT (R505): the readings of input voltage, current, power and temperature, and the energy in millijoules since the last. -/
  | alertJudgement (vin iin pin : BitVec 16) (die stack stageT : BitVec 8) (mj : BitVec 16)
  /-- BAR0_BAD_ACCESS (R514). -/
  | bar0BadAccess
  /-- WINDOW_READ (R518). -/
  | windowRead (n : Fin 64) (off : BitVec 22) (len : BitVec 13)
  /-- WINDOW_WRITE (R518). -/
  | windowWrite (n : Fin 64) (off : BitVec 22) (data : List Byte)
  /-- WINDOW_CONFIG (R520). -/
  | windowConfig (n : Fin 64) (v : BitVec 64)
  /-- FUNCTION_RESET (R515). -/
  | functionReset (kind : FnReset)
  /-- PCIE_LINK_DOWN (R516). -/
  | pcieLinkDown
  /-- MIRROR_WRITE (R525). -/
  | mirrorWrite
  /-- MSIX_MESSAGE (R527). -/
  | msixMessage
  /-- KILL (R528): the KEY written. -/
  | kill (key : BitVec 8)
  /-- IDENT (R530): how it arrives, and what it writes; so for the other management commands. -/
  | ident (x : MgmtAccess) (data : List Byte)
  /-- STATUS (R530). -/
  | status (x : MgmtAccess) (data : List Byte)
  /-- TELEM (R530). -/
  | telem (x : MgmtAccess) (data : List Byte)
  /-- TEMP (R530). -/
  | temp (x : MgmtAccess) (data : List Byte)
  /-- ENERGY (R530). -/
  | energy (x : MgmtAccess) (data : List Byte)
  /-- ALERT (R530). -/
  | alert (x : MgmtAccess) (data : List Byte)
  /-- CAUSE (R530). -/
  | cause (x : MgmtAccess) (data : List Byte)
  /-- STAGES (R530). -/
  | stages (x : MgmtAccess) (data : List Byte)
  /-- POSITION (R530). -/
  | position (x : MgmtAccess) (data : List Byte)
  /-- RESET (R530). -/
  | reset (x : MgmtAccess) (data : List Byte)
  /-- SETDASA (R529): the static address named and the dynamic address given. -/
  | setdasa (parity : Bool) (static dyn : BitVec 7)
  /-- ENTDAA (R529): whether arbitration is won, and the dynamic address given. -/
  | entdaa (parity won : Bool) (dyn : BitVec 7)
  /-- RSTDAA (R529). -/
  | rstdaa (parity : Bool)
  /-- ENEC (R529). -/
  | enec (parity : Bool) (events : BitVec 8)
  /-- DISEC (R529). -/
  | disec (parity : Bool) (events : BitVec 8)
  /-- GETPID (R529). -/
  | getpid (parity : Bool)
  /-- GETBCR (R529). -/
  | getbcr (parity : Bool)
  /-- GETDCR (R529). -/
  | getdcr (parity : Bool)
  /-- GETSTATUS (R529). -/
  | getstatus (parity : Bool)
  /-- SETMWL (R529). -/
  | setmwl (parity : Bool) (limit : BitVec 16)
  /-- GETMWL (R529). -/
  | getmwl (parity : Bool)
  /-- SETMRL (R529). -/
  | setmrl (parity : Bool) (limit : BitVec 16)
  /-- GETMRL (R529). -/
  | getmrl (parity : Bool)
  /-- IN_BAND_INTERRUPT (R531): whether the controller accepts it. -/
  | inBandInterrupt (accepted : Bool)
  /-- IBI_RETRY (R531). -/
  | ibiRetry (accepted : Bool)
  /-- RUN_ARM (R539). -/
  | runArm
  /-- RUN_STOP (R543). -/
  | runStop
  /-- SAMPLE_TAKE (R535): cycles since the last sample, and what the engines' timing shows. -/
  | sampleTake (cycles : BitVec 32) (p : Probe)
  /-- RING_BURST_WRITE (R541). -/
  | ringBurstWrite
  /-- RING_BURST_ACCEPT (R545). -/
  | ringBurstAccept
  /-- WRITE_BURST_REJECTED (R250): the burst, and how many times it is rejected. -/
  | writeBurstRejected (addr : BitVec 40) (len : Nat) (rejects : Fin 4)
  /-- PCIE_LINK_UP (R515): the rate, width and mode of Table 18.11. -/
  | pcieLinkUp (rate width : BitVec 3) (flit : Bool)
  /-- BROWN_OUT_RELEASE (R490). -/
  | brownOutRelease
  /-- OVERVOLTAGE_RELEASE (R489). -/
  | overvoltageRelease
  /-- POWER_LOSS (R495). -/
  | powerLoss
  /-- FW_OP_COMPLETE (R477): how many reads fail, and how many flash pages fail to program. -/
  | fwOpComplete (readFails : Fin 4) (progFails : Nat)
  /-- LIFETIME_WRITE (R479). -/
  | lifetimeWrite
  /-- VECTOR_UNMASK (R527). -/
  | vectorUnmask
  /-- HOLDOFF_EXPIRE (R527). -/
  | holdoffExpire
  /-- BUS_MASTER_ENABLE (R513): the configuration of the function as the host writes it, and whether it puts it in D3hot. -/
  | busMasterEnable (c : FnConfig) (d3hot : Bool)
  deriving DecidableEq, Repr

end Sys2Proof
end

