-- ==== Sys2Proof/Decode.lean ====
section
/-!
DEFINITION. Decode.lean: the command that a word of the opcode table's numbering spells. No row of the table gives bits.
-/

namespace Sys2Proof

/-- No row of the opcode table gives bits, so no word spells a command. [DESIGN CHOICE, log entry 11] -/
def decodeTableWord (_nbits _w : Nat) : Option Instr := none

end Sys2Proof
end

