-- ==== Sys2Proof/Machine/Crypto.lean ====
section
/-!
DEFINITION. Machine/Crypto.lean: SHA-256 and the verification of ECDSA signatures on P-256, by which images, owner requests and
firmware are judged (16 R469, R470, R476).
-/

namespace Sys2Proof.Machine

/-! SHA-256. Its constants are computed from what they stand for: the first 32 bits of the fractional parts of roots of primes. -/

abbrev W32 := BitVec 32

/-- The integer whose `n` bits, from the top, are chosen greedily so that its `k`-th power does not pass `v`. -/
def rootBits (k v : Nat) : Nat → Nat → Nat
  | 0, r => r
  | n + 1, r => rootBits k v n (if (r + 2 ^ n) ^ k ≤ v then r + 2 ^ n else r)

/-- The primes below 312, of which there are 64. -/
def shaPrimes : List Nat :=
  (List.range 312).filter (fun n => decide (2 ≤ n) && (List.range 18).all (fun d => decide (d < 2) || n % d != 0 || n == d))

/-- The first 32 bits of the fraction of the `k`-th root of a number. -/
def rootFrac (k p : Nat) : W32 := BitVec.ofNat 32 (rootBits k (p * 2 ^ (32 * k)) 40 0)

/-- The exclusive or of a word rotated right by each of some amounts. -/
def rotXor (ns : List Nat) (x : W32) : W32 := ns.foldl (fun y n => y ^^^ x.rotateRight n) 0

/-- The two halves of the working state, each newest word first. -/
abbrev ShaPair := List W32 × List W32

/-- One round takes the sum of its constant and message word: each half moves on by one word. -/
def shaTurn (v : ShaPair) (kw : W32) : ShaPair :=
  match v with
  | ([a, b, c, d], [e, f, g, h]) =>
    let t := kw + h + rotXor [6, 11, 25] e + (g ^^^ (e &&& (f ^^^ g)))
    ([t + rotXor [2, 13, 22] a + ((a &&& b) ||| (c &&& (a ||| b))), a, b, c], [d + t, e, f, g])
  | v => v

/-- The message words, newest first, grown by `n` words. -/
def shaGrow : Nat → List W32 → List W32
  | 0, ws => ws
  | n + 1, ws =>
    let near := ws.getD 1 0
    let far := ws.getD 14 0
    shaGrow n ((ws.getD 15 0 + ws.getD 6 0 + (rotXor [7, 18] far ^^^ far >>> 3) + (rotXor [17, 19] near ^^^ near >>> 10)) :: ws)

/-- The big-endian number that bytes spell. -/
def ofBytesBE (bs : List Byte) : Nat := ofBytes bs.reverse

/-- The low `n` bytes of a number, most significant first. -/
def toBytesBE (n w : Nat) : List Byte := (toBytes n w).reverse

/-- The big-endian words of the first 64 bytes, last word first. -/
def shaWords (bs : List Byte) : List W32 :=
  (List.range 16).map (fun i => BitVec.ofNat 32 (ofBytesBE ((bs.drop (60 - 4 * i)).take 4)))

/-- The first 64 bytes compressed into the state. -/
def shaAbsorb (v : ShaPair) (bs : List Byte) : ShaPair :=
  let ws := (shaGrow 48 (shaWords bs)).reverse
  let y := (shaPrimes.zipWith (fun p w => rootFrac 3 p + w) ws).foldl shaTurn v
  (v.1.zipWith (· + ·) y.1, v.2.zipWith (· + ·) y.2)

/-- `n` blocks of a padded message absorbed. -/
def shaRun : Nat → ShaPair → List Byte → ShaPair
  | 0, v, _ => v
  | n + 1, v, bs => shaRun n (shaAbsorb v bs) (bs.drop 64)

/-- The SHA-256 of a message. [PRESUMED, log entry 126] -/
def sha256 (msg : List Byte) : List Byte :=
  let padded := msg ++ [0x80] ++ List.replicate ((119 - msg.length % 64) % 64) 0 ++ toBytesBE 8 (8 * msg.length)
  let start := (shaPrimes.take 8).map (rootFrac 2)
  let v := shaRun (padded.length / 64) (start.take 4, start.drop 4) padded
  (v.1 ++ v.2).flatMap (fun w => toBytesBE 4 w.toNat)

/-! P-256. -/

def p256 : Nat := 0xffffffff00000001000000000000000000000000ffffffffffffffffffffffff
def p256n : Nat := 0xffffffff00000000ffffffffffffffffbce6faada7179e84f3b9cac2fc632551
def p256b : Nat := 0x5ac635d8aa3a93e7b3ebbd55769886bc651d06b0cc53b0f63bce3c3e27d2604b
def p256gx : Nat := 0x6b17d1f2e12c4247f8bce6e563a440f277037d812deb33a0f4a13945d898c296
def p256gy : Nat := 0x4fe342e2fe1a7f9b8ee7eb4a7c0f9e162bce33576b315ececbb6406837bf51f5

/-- `a - b` in the field. -/
def fsub (a b : Nat) : Nat := (a + (p256 - b % p256)) % p256

/-- `acc` squared and multiplied once for each of the low `n` bits of `e`, from the top: `a` to that power when `acc` is 1. -/
def powMod (m a e : Nat) : Nat → Nat → Nat
  | 0, acc => acc
  | n + 1, acc => powMod m a e n (if e.testBit n then acc * acc % m * a % m else acc * acc % m)

/-- The inverse modulo a prime. -/
def invMod (m a : Nat) : Nat := powMod m (a % m) (m - 2) 256 1

/-- A point in Jacobian coordinates; `z = 0` is the point at infinity. -/
structure JPoint where
  x : Nat
  y : Nat
  z : Nat
  deriving DecidableEq, Repr

def JPoint.zero : JPoint := { x := 1, y := 1, z := 0 }

/-- A point doubled. -/
def JPoint.double (p : JPoint) : JPoint :=
  if p.z = 0 ∨ p.y = 0 then .zero
  else
    let yy := p.y * p.y % p256
    let s := 4 * p.x * yy % p256
    let zz := p.z * p.z % p256
    let m := 3 * (fsub p.x zz) * (p.x + zz) % p256
    let x := fsub (m * m) (2 * s)
    { x := x, y := fsub (m * fsub s x) (8 * yy * yy), z := 2 * p.y * p.z % p256 }

/-- The sum of two points. -/
def JPoint.add (p q : JPoint) : JPoint :=
  if p.z = 0 then q
  else if q.z = 0 then p
  else
    let z1 := p.z * p.z % p256
    let z2 := q.z * q.z % p256
    let u1 := p.x * z2 % p256
    let u2 := q.x * z1 % p256
    let s1 := p.y * q.z * z2 % p256
    let s2 := q.y * p.z * z1 % p256
    if u1 = u2 then (if s1 = s2 then p.double else .zero)
    else
      let h := fsub u2 u1
      let r := fsub s2 s1
      let hh := h * h % p256
      let hhh := h * hh % p256
      let v := u1 * hh % p256
      let x := fsub (fsub (r * r) hhh) (2 * v)
      { x := x, y := fsub (r * fsub v x) (s1 * hhh), z := p.z * q.z * h % p256 }

/-- A point times the number that the low `n` bits of `k` spell. -/
def JPoint.mul (p : JPoint) (k : Nat) : Nat → JPoint → JPoint
  | 0, acc => acc
  | n + 1, acc => JPoint.mul p k n (if k.testBit n then acc.double.add p else acc.double)

/-- A signature of a hash verifies under a public key (ECDSA on P-256); all of them big-endian (R469). [PRESUMED, log entry 126] -/
def ecdsaOk (key hash sig : List Byte) : Bool :=
  let qx := ofBytesBE (key.take 32)
  let qy := ofBytesBE ((key.drop 32).take 32)
  let r := ofBytesBE (sig.take 32)
  let s := ofBytesBE ((sig.drop 32).take 32)
  if key.length ≠ 64 ∨ sig.length ≠ 64 ∨ r = 0 ∨ s = 0 ∨ r ≥ p256n ∨ s ≥ p256n ∨ qx ≥ p256 ∨ qy ≥ p256 then false
  else if qy * qy % p256 ≠ fsub (qx * qx * qx + p256b) (3 * qx) then false
  else
    let w := invMod p256n s
    let u1 := ofBytesBE hash * w % p256n
    let u2 := r * w % p256n
    let g : JPoint := { x := p256gx, y := p256gy, z := 1 }
    let q : JPoint := { x := qx, y := qy, z := 1 }
    let p := (g.mul u1 256 .zero).add (q.mul u2 256 .zero)
    if p.z = 0 then false
    else
      let zi := invMod p256 p.z
      p.x * (zi * zi % p256) % p256 % p256n == r

end Sys2Proof.Machine
end

