-- ==== Sys2Proof/Config.lean ====
section
/-!
DEFINITION. Config.lean: what the spec leaves open. Each constant has no body, so nothing can be proved of its values
but what holds for every value. A constant whose first argument is a number is applied to the model's own counter
`State.free` (or to the operands it depends on), so that each use is a value of its own.
-/

namespace Sys2Proof.Config

/-- The CYCLE field of an event-log entry: CCLK cycles since the tick count last advanced (Table 15.5). The model has
no clock cycles. [DESIGN CHOICE, log entry 20] -/
opaque logCycle : Nat → BitVec 16

/-- The contents of the stores whose contents a reset leaves undefined (R554), as bytes at local addresses. [DESIGN CHOICE, log entries 2, 57] -/
opaque undefCells : Nat → List Host.Cell

/-- Whether a check row passes whose sums are not finite; R97 states the comparison for numbers only. [DESIGN CHOICE, log entry 33] -/
opaque checkNonFinite : Nat → Bool

/-- A weight read through sparsity metadata that breaks Table 3.5, or through a pattern that is not transposable
(R111, R113), as a W48 pattern. [DESIGN CHOICE, log entry 34] -/
opaque badSparse : Nat → BitVec 48

/-- The activation of its group that a weight slot selects under such metadata or such a pattern (R110, R111). [DESIGN CHOICE, log entry 34] -/
opaque badIndex : Nat → BitVec 3

/-- The binary32 pattern a special function delivers, by function code and operand pattern (R143): the spec states a
bound on its error and the special values, not the value. [DESIGN CHOICE, log entry 44] -/
opaque specialFn : Nat → BitVec 32 → BitVec 32

/-- Which of two writes survives when the spec leaves the survivor unspecified (R126, R183). [DESIGN CHOICE, log entry 42] -/
opaque survivor : Nat → Bool

/-- A value that the spec leaves unspecified, as a W48 pattern: what an operation delivers when what it reads and what it
writes overlap otherwise than R186 allows. [DESIGN CHOICE, log entry 41] -/
opaque openVal : Nat → BitVec 48

/-- The tag of the return table of a receive area (R163): the image names it, in no section that the spec lays out. [DESIGN CHOICE, log entry 50] -/
opaque returnTag : BitVec 12 → BitVec 12

/-- The tag of the return area that goes with a record tensor, by the record tensor's tag (R158): no operand or section
names it. [DESIGN CHOICE, log entry 50] -/
opaque returnArea : BitVec 12 → BitVec 12

/-- The number of the descriptor of the expert table that goes with a record tensor, by the record tensor's tag: RESEND names
no expert table (Table 9.4), and a record names an expert by number only. [DESIGN CHOICE, log entry 50] -/
opaque expertTable : BitVec 12 → BitVec 12

/-- The order in which the partial rows of a split SPMM row are added (R141): the position drawn next. [DESIGN CHOICE, log entry 46] -/
opaque partialOrder : Nat → Nat

/-- The lane group to which a row of an SPMM is dealt: the next that falls free (R139). [DESIGN CHOICE, log entry 46] -/
opaque dealtGroup : Nat → Fin 64

/-- A coefficient of the energy prediction from the module's calibration record, in femtojoules per unit (R426, Table
14.5), worst or typical, by term: 0, 1, 2 per operation of density factor 1, 2, 4; 3 per drover element operation; 4 per
stack byte; 5 per scratchpad or buffer byte; 6 per link byte. The spec gives averages, not a module's own values. [DESIGN CHOICE, log entry 83] -/
opaque calibration : Bool → Nat → Nat

/-- Whether the `n`-th BAR0 request of an unsupported form is a read. [DESIGN CHOICE, log entry 162] -/
opaque badRead : Nat → Bool

/-- How far a module's idle power lies above the least, in watts (R555). [DESIGN CHOICE, log entry 83] -/
opaque idleAbove : Nat

/-- The idle power of the calibration record, in watts: between 180 and 300 (R555, Table 14.12). [DESIGN CHOICE, log entry 83] -/
def idlePower : BitVec 16 := BitVec.ofNat 16 (180 + idleAbove % 121)

/-- The EVENT number of a log entry for an event that no table of R456 lists, by the model's number for the event. [DESIGN CHOICE, log entry 17] -/
opaque unlistedEvent : Nat → BitVec 8

/-- The SHA-256 of the key that Spentozia writes into owner-key slot 0 at manufacture (R470). [DESIGN CHOICE, log entry 125] -/
opaque ownerKey : List Byte

/-- The ROOT fuse: the SHA-256 of Spentozia's firmware key (R476). [DESIGN CHOICE, log entry 125] -/
opaque rootKey : List Byte

/-- The serial number of the identity record (R470, R529). [DESIGN CHOICE, log entry 125] -/
opaque serial : BitVec 64

/-- The MAC address of an ingest port in the identity record (R375). [DESIGN CHOICE, log entry 125] -/
opaque portMac : Nat → BitVec 48

/-- The DER certificate of the identity key (R483, R485). [DESIGN CHOICE, log entry 125] -/
opaque certificate : List Byte

/-- The signature of the identity key over a message, 64 bytes (R483): the key is sealed in fuses, and no rule fixes the nonce.
[DESIGN CHOICE, log entry 125] -/
opaque sign : List Byte → List Byte

/-- The CODE of the NOTIFY with which a module reports that its census had not completed by the base tick (R28 gives none).
[DESIGN CHOICE, log entry 68] -/
opaque censusCode : BitVec 8

/-- Whether a quotient that a register shows as a whole number is rounded up, by what is divided: no rule states the rounding of
PERIOD_PS, K and T_EST (R407, R427, R428). [DESIGN CHOICE, log entry 26] -/
opaque roundUp : Nat → Bool

/-- The factor *k* × 4,096 over samples whose predicted energy is zero: R427 divides by it. [DESIGN CHOICE, log entry 82] -/
opaque openFactor : Nat → Nat

/-- The provisioned ID of the I3C target, by the serial number from which R529 says that it is derived. [DESIGN CHOICE, log entry 131] -/
opaque provisionedId : BitVec 64 → BitVec 48

/-- The device characteristics register of the I3C target, which R529 does not give. [DESIGN CHOICE, log entry 131] -/
opaque i3cDcr : BitVec 8

/-- What GETSTATUS returns, whose contents R529 does not give. [DESIGN CHOICE, log entry 131] -/
opaque i3cStatus : Nat → BitVec 16

/-- How many blocks of flash a compaction erases: no rule gives the place of the journal's records (R480). [DESIGN CHOICE, log entry 123] -/
opaque erasedBlocks : Nat → Nat

/-- What PMTU code 3 stands for, which Table 13.1 reserves: a code among 0 to 2. [DESIGN CHOICE, log entry 101] -/
opaque reservedPmtu : Fin 3

/-- How an interlaced frame is treated under DEINT 3, which Table 13.4 reserves: a code among 0 to 2. [DESIGN CHOICE, log entry 101] -/
opaque reservedDeint : Fin 3

/-- A field of a sample record that describes what no sample had, such as the size of a picture when none was found (Table 13.5). -/
opaque openRecord : Nat → BitVec 33

/-- Whether the last lock-up is less than a second old when a register write injects another: the model has no seconds. [DESIGN CHOICE, log entry 22] -/
opaque lockedUpLately : Nat → Bool

/-- Whether the dense engine froze in the cycle in which DNS_STATUS is read: the model has no clock cycles. [DESIGN CHOICE, log entry 27] -/
opaque frozen : Nat → Bool

/-- The cycles that a stream which no row of the table measures was held: frozen for want of rows alone (0), of room in the drain alone (1), of both
(2), and waiting for weights (3). [DESIGN CHOICE, log entry 147] -/
opaque heldCycles : Nat → Fin 4 → Nat

end Sys2Proof.Config
end

