-- ==== Sys2Proof/Machine/RegFile.lean ====
section
/-!
DEFINITION. Machine/RegFile.lean: the one form in which sparse state is held, a list of keys and values with its keys
strictly rising, and the register file on top of it: one entry for each register field whose value differs from its
reset value (R11 to R14).
-/

namespace Sys2Proof.Machine

/-- A sparse table: keys strictly rising. -/
abbrev FMap (α : Type) := List (Nat × α)

/-- What the table holds at `k`. -/
def FMap.find {α : Type} : FMap α → Nat → Option α
  | [], _ => none
  | (k', v) :: m, k => if k = k' then some v else FMap.find m k

/-- The table with `v` at `k`. -/
def FMap.put {α : Type} : FMap α → Nat → α → FMap α
  | [], k, v => [(k, v)]
  | (k', v') :: m, k, v =>
    if k < k' then (k, v) :: (k', v') :: m
    else if k = k' then (k, v) :: m
    else (k', v') :: FMap.put m k v

/-- The table with nothing at `k`. -/
def FMap.del {α : Type} (m : FMap α) (k : Nat) : FMap α := m.filter (fun p => p.1 != k)

/-- The table with nothing at the keys that satisfy `p`. -/
def FMap.drop {α : Type} (m : FMap α) (p : Nat → Bool) : FMap α := m.filter (fun e => !p e.1)

/-- The keys strictly rise. -/
def FMap.sorted {α : Type} : FMap α → Bool
  | [] => true
  | [_] => true
  | a :: b :: m => decide (a.1 < b.1) && FMap.sorted (b :: m)

/-- The five access codes of Table 0.7 (R11). -/
inductive Acc where
  | ro | rw | w1c | wo | rc
  deriving DecidableEq, Repr

/-- A field of a register of the control space: its register's offset, its lowest bit, its width, its value at
reset and its access code. -/
structure Field where
  off : Nat
  lsb : Nat
  width : Nat
  reset : Nat
  acc : Acc
  deriving DecidableEq, Repr

/-- The place of a field in the register file. -/
def Field.key (f : Field) : Nat := f.off * 64 + f.lsb

/-- Registers of one layout: `count` of them, `stride` bytes apart, from offset `off`; `fields` are the first one's. -/
structure RegGroup where
  off : Nat
  count : Nat
  stride : Nat
  fields : List Field
  deriving DecidableEq, Repr

/-- The register file: the fields whose value is not their reset value. -/
abbrev RegFile := FMap Nat

/-- The value a field holds. -/
def RegFile.get (r : RegFile) (f : Field) : Nat := (FMap.find r f.key).getD f.reset

/-- The register file with the low bits of `v` in a field. -/
def RegFile.set (r : RegFile) (f : Field) (v : Nat) : RegFile :=
  if v % 2 ^ f.width = f.reset then FMap.del r f.key else FMap.put r f.key (v % 2 ^ f.width)

/-- A field is 1. -/
def RegFile.flag (r : RegFile) (f : Field) : Bool := RegFile.get r f == 1

/-- The field `n` registers on in its group. -/
def Field.at (f : Field) (off : Nat) : Field := { f with off := off }

/-- The fields of the register at control-space offset `off`; none where the map names no register (R16). -/
def regFields (gs : List RegGroup) (off : Nat) : List Field :=
  match gs with
  | [] => []
  | g :: gs =>
    if g.off ≤ off ∧ off < g.off + g.count * g.stride ∧ (off - g.off) % g.stride = 0
    then g.fields.map (·.at off)
    else regFields gs off

end Sys2Proof.Machine
end

