-- ==== Sys2Proof/Machine/Formats.lean ====
section
/-!
DEFINITION. Machine/Formats.lean: the number formats, conversions, rounding, random generators and tally records of
02_number_formats.md. A value is held exactly; every change of format is one conversion with its category of result.
-/

namespace Sys2Proof.Machine

/-- An exact value: NaN, a signed infinity, or `(-1)^neg * m * 2^e` (a signed zero when `m` is 0). [DEDUCED, log entry 30] -/
inductive Val where
  | nan
  | inf (neg : Bool)
  | fin (neg : Bool) (m : Nat) (e : Int)
  deriving DecidableEq, Repr

namespace Val

def zero : Val := .fin false 0 0
def one : Val := .fin false 1 0

/-- The integer `i` as a value. -/
def ofInt (i : Int) : Val := .fin (decide (i < 0)) i.natAbs 0

def ofNat (n : Nat) : Val := .fin false n 0

def isFin : Val → Bool
  | .fin .. => true
  | _ => false

def isNan : Val → Bool
  | .nan => true
  | _ => false

def isZero : Val → Bool
  | .fin _ m _ => m == 0
  | _ => false

def sign : Val → Bool
  | .nan => false
  | .inf s => s
  | .fin s _ _ => s

def neg : Val → Val
  | .nan => .nan
  | .inf s => .inf (!s)
  | .fin s m e => .fin (!s) m e

def abs : Val → Val
  | .nan => .nan
  | .inf _ => .inf false
  | .fin _ m e => .fin false m e

/-- `m * 2^e` scaled to the exponent `q ≤ e`. -/
def alignTo (q : Int) (neg : Bool) (m : Nat) (e : Int) : Int :=
  let i : Int := Int.ofNat (m <<< (e - q).toNat)
  if neg then -i else i

/-- The exact sum; opposite operands of equal magnitude give +0 (R45). -/
def add : Val → Val → Val
  | .nan, _ => .nan
  | _, .nan => .nan
  | .inf s, .inf t => if s = t then .inf s else .nan
  | .inf s, _ => .inf s
  | _, .inf t => .inf t
  | .fin s m e, .fin t n f =>
    let q := min e f
    let i := alignTo q s m e + alignTo q t n f
    if i = 0 then .fin (s && t && m == 0) 0 q
    else .fin (decide (i < 0)) i.natAbs q

/-- The exact product (R45: the sign of a zero product is kept). -/
def mul : Val → Val → Val
  | .nan, _ => .nan
  | _, .nan => .nan
  | .inf s, .inf t => .inf (s != t)
  | .inf s, .fin t n _ => if n = 0 then .nan else .inf (s != t)
  | .fin s m _, .inf t => if m = 0 then .nan else .inf (s != t)
  | .fin s m e, .fin t n f => .fin (s != t) (m * n) (e + f)

def sub (a b : Val) : Val := add a b.neg

/-- Magnitudes compared exactly: -1, 0 or 1 of the first against the second, for finite values. -/
def cmpMag (m : Nat) (e : Int) (n : Nat) (f : Int) : Ordering :=
  let q := min e f
  compare (m <<< (e - q).toNat) (n <<< (f - q).toNat)

/-- `a < b` for values that are not NaN, -0 and +0 equal. -/
def lt : Val → Val → Bool
  | .nan, _ => false
  | _, .nan => false
  | .inf s, .inf t => s && !t
  | .inf s, .fin .. => s
  | .fin .., .inf t => !t
  | .fin s m e, .fin t n f =>
    let q := min e f
    decide (alignTo q s m e < alignTo q t n f)

/-- Numerically equal (NaN never; -0 equals +0). -/
def eqv (a b : Val) : Bool := !a.isNan && !b.isNan && !lt a b && !lt b a

def le (a b : Val) : Bool := lt a b || eqv a b

/-- The larger (R46): NaN if either is NaN, and -0 below +0. -/
def max (a b : Val) : Val :=
  if a.isNan || b.isNan then .nan
  else if lt a b then b
  else if lt b a then a
  else if a.sign then b else a

/-- The smaller (R46). -/
def min (a b : Val) : Val :=
  if a.isNan || b.isNan then .nan
  else if lt a b then a
  else if lt b a then b
  else if a.sign then a else b

/-- floor(log2) of a nonzero finite magnitude. -/
def exponent : Val → Int
  | .fin _ m e => Int.ofNat (Nat.log2 m) + e
  | _ => 0

/-- The value times `2^k`. -/
def scale (k : Int) : Val → Val
  | .fin s m e => .fin s m (e + k)
  | v => v

end Val

/-- Rounding modes of a CVT field (R58): 3 is treated as 0. -/
inductive RMode where
  | nearest | zero | stochastic
  deriving DecidableEq, Repr

def RMode.code : RMode → Nat
  | .nearest => 0
  | .zero => 1
  | .stochastic => 2

/-- The effective rounding mode and saturation of a conversion (R58, R67). -/
structure Cvt where
  rmode : RMode
  sat : Bool
  deriving DecidableEq, Repr

/-- A 4-bit CVT field as it acts in a region whose FORCE_RNE bit was sampled as `force` (R58, R67). -/
def Cvt.ofField (force : Bool) (c : Nat) : Cvt :=
  let rm := match c % 4 with
    | 1 => RMode.zero
    | 2 => RMode.stochastic
    | _ => RMode.nearest
  { rmode := if force then .nearest else rm, sat := bit c 2 }

/-- The top 16 of the `d` discarded bits `rem` (R63). -/
def topDiscarded (rem d : Nat) : Nat :=
  if d ≤ 16 then rem <<< (16 - d) else rem >>> (d - 16)

/-- `m * 2^e` rounded to a multiple of `2^q`, as that multiple (R62, R63); `r` is the random number of the lane. -/
def roundMag (rm : RMode) (r m : Nat) (e q : Int) : Nat :=
  if q ≤ e then m <<< (e - q).toNat
  else
    let d := (q - e).toNat
    let n := m >>> d
    let rem := m % 2 ^ d
    match rm with
    | .zero => n
    | .nearest => if 2 * rem > 2 ^ d ∨ (2 * rem = 2 ^ d ∧ n % 2 = 1) then n + 1 else n
    | .stochastic => if topDiscarded rem d + r ≥ 65536 then n + 1 else n

/-- How a binary format treats its top exponent (Table 2.2). -/
inductive Specials where
  | ieee      -- infinity and NaN
  | e4m3      -- one NaN pattern, no infinity
  | none      -- neither (MX elements)
  deriving DecidableEq, Repr

/-- The shape of a binary floating-point format (Table 2.2, R51). -/
structure FpFmt where
  eb : Nat
  mb : Nat
  bias : Nat
  specials : Specials
  subnormals : Bool
  nanBits : Nat
  deriving DecidableEq, Repr

namespace FpFmt
def binary32 : FpFmt := ⟨8, 23, 127, .ieee, true, 0x7FC00000⟩
def binary16 : FpFmt := ⟨5, 10, 15, .ieee, true, 0x7E00⟩
def bf16 : FpFmt := ⟨8, 7, 127, .ieee, true, 0x7FC0⟩
def e4m3 : FpFmt := ⟨4, 3, 7, .e4m3, true, 0x7F⟩
def e5m2 : FpFmt := ⟨5, 2, 15, .ieee, true, 0x7F⟩
def e2m3 : FpFmt := ⟨2, 3, 1, .none, true, 0⟩
def e3m2 : FpFmt := ⟨3, 2, 3, .none, true, 0⟩
def e2m1 : FpFmt := ⟨2, 1, 1, .none, true, 0⟩
def w48 : FpFmt := ⟨10, 37, 511, .ieee, false, 0x7FF000000000⟩

/-- The exponent of the smallest normal value. -/
def emin (f : FpFmt) : Int := 1 - Int.ofNat f.bias

/-- The exponent of the largest finite value. -/
def emax (f : FpFmt) : Int :=
  match f.specials with
  | .ieee => Int.ofNat (2 ^ f.eb - 2) - Int.ofNat f.bias
  | _ => Int.ofNat (2 ^ f.eb - 1) - Int.ofNat f.bias

/-- The significand of the largest finite value. -/
def maxSig (f : FpFmt) : Nat :=
  match f.specials with
  | .e4m3 => 2 ^ (f.mb + 1) - 2
  | _ => 2 ^ (f.mb + 1) - 1

/-- The bits of an infinity (formats that have one). -/
def infBits (f : FpFmt) (neg : Bool) : Nat := b2n neg * 2 ^ (f.eb + f.mb) + (2 ^ f.eb - 1) * 2 ^ f.mb

/-- The bits of the largest finite value. -/
def maxBits (f : FpFmt) (neg : Bool) : Nat :=
  b2n neg * 2 ^ (f.eb + f.mb) + ((f.emax + Int.ofNat f.bias).toNat - 1) * 2 ^ f.mb + f.maxSig

/-- The bits of a zero. -/
def zeroBits (f : FpFmt) (neg : Bool) : Nat := b2n neg * 2 ^ (f.eb + f.mb)

/-- The value of a bit pattern (R42 to R44, R52). -/
def decode (f : FpFmt) (w : Nat) : Val :=
  let s := bit w (f.eb + f.mb)
  let e := bits w f.mb f.eb
  let m := bits w 0 f.mb
  let top := 2 ^ f.eb - 1
  if f.specials = .ieee ∧ e = top then (if m = 0 then .inf s else .nan)
  else if f.specials = .e4m3 ∧ e = top ∧ m = 2 ^ f.mb - 1 then .nan
  else if e = 0 then
    (if f.subnormals then .fin s m (f.emin - Int.ofNat f.mb) else .fin s 0 0)
  else .fin s (2 ^ f.mb + m) (Int.ofNat e - Int.ofNat f.bias - Int.ofNat f.mb)

end FpFmt

/-- What became of one converted element: the categories of Table 2.5, R61 and R553. -/
inductive NumCat where
  | plain       -- delivered as a normal value, a zero of a zero, or an exact integer
  | saturated
  | infinite
  | subnormal
  | flushed     -- a nonzero value delivered as zero
  | nan
  deriving DecidableEq, Repr

/-- Conversion of a value into a binary format (R58 to R63, Table 2.5). [DEDUCED, log entry 30] -/
def FpFmt.encode (f : FpFmt) (c : Cvt) (r : Nat) : Val → Nat × NumCat
  | .nan => (f.nanBits, .nan)
  | .inf s => if f.specials = .ieee then (f.infBits s, .infinite) else (f.nanBits, .nan)
  | .fin s m e =>
    if m = 0 then (f.zeroBits s, .plain)
    else
      let ex := Int.ofNat (Nat.log2 m) + e
      let q := (if f.subnormals then max ex f.emin else ex) - Int.ofNat f.mb
      let n := roundMag c.rmode r m e q
      if Val.cmpMag n q f.maxSig (f.emax - Int.ofNat f.mb) = .gt then
        if c.rmode = .zero ∨ c.sat ∨ f.specials = .none then (f.maxBits s, .saturated)
        else if f.specials = .ieee then (f.infBits s, .infinite)
        else (f.nanBits, .nan)
      else if n = 0 then (f.zeroBits s, .flushed)
      else if Val.cmpMag n q 1 f.emin = .lt ∧ f.subnormals = false then (f.zeroBits s, .flushed)
      else
        let w := b2n s * 2 ^ (f.eb + f.mb)
          + ((q + Int.ofNat f.mb + Int.ofNat f.bias) - 1).toNat * 2 ^ f.mb + n
        (w, if Val.cmpMag n q 1 f.emin = .lt then .subnormal else .plain)

/-- Nearest, ties to even, overflow to infinity: the rounding of lane arithmetic and of W48 additions. -/
def Cvt.rne : Cvt := ⟨.nearest, false⟩

/-- The binary32 value nearest an exact value (R46). -/
def round32 (v : Val) : Val := FpFmt.binary32.decode (FpFmt.binary32.encode .rne 0 v).1

/-- What an adder of the lanes delivers of an exact sum (R46), with its category (R73). [DEDUCED, log entry 146; DESIGN CHOICE, log entry 137] -/
def adder32 (v : Val) : Val × NumCat := let r := FpFmt.binary32.encode .rne 0 v; (FpFmt.binary32.decode r.1, r.2)

/-- A conversion into int32 (R553): the two's complement word and its category. -/
def encodeInt32 (c : Cvt) (r : Nat) : Val → Nat × NumCat
  | .nan => (0, .nan)
  | .inf s => (if s then 0x80000000 else 0x7FFFFFFF, .saturated)
  | .fin s m e =>
    let n := roundMag c.rmode r m e 0
    if s then (if n > 2 ^ 31 then (0x80000000, .saturated) else ((2 ^ 32 - n) % 2 ^ 32, .plain))
    else (if n > 2 ^ 31 - 1 then (0x7FFFFFFF, .saturated) else (n, .plain))

/-- One W48 addition (R54): the exact sum rounded to nearest even, flushed below 2^-510, infinite above the largest. [DEDUCED, log entry 146] -/
def w48Add (a b : Val) : Val × NumCat :=
  let r := FpFmt.w48.encode .rne 0 (Val.add a b)
  (FpFmt.w48.decode r.1, r.2)

/-- The format codes of Table 2.1 (R41). -/
inductive Fmt where
  | binary32 | binary16 | bf16 | e4m3 | e5m2 | mx8e4m3 | mx8e5m2 | mx6e2m3 | mx6e3m2 | mx4 | w48 | splitLo | int32 | g16
  | reserved14 | reserved15
  deriving DecidableEq, Repr

namespace Fmt

def ofCode (n : Nat) : Fmt :=
  match n with
  | 0 => .binary32 | 1 => .binary16 | 2 => .bf16 | 3 => .e4m3 | 4 => .e5m2 | 5 => .mx8e4m3 | 6 => .mx8e5m2
  | 7 => .mx6e2m3 | 8 => .mx6e3m2 | 9 => .mx4 | 10 => .w48 | 11 => .splitLo | 12 => .int32 | 13 => .g16
  | 14 => .reserved14 | _ => .reserved15

def code : Fmt → Nat
  | .binary32 => 0 | .binary16 => 1 | .bf16 => 2 | .e4m3 => 3 | .e5m2 => 4 | .mx8e4m3 => 5 | .mx8e5m2 => 6
  | .mx6e2m3 => 7 | .mx6e3m2 => 8 | .mx4 => 9 | .w48 => 10 | .splitLo => 11 | .int32 => 12 | .g16 => 13
  | .reserved14 => 14 | .reserved15 => 15

/-- A microscaling format: its elements share a scale in blocks of 32. -/
def isMx : Fmt → Bool
  | .mx8e4m3 | .mx8e5m2 | .mx6e2m3 | .mx6e3m2 | .mx4 => true
  | _ => false

/-- Bits of one element, scale apart (Table 2.1). -/
def elemBits : Fmt → Nat
  | .binary32 => 32 | .binary16 => 16 | .bf16 => 16 | .e4m3 => 8 | .e5m2 => 8 | .mx8e4m3 => 8 | .mx8e5m2 => 8
  | .mx6e2m3 => 6 | .mx6e3m2 => 6 | .mx4 => 4 | .w48 => 48 | .splitLo => 16 | .int32 => 32
  | .g16 => 0 | .reserved14 => 0 | .reserved15 => 0

/-- Bytes of one 32 x 32 tile (Table 2.1). -/
def tileBytes (f : Fmt) : Nat := 128 * f.elemBits + (if f.isMx then 32 else 0)

/-- The binary format of an element, where the format has one. -/
def fp : Fmt → Option FpFmt
  | .binary32 => some .binary32
  | .binary16 => some .binary16
  | .bf16 => some .bf16
  | .e4m3 => some .e4m3
  | .e5m2 => some .e5m2
  | .mx8e4m3 => some .e4m3
  | .mx8e5m2 => some .e5m2
  | .mx6e2m3 => some .e2m3
  | .mx6e3m2 => some .e3m2
  | .mx4 => some .e2m1
  | .w48 => some .w48
  | _ => none

/-- The value of an element's bits under scale byte `s` (R42, R49; the scale is read for MX formats only).
A Split32 low half has no value of its own and reads as the integer it is. -/
def decode (f : Fmt) (s w : Nat) : Val :=
  match f.fp with
  | some p => if f.isMx then (if s = 0xFF then .nan else (p.decode w).scale (Int.ofNat s - 127)) else p.decode w
  | none => if f = .int32 then Val.ofInt (signed 32 w) else Val.ofNat w

/-- The exponent `emax` of R50. -/
def mxEmax : Fmt → Int
  | .mx8e4m3 => 8
  | .mx8e5m2 => 15
  | .mx6e2m3 => 2
  | .mx6e3m2 => 4
  | _ => 2

end Fmt

/-- One draw of a generator (R64): the advanced state and its upper half. -/
def genAdvance (x : Nat) : Nat :=
  let x := (x ^^^ (x <<< 13)) % 2 ^ 32
  let x := x ^^^ (x >>> 17)
  (x ^^^ (x <<< 5)) % 2 ^ 32

/-- The step seed S of R65. -/
def stepSeed (imageSeed step : Nat) : Nat := (imageSeed + step * 0x6A09E667) % 2 ^ 32

/-- The state a lane's generator takes from the step seed (R65). -/
def genSeed (s lane : Nat) : Nat :=
  let x := s ^^^ ((lane * 0x9E3779B9) % 2 ^ 32)
  if x = 0 then 0x2545F491 else x

/-- The generators of a region (R64, R65): the step seed in use and the lanes that have advanced since. [DEDUCED, log entry 31] -/
structure Gens where
  seed : Nat
  lanes : FMap Nat
  deriving DecidableEq, Repr

def Gens.state (g : Gens) (lane : Nat) : Nat := (FMap.find g.lanes lane).getD (genSeed g.seed lane)

/-- The random number of one lane and the generators after it (R64). -/
def Gens.draw (g : Gens) (lane : Nat) : Nat × Gens :=
  let x := genAdvance (g.state lane)
  (x >>> 16, { g with lanes := FMap.put g.lanes lane x })

/-- Counts of the categories met (R73, R68). -/
structure NumEvents where
  sat : Nat
  inf : Nat
  ftz : Nat
  sub : Nat
  nan : Nat
  deriving DecidableEq, Repr

def NumEvents.none : NumEvents := ⟨0, 0, 0, 0, 0⟩

def NumEvents.plus (a b : NumEvents) : NumEvents :=
  ⟨a.sat + b.sat, a.inf + b.inf, a.ftz + b.ftz, a.sub + b.sub, a.nan + b.nan⟩

def NumEvents.note (n : NumEvents) : NumCat → NumEvents
  | .plain => n
  | .saturated => { n with sat := n.sat + 1 }
  | .infinite => { n with inf := n.inf + 1 }
  | .subnormal => { n with sub := n.sub + 1 }
  | .flushed => { n with ftz := n.ftz + 1 }
  | .nan => { n with nan := n.nan + 1 }

/-- The events of several results. -/
def NumEvents.ofCats (cs : List NumCat) : NumEvents := cs.foldl NumEvents.note .none

/-- A conversion in progress: the generators of its region and the events so far. -/
structure Conv where
  gens : Gens
  events : NumEvents
  deriving DecidableEq, Repr

/-- A finite element draws a number when its mode is stochastic (R64). [DEDUCED, log entry 31] -/
def Conv.roll (k : Conv) (c : Cvt) (lane : Nat) (v : Val) : Nat × Conv :=
  if c.rmode = .stochastic ∧ v.isFin then
    let d := k.gens.draw lane
    (d.1, { k with gens := d.2 })
  else (0, k)

/-- One element converted into a format whose elements stand alone (R58 to R64, R553). -/
def Conv.elem (k : Conv) (f : Fmt) (c : Cvt) (lane : Nat) (v : Val) : Nat × Conv :=
  let d := k.roll c lane v
  let r := match f.fp with
    | some p => p.encode c d.1 v
    | none => if f = Fmt.int32 then encodeInt32 c d.1 v
              else (match v with | .fin _ m e => (roundMag .zero 0 m e 0 % 65536, NumCat.plain) | _ => (0, NumCat.plain))
  (r.1, { d.2 with events := d.2.events.note r.2 })

/-- Elements converted in order, each on its lane. -/
def Conv.elems (k : Conv) (f : Fmt) (c : Cvt) : List (Nat × Val) → List Nat × Conv
  | [] => ([], k)
  | (lane, v) :: vs =>
    let a := k.elem f c lane v
    let b := Conv.elems a.2 f c vs
    (a.1 :: b.1, b.2)

/-- The largest exponent of the nonzero finite values, if any. -/
def maxExponent : List Val → Option Int
  | [] => none
  | v :: vs =>
    match v, maxExponent vs with
    | .fin s m e, r =>
      if m = 0 then r else
      match r with
      | none => some (Val.exponent (.fin s m e))
      | some x => some (max x (Val.exponent (.fin s m e)))
    | _, r => r

/-- The scale byte of a block (R50). -/
def mxScale (f : Fmt) (vs : List Val) : Nat :=
  if vs.any (fun v => !v.isFin) then 0xFF
  else match maxExponent vs with
    | none => 0
    | some x => (max (-127) (min 127 (x - f.mxEmax)) + 127).toNat

/-- One block of 32 elements converted into an MX format (R50): the scale byte and the elements, all +0 where every source value is a zero. -/
def Conv.mxBlock (k : Conv) (f : Fmt) (c : Cvt) (vs : List (Nat × Val)) : Nat × List Nat × Conv :=
  let s := mxScale f (vs.map (·.2))
  if s = 0xFF then
    (s, vs.map (fun _ => 0), { k with events := { k.events with nan := k.events.nan + vs.length } })
  else
    let r := k.elems f { c with sat := true } (vs.map (fun p => (p.1, p.2.scale (127 - Int.ofNat s))))
    (s, if maxExponent (vs.map (·.2)) = none then vs.map (fun _ => 0) else r.1, r.2)

/-- The MAXEXP field of a tally record (R68, R69). -/
def tallyMaxExp (vs : List Val) : Nat :=
  match maxExponent vs with
  | none => 0
  | some x => if x ≥ 128 then 255 else (max 1 (min 254 (x + 127))).toNat

/-- A tally record (Table 2.7). -/
structure Tally where
  maxexp : Nat
  ovf : Nat
  unf : Nat
  nan : Nat
  fmt : Nat
  rmode : Nat
  sat : Bool
  merged : Bool
  stale : Bool
  valid : Bool
  deriving DecidableEq, Repr

def Tally.encode (t : Tally) : Nat :=
  t.maxexp % 256 + (min t.ovf 2047) * 2 ^ 8 + (min t.unf 2047) * 2 ^ 19 + (min t.nan 2047) * 2 ^ 30
    + (t.fmt % 16) * 2 ^ 48 + (t.rmode % 4) * 2 ^ 56 + b2n t.sat * 2 ^ 58 + b2n t.merged * 2 ^ 61
    + b2n t.stale * 2 ^ 62 + b2n t.valid * 2 ^ 63

def Tally.decode (w : Nat) : Tally :=
  { maxexp := bits w 0 8, ovf := bits w 8 11, unf := bits w 19 11, nan := bits w 30 11, fmt := bits w 48 4
    rmode := bits w 56 2, sat := bit w 58, merged := bit w 61, stale := bit w 62, valid := bit w 63 }

/-- The record of a delivered tile (R68, R69): the exact values, the events of their conversion and how they were
converted. [DESIGN CHOICE, log entry 139] -/
def Tally.ofTile (f : Fmt) (c : Cvt) (stale : Bool) (exact : List Val) (n : NumEvents) : Tally :=
  { maxexp := tallyMaxExp exact, ovf := n.sat + n.inf, unf := n.sub + n.ftz, nan := n.nan, fmt := f.code
    rmode := c.rmode.code, sat := c.sat, merged := false, stale := stale, valid := true }

/-- What a TALLY instruction writes for the records of its range (R72); `fmt` is the format of the descriptor. -/
def Tally.combine (fmt : Nat) (ts : List Tally) : Tally :=
  match ts.filter (·.valid) with
  | [] => { maxexp := 0, ovf := 0, unf := 0, nan := 0, fmt := fmt, rmode := 0, sat := false, merged := true
            stale := false, valid := false }
  | t :: rest =>
    let all := t :: rest
    let same := rest.all (fun u => u.fmt == t.fmt && u.rmode == t.rmode && u.sat == t.sat)
    { maxexp := all.foldl (fun a u => max a u.maxexp) 0
      ovf := min 2047 (all.foldl (fun a u => a + u.ovf) 0)
      unf := min 2047 (all.foldl (fun a u => a + u.unf) 0)
      nan := min 2047 (all.foldl (fun a u => a + u.nan) 0)
      fmt := t.fmt
      rmode := if same then t.rmode else 3
      sat := t.sat, merged := true, stale := all.any (·.stale), valid := true }

end Sys2Proof.Machine
end

