-- ==== Sys2Proof/Machine/Regs.lean ====
section
/-!
DEFINITION. Machine/Regs.lean: every register of the control space, field by field, as the register tables of
the chapters give it: place, width, access code and reset value. The names are the tables' own; a register of
which the block holds several takes its number. A counter register is one field.
-/

namespace Sys2Proof.Machine.Reg

/-! CTL_STATUS: 16_shape_image_and_trust.md R485, Table 16.16. -/
def CTL_STATUS.BOOT : Field := ⟨0x0, 0, 2, 0, .ro⟩
def CTL_STATUS.IMAGE : Field := ⟨0x0, 2, 1, 0, .ro⟩
def CTL_STATUS.DEF_FAILED : Field := ⟨0x0, 3, 1, 0, .ro⟩
def CTL_STATUS.SLOT : Field := ⟨0x0, 8, 8, 0xff, .ro⟩

/-! CTL_IMG_CTL: 16_shape_image_and_trust.md R485, Table 16.16. -/
def CTL_IMG_CTL.OP : Field := ⟨0x8, 0, 4, 0, .wo⟩
def CTL_IMG_CTL.SLOT : Field := ⟨0x8, 4, 6, 0, .wo⟩

/-! CTL_IMG_STATUS: 16_shape_image_and_trust.md R485, Table 16.16. -/
def CTL_IMG_STATUS.BUSY : Field := ⟨0x10, 0, 1, 0, .ro⟩
def CTL_IMG_STATUS.PENDING : Field := ⟨0x10, 1, 1, 0, .ro⟩
def CTL_IMG_STATUS.VALID : Field := ⟨0x10, 2, 1, 0, .ro⟩
def CTL_IMG_STATUS.CODE : Field := ⟨0x10, 3, 5, 0, .ro⟩
def CTL_IMG_STATUS.OP : Field := ⟨0x10, 8, 4, 0, .ro⟩
def CTL_IMG_STATUS.SLOT : Field := ⟨0x10, 12, 6, 0, .ro⟩
def CTL_IMG_STATUS.DETAIL : Field := ⟨0x10, 32, 16, 0, .ro⟩

/-! CTL_FW_CTL: 16_shape_image_and_trust.md R485, Table 16.17. -/
def CTL_FW_CTL.STAGE : Field := ⟨0x18, 0, 1, 0, .wo⟩
def CTL_FW_CTL.SWITCH : Field := ⟨0x18, 1, 1, 0, .wo⟩
def CTL_FW_CTL.STORE : Field := ⟨0x18, 2, 1, 0, .wo⟩

/-! CTL_FW_STATUS: 16_shape_image_and_trust.md R485, Table 16.17. -/
def CTL_FW_STATUS.BUSY : Field := ⟨0x20, 0, 1, 0, .ro⟩
def CTL_FW_STATUS.STAGED : Field := ⟨0x20, 1, 1, 0, .ro⟩
def CTL_FW_STATUS.SWITCH_PENDING : Field := ⟨0x20, 2, 1, 0, .ro⟩
def CTL_FW_STATUS.CODE : Field := ⟨0x20, 3, 4, 0, .ro⟩
def CTL_FW_STATUS.SVN : Field := ⟨0x20, 8, 8, 0, .ro⟩
def CTL_FW_STATUS.VERSION : Field := ⟨0x20, 32, 32, 0, .ro⟩

/-! CTL_FLASH_STATUS: 16_shape_image_and_trust.md R485, Table 16.17. -/
def CTL_FLASH_STATUS.USED : Field := ⟨0x28, 0, 7, 0, .ro⟩
def CTL_FLASH_STATUS.COMPACTING : Field := ⟨0x28, 7, 1, 0, .ro⟩
def CTL_FLASH_STATUS.STAGING_OPEN : Field := ⟨0x28, 8, 1, 0, .ro⟩
def CTL_FLASH_STATUS.LOGS : Field := ⟨0x28, 9, 5, 0, .ro⟩
def CTL_FLASH_STATUS.DEF_VALID : Field := ⟨0x28, 14, 1, 0, .ro⟩
def CTL_FLASH_STATUS.DEFAULT : Field := ⟨0x28, 16, 6, 0, .ro⟩
def CTL_FLASH_STATUS.QUEUED : Field := ⟨0x28, 32, 8, 0, .ro⟩

/-! CTL_SLOT_MAP: 16_shape_image_and_trust.md R485, Table 16.18. -/
def CTL_SLOT_MAP.MAP : Field := ⟨0x30, 0, 64, 0, .ro⟩

/-! CTL_SLOT_SEL: 16_shape_image_and_trust.md R485, Table 16.18. -/
def CTL_SLOT_SEL.SLOT : Field := ⟨0x38, 0, 6, 0, .rw⟩

/-! CTL_SLOT_DIGEST: 16_shape_image_and_trust.md R485, Table 16.18. -/
def CTL_SLOT_DIGEST.DIGEST : Field := ⟨0x40, 0, 64, 0, .ro⟩

/-! CTL_ATT_CTL: 16_shape_image_and_trust.md R485, Table 16.18. -/
def CTL_ATT_CTL.QUOTE : Field := ⟨0x48, 0, 1, 0, .wo⟩

/-! CTL_ATT_STATUS: 16_shape_image_and_trust.md R485, Table 16.18. -/
def CTL_ATT_STATUS.BUSY : Field := ⟨0x50, 0, 1, 0, .ro⟩
def CTL_ATT_STATUS.DONE : Field := ⟨0x50, 1, 1, 0, .ro⟩

/-! CTL_IMG_DIGEST: 16_shape_image_and_trust.md R485, Table 16.18. -/
def CTL_IMG_DIGEST.DIGEST (n : Nat) : Field := ⟨0x58 + 8 * n, 0, 64, 0, .ro⟩

/-! CTL_TENANT: 16_shape_image_and_trust.md R485, Table 16.18. -/
def CTL_TENANT.TENANT : Field := ⟨0x78, 0, 64, 0, .ro⟩

/-! CTL_ATT_NONCE: 16_shape_image_and_trust.md R485, Table 16.18. -/
def CTL_ATT_NONCE.NONCE (n : Nat) : Field := ⟨0x80 + 8 * n, 0, 64, 0, .rw⟩

/-! CTL_CERT_LEN: 16_shape_image_and_trust.md R485, Table 16.18. -/
def CTL_CERT_LEN.LEN : Field := ⟨0xa0, 0, 12, 0, .ro⟩

/-! CTL_ADDR_ERR_CNT: 16_shape_image_and_trust.md R485. -/
def CTL_ADDR_ERR_CNT : Field := ⟨0xa8, 0, 48, 0, .rc⟩

/-! CTL_IMG_REJECT_CNT: 16_shape_image_and_trust.md R485. -/
def CTL_IMG_REJECT_CNT : Field := ⟨0xb0, 0, 48, 0, .rc⟩

/-! CTL_FW_SWITCH_CNT: 16_shape_image_and_trust.md R485. -/
def CTL_FW_SWITCH_CNT : Field := ⟨0xb8, 0, 48, 0, .rc⟩

/-! CTL_FLASH_COMPACT_CNT: 16_shape_image_and_trust.md R485. -/
def CTL_FLASH_COMPACT_CNT : Field := ⟨0xc0, 0, 48, 0, .rc⟩

/-! CTL_QUOTE_CNT: 16_shape_image_and_trust.md R485. -/
def CTL_QUOTE_CNT : Field := ⟨0xc8, 0, 48, 0, .rc⟩

/-! CTL_ATT_QUOTE: 16_shape_image_and_trust.md R485. -/
def CTL_ATT_QUOTE.WORD (n : Nat) : Field := ⟨0x1000 + 8 * n, 0, 64, 0, .ro⟩

/-! CTL_CERT: 16_shape_image_and_trust.md R485. -/
def CTL_CERT.WORD (n : Nat) : Field := ⟨0x2000 + 8 * n, 0, 64, 0, .ro⟩

/-- The registers of the CTL block (Table 0.6), in order of offset. -/
def groupsCTL : List RegGroup :=
  [⟨0x0, 1, 8, [CTL_STATUS.BOOT, CTL_STATUS.IMAGE, CTL_STATUS.DEF_FAILED, CTL_STATUS.SLOT]⟩,
   ⟨0x8, 1, 8, [CTL_IMG_CTL.OP, CTL_IMG_CTL.SLOT]⟩,
   ⟨0x10, 1, 8, [CTL_IMG_STATUS.BUSY, CTL_IMG_STATUS.PENDING, CTL_IMG_STATUS.VALID, CTL_IMG_STATUS.CODE, CTL_IMG_STATUS.OP, CTL_IMG_STATUS.SLOT, CTL_IMG_STATUS.DETAIL]⟩,
   ⟨0x18, 1, 8, [CTL_FW_CTL.STAGE, CTL_FW_CTL.SWITCH, CTL_FW_CTL.STORE]⟩,
   ⟨0x20, 1, 8, [CTL_FW_STATUS.BUSY, CTL_FW_STATUS.STAGED, CTL_FW_STATUS.SWITCH_PENDING, CTL_FW_STATUS.CODE, CTL_FW_STATUS.SVN, CTL_FW_STATUS.VERSION]⟩,
   ⟨0x28, 1, 8, [CTL_FLASH_STATUS.USED, CTL_FLASH_STATUS.COMPACTING, CTL_FLASH_STATUS.STAGING_OPEN, CTL_FLASH_STATUS.LOGS, CTL_FLASH_STATUS.DEF_VALID, CTL_FLASH_STATUS.DEFAULT, CTL_FLASH_STATUS.QUEUED]⟩,
   ⟨0x30, 1, 8, [CTL_SLOT_MAP.MAP]⟩,
   ⟨0x38, 1, 8, [CTL_SLOT_SEL.SLOT]⟩,
   ⟨0x40, 1, 8, [CTL_SLOT_DIGEST.DIGEST]⟩,
   ⟨0x48, 1, 8, [CTL_ATT_CTL.QUOTE]⟩,
   ⟨0x50, 1, 8, [CTL_ATT_STATUS.BUSY, CTL_ATT_STATUS.DONE]⟩,
   ⟨0x58, 4, 8, [CTL_IMG_DIGEST.DIGEST 0]⟩,
   ⟨0x78, 1, 8, [CTL_TENANT.TENANT]⟩,
   ⟨0x80, 4, 8, [CTL_ATT_NONCE.NONCE 0]⟩,
   ⟨0xa0, 1, 8, [CTL_CERT_LEN.LEN]⟩,
   ⟨0xa8, 1, 8, [CTL_ADDR_ERR_CNT]⟩,
   ⟨0xb0, 1, 8, [CTL_IMG_REJECT_CNT]⟩,
   ⟨0xb8, 1, 8, [CTL_FW_SWITCH_CNT]⟩,
   ⟨0xc0, 1, 8, [CTL_FLASH_COMPACT_CNT]⟩,
   ⟨0xc8, 1, 8, [CTL_QUOTE_CNT]⟩,
   ⟨0x1000, 26, 8, [CTL_ATT_QUOTE.WORD 0]⟩,
   ⟨0x2000, 256, 8, [CTL_CERT.WORD 0]⟩]

/-! DNS_STATUS: 03_panels.md R115, Table 3.9. -/
def DNS_STATUS.BUSY : Field := ⟨0x100000, 0, 1, 0, .ro⟩
def DNS_STATUS.DEGRADED : Field := ⟨0x100000, 1, 1, 0, .ro⟩
def DNS_STATUS.SUSPECT : Field := ⟨0x100000, 2, 1, 0, .ro⟩
def DNS_STATUS.IN_SERVICE : Field := ⟨0x100000, 3, 3, 4, .ro⟩
def DNS_STATUS.FROZEN : Field := ⟨0x100000, 6, 1, 0, .ro⟩

/-! DNS_PANEL_STATE: 03_panels.md R115, Table 3.10. -/
def DNS_PANEL_STATE.PANEL0 : Field := ⟨0x100008, 0, 2, 0, .ro⟩
def DNS_PANEL_STATE.PANEL1 : Field := ⟨0x100008, 2, 2, 0, .ro⟩
def DNS_PANEL_STATE.PANEL2 : Field := ⟨0x100008, 4, 2, 0, .ro⟩
def DNS_PANEL_STATE.PANEL3 : Field := ⟨0x100008, 6, 2, 0, .ro⟩

/-! DNS_PANEL_CTL: 03_panels.md R115, Table 3.11. -/
def DNS_PANEL_CTL.RETIRE : Field := ⟨0x100010, 0, 4, 0, .wo⟩
def DNS_PANEL_CTL.REVIVE : Field := ⟨0x100010, 4, 4, 0, .wo⟩

/-! DNS_CHECK_CFG: 03_panels.md R115, Table 3.12. -/
def DNS_CHECK_CFG.TOL_SHIFT : Field := ⟨0x100018, 0, 6, 0x1a, .rw⟩
def DNS_CHECK_CFG.SUSPECT_CLEAR : Field := ⟨0x100018, 8, 6, 0x14, .rw⟩

/-! DNS_CHECK_INJ: 03_panels.md R115, Table 3.13. -/
def DNS_CHECK_INJ.PANEL : Field := ⟨0x100020, 0, 2, 0, .wo⟩
def DNS_CHECK_INJ.COUNT : Field := ⟨0x100020, 2, 2, 0, .wo⟩

/-! DNS_LAST_MISMATCH: 03_panels.md R115, Table 3.14. -/
def DNS_LAST_MISMATCH.PANEL : Field := ⟨0x100028, 0, 2, 0, .ro⟩
def DNS_LAST_MISMATCH.INJECTED : Field := ⟨0x100028, 2, 1, 0, .ro⟩
def DNS_LAST_MISMATCH.VALID : Field := ⟨0x100028, 3, 1, 0, .ro⟩
def DNS_LAST_MISMATCH.ROW : Field := ⟨0x100028, 8, 24, 0, .ro⟩
def DNS_LAST_MISMATCH.OP : Field := ⟨0x100028, 32, 32, 0, .ro⟩

/-! DNS_FREEZE_CNT: 03_panels.md R115. -/
def DNS_FREEZE_CNT : Field := ⟨0x100030, 0, 48, 0, .rc⟩

/-! DNS_FREEZE_FEED_CNT: 03_panels.md R115. -/
def DNS_FREEZE_FEED_CNT : Field := ⟨0x100038, 0, 48, 0, .rc⟩

/-! DNS_FREEZE_DRAIN_CNT: 03_panels.md R115. -/
def DNS_FREEZE_DRAIN_CNT : Field := ⟨0x100040, 0, 48, 0, .rc⟩

/-! DNS_BUSY_CNT: 03_panels.md R115. -/
def DNS_BUSY_CNT : Field := ⟨0x100048, 0, 48, 0, .rc⟩

/-! DNS_WLOAD_WAIT_CNT: 03_panels.md R115. -/
def DNS_WLOAD_WAIT_CNT : Field := ⟨0x100050, 0, 48, 0, .rc⟩

/-! DNS_OP_CNT: 03_panels.md R115. -/
def DNS_OP_CNT : Field := ⟨0x100058, 0, 48, 0, .rc⟩

/-! DNS_OP_REFUSED_CNT: 03_panels.md R115. -/
def DNS_OP_REFUSED_CNT : Field := ⟨0x100060, 0, 48, 0, .rc⟩

/-! DNS_RECOMPUTE_CNT: 03_panels.md R115. -/
def DNS_RECOMPUTE_CNT : Field := ⟨0x100068, 0, 48, 0, .rc⟩

/-! DNS_CHECK_MISMATCH_CNT: 03_panels.md R115, Table 3.16. -/
def DNS_CHECK_MISMATCH_CNT.PANEL0 : Field := ⟨0x100070, 0, 16, 0, .rc⟩
def DNS_CHECK_MISMATCH_CNT.PANEL1 : Field := ⟨0x100070, 16, 16, 0, .rc⟩
def DNS_CHECK_MISMATCH_CNT.PANEL2 : Field := ⟨0x100070, 32, 16, 0, .rc⟩
def DNS_CHECK_MISMATCH_CNT.PANEL3 : Field := ⟨0x100070, 48, 16, 0, .rc⟩

/-! DNS_NUM_SAT_CNT: 02_number_formats.md R73. -/
def DNS_NUM_SAT_CNT : Field := ⟨0x100f00, 0, 48, 0, .rc⟩

/-! DNS_NUM_INF_CNT: 02_number_formats.md R73. -/
def DNS_NUM_INF_CNT : Field := ⟨0x100f08, 0, 48, 0, .rc⟩

/-! DNS_NUM_FTZ_CNT: 02_number_formats.md R73. -/
def DNS_NUM_FTZ_CNT : Field := ⟨0x100f10, 0, 48, 0, .rc⟩

/-! DNS_NUM_NAN_CNT: 02_number_formats.md R73. -/
def DNS_NUM_NAN_CNT : Field := ⟨0x100f18, 0, 48, 0, .rc⟩

/-! DNS_NUM_CFG: 02_number_formats.md R73, Table 2.10. -/
def DNS_NUM_CFG.FORCE_RNE : Field := ⟨0x100f20, 0, 1, 0, .rw⟩

/-! DNS_NUM_SEED: 02_number_formats.md R73, Table 2.11. -/
def DNS_NUM_SEED.S : Field := ⟨0x100f28, 0, 32, 0, .ro⟩

/-- The registers of the DNS block (Table 0.6), in order of offset. -/
def groupsDNS : List RegGroup :=
  [⟨0x100000, 1, 8, [DNS_STATUS.BUSY, DNS_STATUS.DEGRADED, DNS_STATUS.SUSPECT, DNS_STATUS.IN_SERVICE, DNS_STATUS.FROZEN]⟩,
   ⟨0x100008, 1, 8, [DNS_PANEL_STATE.PANEL0, DNS_PANEL_STATE.PANEL1, DNS_PANEL_STATE.PANEL2, DNS_PANEL_STATE.PANEL3]⟩,
   ⟨0x100010, 1, 8, [DNS_PANEL_CTL.RETIRE, DNS_PANEL_CTL.REVIVE]⟩,
   ⟨0x100018, 1, 8, [DNS_CHECK_CFG.TOL_SHIFT, DNS_CHECK_CFG.SUSPECT_CLEAR]⟩,
   ⟨0x100020, 1, 8, [DNS_CHECK_INJ.PANEL, DNS_CHECK_INJ.COUNT]⟩,
   ⟨0x100028, 1, 8, [DNS_LAST_MISMATCH.PANEL, DNS_LAST_MISMATCH.INJECTED, DNS_LAST_MISMATCH.VALID, DNS_LAST_MISMATCH.ROW, DNS_LAST_MISMATCH.OP]⟩,
   ⟨0x100030, 1, 8, [DNS_FREEZE_CNT]⟩,
   ⟨0x100038, 1, 8, [DNS_FREEZE_FEED_CNT]⟩,
   ⟨0x100040, 1, 8, [DNS_FREEZE_DRAIN_CNT]⟩,
   ⟨0x100048, 1, 8, [DNS_BUSY_CNT]⟩,
   ⟨0x100050, 1, 8, [DNS_WLOAD_WAIT_CNT]⟩,
   ⟨0x100058, 1, 8, [DNS_OP_CNT]⟩,
   ⟨0x100060, 1, 8, [DNS_OP_REFUSED_CNT]⟩,
   ⟨0x100068, 1, 8, [DNS_RECOMPUTE_CNT]⟩,
   ⟨0x100070, 1, 8, [DNS_CHECK_MISMATCH_CNT.PANEL0, DNS_CHECK_MISMATCH_CNT.PANEL1, DNS_CHECK_MISMATCH_CNT.PANEL2, DNS_CHECK_MISMATCH_CNT.PANEL3]⟩,
   ⟨0x100f00, 1, 8, [DNS_NUM_SAT_CNT]⟩,
   ⟨0x100f08, 1, 8, [DNS_NUM_INF_CNT]⟩,
   ⟨0x100f10, 1, 8, [DNS_NUM_FTZ_CNT]⟩,
   ⟨0x100f18, 1, 8, [DNS_NUM_NAN_CNT]⟩,
   ⟨0x100f20, 1, 8, [DNS_NUM_CFG.FORCE_RNE]⟩,
   ⟨0x100f28, 1, 8, [DNS_NUM_SEED.S]⟩]

/-! DRV_STATUS: 04_drover.md R149, Table 4.10. -/
def DRV_STATUS.BUSY : Field := ⟨0x200000, 0, 1, 0, .ro⟩
def DRV_STATUS.SWEEPING : Field := ⟨0x200000, 1, 1, 0, .ro⟩
def DRV_STATUS.FUNC : Field := ⟨0x200000, 8, 8, 0, .ro⟩

/-! DRV_CFG: 04_drover.md R149, Table 4.11. -/
def DRV_CFG.GCACHE_DIS : Field := ⟨0x200008, 0, 1, 0, .rw⟩
def DRV_CFG.COMPRESS_DENSE : Field := ⟨0x200008, 1, 1, 0, .rw⟩

/-! DRV_LAST_ERR: 04_drover.md R149, Table 4.12. -/
def DRV_LAST_ERR.CODE : Field := ⟨0x200010, 0, 2, 0, .ro⟩
def DRV_LAST_ERR.VALID : Field := ⟨0x200010, 2, 1, 0, .ro⟩
def DRV_LAST_ERR.FUNC : Field := ⟨0x200010, 8, 8, 0, .ro⟩
def DRV_LAST_ERR.WHERE : Field := ⟨0x200010, 16, 32, 0, .ro⟩
def DRV_LAST_ERR.OP : Field := ⟨0x200010, 48, 16, 0, .ro⟩

/-! DRV_OP_CNT: 04_drover.md R149. -/
def DRV_OP_CNT : Field := ⟨0x200018, 0, 48, 0, .rc⟩

/-! DRV_OP_REFUSED_CNT: 04_drover.md R149. -/
def DRV_OP_REFUSED_CNT : Field := ⟨0x200020, 0, 48, 0, .rc⟩

/-! DRV_BUSY_CNT: 04_drover.md R149. -/
def DRV_BUSY_CNT : Field := ⟨0x200028, 0, 48, 0, .rc⟩

/-! DRV_GATHER_IDX_CNT: 04_drover.md R149. -/
def DRV_GATHER_IDX_CNT : Field := ⟨0x200030, 0, 48, 0, .rc⟩

/-! DRV_GCACHE_HIT_CNT: 04_drover.md R149. -/
def DRV_GCACHE_HIT_CNT : Field := ⟨0x200038, 0, 48, 0, .rc⟩

/-! DRV_GCACHE_MISS_CNT: 04_drover.md R149. -/
def DRV_GCACHE_MISS_CNT : Field := ⟨0x200040, 0, 48, 0, .rc⟩

/-! DRV_IDX_OOR_CNT: 04_drover.md R149. -/
def DRV_IDX_OOR_CNT : Field := ⟨0x200048, 0, 48, 0, .rc⟩

/-! DRV_MERGE_SWEEP_CNT: 04_drover.md R149. -/
def DRV_MERGE_SWEEP_CNT : Field := ⟨0x200050, 0, 48, 0, .rc⟩

/-! DRV_SPLIT_ROW_CNT: 04_drover.md R149. -/
def DRV_SPLIT_ROW_CNT : Field := ⟨0x200058, 0, 48, 0, .rc⟩

/-! DRV_SPLIT_CHUNK_CNT: 04_drover.md R149. -/
def DRV_SPLIT_CHUNK_CNT : Field := ⟨0x200060, 0, 48, 0, .rc⟩

/-! DRV_DENSE_FALLBACK_CNT: 04_drover.md R149. -/
def DRV_DENSE_FALLBACK_CNT : Field := ⟨0x200068, 0, 48, 0, .rc⟩

/-! DRV_L3_BAD_CNT: 04_drover.md R149. -/
def DRV_L3_BAD_CNT : Field := ⟨0x200070, 0, 48, 0, .rc⟩

/-! DRV_UPD_ELEM_CNT: 12_split_weights_and_update.md R373. -/
def DRV_UPD_ELEM_CNT : Field := ⟨0x200078, 0, 48, 0, .rc⟩

/-! DRV_UPD_SKIP_CNT: 12_split_weights_and_update.md R373. -/
def DRV_UPD_SKIP_CNT : Field := ⟨0x200080, 0, 48, 0, .rc⟩

/-! DRV_UPD_BADGRAD_CNT: 12_split_weights_and_update.md R373. -/
def DRV_UPD_BADGRAD_CNT : Field := ⟨0x200088, 0, 48, 0, .rc⟩

/-! DRV_UPD_MASKED_CNT: 12_split_weights_and_update.md R373. -/
def DRV_UPD_MASKED_CNT : Field := ⟨0x200090, 0, 48, 0, .rc⟩

/-! DRV_ROUTE_CFG: 05_routing_and_shuffle.md R171, Table 5.11. -/
def DRV_ROUTE_CFG.RENORM : Field := ⟨0x200100, 0, 1, 0, .rw⟩
def DRV_ROUTE_CFG.MODE : Field := ⟨0x200100, 1, 1, 0, .rw⟩
def DRV_ROUTE_CFG.ALLOC_WAIT : Field := ⟨0x200100, 8, 8, 0x10, .rw⟩
def DRV_ROUTE_CFG.SHUF_SHARE : Field := ⟨0x200100, 16, 3, 1, .rw⟩

/-! DRV_ROUTE_STATUS: 05_routing_and_shuffle.md R171, Table 5.12. -/
def DRV_ROUTE_STATUS.ROUTING : Field := ⟨0x200108, 0, 1, 0, .ro⟩
def DRV_ROUTE_STATUS.DEMAND_POSTED : Field := ⟨0x200108, 1, 1, 0, .ro⟩
def DRV_ROUTE_STATUS.SEQ : Field := ⟨0x200108, 16, 16, 0, .ro⟩

/-! DRV_ROUTE_ALLOC_GO: 05_routing_and_shuffle.md R171, Table 5.13. -/
def DRV_ROUTE_ALLOC_GO.SEQ : Field := ⟨0x200110, 0, 16, 0, .wo⟩

/-! DRV_ROUTE_TOKEN_CNT: 05_routing_and_shuffle.md R171. -/
def DRV_ROUTE_TOKEN_CNT : Field := ⟨0x200118, 0, 48, 0, .rc⟩

/-! DRV_ROUTE_SENT_CNT: 05_routing_and_shuffle.md R171. -/
def DRV_ROUTE_SENT_CNT : Field := ⟨0x200120, 0, 48, 0, .rc⟩

/-! DRV_ROUTE_DROP_CNT: 05_routing_and_shuffle.md R171. -/
def DRV_ROUTE_DROP_CNT : Field := ⟨0x200128, 0, 48, 0, .rc⟩

/-! DRV_ROUTE_SKIP_CNT: 05_routing_and_shuffle.md R171. -/
def DRV_ROUTE_SKIP_CNT : Field := ⟨0x200130, 0, 48, 0, .rc⟩

/-! DRV_ROUTE_NAN_CNT: 05_routing_and_shuffle.md R171. -/
def DRV_ROUTE_NAN_CNT : Field := ⟨0x200138, 0, 48, 0, .rc⟩

/-! DRV_ROUTE_BADEXP_CNT: 05_routing_and_shuffle.md R171. -/
def DRV_ROUTE_BADEXP_CNT : Field := ⟨0x200140, 0, 48, 0, .rc⟩

/-! DRV_ROUTE_RX_OOR_CNT: 05_routing_and_shuffle.md R171. -/
def DRV_ROUTE_RX_OOR_CNT : Field := ⟨0x200148, 0, 48, 0, .rc⟩

/-! DRV_ROUTE_ALLOC_TIMEOUT_CNT: 05_routing_and_shuffle.md R171. -/
def DRV_ROUTE_ALLOC_TIMEOUT_CNT : Field := ⟨0x200150, 0, 48, 0, .rc⟩

/-! DRV_ROUTE_ALLOC_STALE_CNT: 05_routing_and_shuffle.md R171. -/
def DRV_ROUTE_ALLOC_STALE_CNT : Field := ⟨0x200158, 0, 48, 0, .rc⟩

/-! DRV_SHUF_CFG: 05_routing_and_shuffle.md R171, Table 5.14. -/
def DRV_SHUF_CFG.ENABLE : Field := ⟨0x200160, 0, 1, 0, .rw⟩

/-! DRV_SHUF_STATUS: 05_routing_and_shuffle.md R171, Table 5.15. -/
def DRV_SHUF_STATUS.PASS : Field := ⟨0x200168, 0, 32, 0, .ro⟩
def DRV_SHUF_STATUS.STEP : Field := ⟨0x200168, 32, 32, 0, .ro⟩

/-! DRV_SHUF_SENT_CNT: 05_routing_and_shuffle.md R171. -/
def DRV_SHUF_SENT_CNT : Field := ⟨0x200170, 0, 48, 0, .rc⟩

/-! DRV_SHUF_WALK_CNT: 05_routing_and_shuffle.md R171. -/
def DRV_SHUF_WALK_CNT : Field := ⟨0x200178, 0, 48, 0, .rc⟩

/-! DRV_SHUF_LATE_CNT: 05_routing_and_shuffle.md R171. -/
def DRV_SHUF_LATE_CNT : Field := ⟨0x200180, 0, 48, 0, .rc⟩

/-! DRV_NUM_SAT_CNT: 02_number_formats.md R73. -/
def DRV_NUM_SAT_CNT : Field := ⟨0x200f00, 0, 48, 0, .rc⟩

/-! DRV_NUM_INF_CNT: 02_number_formats.md R73. -/
def DRV_NUM_INF_CNT : Field := ⟨0x200f08, 0, 48, 0, .rc⟩

/-! DRV_NUM_FTZ_CNT: 02_number_formats.md R73. -/
def DRV_NUM_FTZ_CNT : Field := ⟨0x200f10, 0, 48, 0, .rc⟩

/-! DRV_NUM_NAN_CNT: 02_number_formats.md R73. -/
def DRV_NUM_NAN_CNT : Field := ⟨0x200f18, 0, 48, 0, .rc⟩

/-! DRV_NUM_CFG: 02_number_formats.md R73, Table 2.10. -/
def DRV_NUM_CFG.FORCE_RNE : Field := ⟨0x200f20, 0, 1, 0, .rw⟩

/-! DRV_NUM_SEED: 02_number_formats.md R73, Table 2.11. -/
def DRV_NUM_SEED.S : Field := ⟨0x200f28, 0, 32, 0, .ro⟩

/-- The registers of the DRV block (Table 0.6), in order of offset. -/
def groupsDRV : List RegGroup :=
  [⟨0x200000, 1, 8, [DRV_STATUS.BUSY, DRV_STATUS.SWEEPING, DRV_STATUS.FUNC]⟩,
   ⟨0x200008, 1, 8, [DRV_CFG.GCACHE_DIS, DRV_CFG.COMPRESS_DENSE]⟩,
   ⟨0x200010, 1, 8, [DRV_LAST_ERR.CODE, DRV_LAST_ERR.VALID, DRV_LAST_ERR.FUNC, DRV_LAST_ERR.WHERE, DRV_LAST_ERR.OP]⟩,
   ⟨0x200018, 1, 8, [DRV_OP_CNT]⟩,
   ⟨0x200020, 1, 8, [DRV_OP_REFUSED_CNT]⟩,
   ⟨0x200028, 1, 8, [DRV_BUSY_CNT]⟩,
   ⟨0x200030, 1, 8, [DRV_GATHER_IDX_CNT]⟩,
   ⟨0x200038, 1, 8, [DRV_GCACHE_HIT_CNT]⟩,
   ⟨0x200040, 1, 8, [DRV_GCACHE_MISS_CNT]⟩,
   ⟨0x200048, 1, 8, [DRV_IDX_OOR_CNT]⟩,
   ⟨0x200050, 1, 8, [DRV_MERGE_SWEEP_CNT]⟩,
   ⟨0x200058, 1, 8, [DRV_SPLIT_ROW_CNT]⟩,
   ⟨0x200060, 1, 8, [DRV_SPLIT_CHUNK_CNT]⟩,
   ⟨0x200068, 1, 8, [DRV_DENSE_FALLBACK_CNT]⟩,
   ⟨0x200070, 1, 8, [DRV_L3_BAD_CNT]⟩,
   ⟨0x200078, 1, 8, [DRV_UPD_ELEM_CNT]⟩,
   ⟨0x200080, 1, 8, [DRV_UPD_SKIP_CNT]⟩,
   ⟨0x200088, 1, 8, [DRV_UPD_BADGRAD_CNT]⟩,
   ⟨0x200090, 1, 8, [DRV_UPD_MASKED_CNT]⟩,
   ⟨0x200100, 1, 8, [DRV_ROUTE_CFG.RENORM, DRV_ROUTE_CFG.MODE, DRV_ROUTE_CFG.ALLOC_WAIT, DRV_ROUTE_CFG.SHUF_SHARE]⟩,
   ⟨0x200108, 1, 8, [DRV_ROUTE_STATUS.ROUTING, DRV_ROUTE_STATUS.DEMAND_POSTED, DRV_ROUTE_STATUS.SEQ]⟩,
   ⟨0x200110, 1, 8, [DRV_ROUTE_ALLOC_GO.SEQ]⟩,
   ⟨0x200118, 1, 8, [DRV_ROUTE_TOKEN_CNT]⟩,
   ⟨0x200120, 1, 8, [DRV_ROUTE_SENT_CNT]⟩,
   ⟨0x200128, 1, 8, [DRV_ROUTE_DROP_CNT]⟩,
   ⟨0x200130, 1, 8, [DRV_ROUTE_SKIP_CNT]⟩,
   ⟨0x200138, 1, 8, [DRV_ROUTE_NAN_CNT]⟩,
   ⟨0x200140, 1, 8, [DRV_ROUTE_BADEXP_CNT]⟩,
   ⟨0x200148, 1, 8, [DRV_ROUTE_RX_OOR_CNT]⟩,
   ⟨0x200150, 1, 8, [DRV_ROUTE_ALLOC_TIMEOUT_CNT]⟩,
   ⟨0x200158, 1, 8, [DRV_ROUTE_ALLOC_STALE_CNT]⟩,
   ⟨0x200160, 1, 8, [DRV_SHUF_CFG.ENABLE]⟩,
   ⟨0x200168, 1, 8, [DRV_SHUF_STATUS.PASS, DRV_SHUF_STATUS.STEP]⟩,
   ⟨0x200170, 1, 8, [DRV_SHUF_SENT_CNT]⟩,
   ⟨0x200178, 1, 8, [DRV_SHUF_WALK_CNT]⟩,
   ⟨0x200180, 1, 8, [DRV_SHUF_LATE_CNT]⟩,
   ⟨0x200f00, 1, 8, [DRV_NUM_SAT_CNT]⟩,
   ⟨0x200f08, 1, 8, [DRV_NUM_INF_CNT]⟩,
   ⟨0x200f10, 1, 8, [DRV_NUM_FTZ_CNT]⟩,
   ⟨0x200f18, 1, 8, [DRV_NUM_NAN_CNT]⟩,
   ⟨0x200f20, 1, 8, [DRV_NUM_CFG.FORCE_RNE]⟩,
   ⟨0x200f28, 1, 8, [DRV_NUM_SEED.S]⟩]

/-! TAG_STATUS: 07_scratchpad_and_tags.md R226, Table 7.8. -/
def TAG_STATUS.SCRUBBING : Field := ⟨0x300000, 0, 1, 0, .ro⟩
def TAG_STATUS.ZEROING : Field := ⟨0x300000, 1, 1, 0, .ro⟩
def TAG_STATUS.LOADED : Field := ⟨0x300000, 2, 1, 0, .ro⟩

/-! TAG_SLOT_TIMEOUT: 07_scratchpad_and_tags.md R226, Table 7.9. -/
def TAG_SLOT_TIMEOUT.DEFAULT : Field := ⟨0x300008, 0, 24, 0x1000, .rw⟩

/-! TAG_SLOT_SEL: 07_scratchpad_and_tags.md R226, Table 7.10. -/
def TAG_SLOT_SEL.TAG : Field := ⟨0x300010, 0, 12, 0, .rw⟩

/-! TAG_SLOT_STATE_LO: 07_scratchpad_and_tags.md R226, Table 7.11. -/
def TAG_SLOT_STATE_LO.SLOTS : Field := ⟨0x300018, 0, 64, 0, .ro⟩

/-! TAG_SLOT_STATE_HI: 07_scratchpad_and_tags.md R226, Table 7.11. -/
def TAG_SLOT_STATE_HI.SLOTS : Field := ⟨0x300020, 0, 64, 0, .ro⟩

/-! TAG_LAST_TIMEOUT: 07_scratchpad_and_tags.md R226, Table 7.12. -/
def TAG_LAST_TIMEOUT.TAG : Field := ⟨0x300028, 0, 12, 0, .ro⟩
def TAG_LAST_TIMEOUT.SLOT : Field := ⟨0x300028, 12, 6, 0, .ro⟩
def TAG_LAST_TIMEOUT.DIR : Field := ⟨0x300028, 18, 1, 0, .ro⟩
def TAG_LAST_TIMEOUT.VALID : Field := ⟨0x300028, 19, 1, 0, .ro⟩
def TAG_LAST_TIMEOUT.UNIT : Field := ⟨0x300028, 20, 8, 0, .ro⟩
def TAG_LAST_TIMEOUT.TICK : Field := ⟨0x300028, 32, 32, 0, .ro⟩

/-! TAG_ECC_LAST: 07_scratchpad_and_tags.md R226, Table 7.13. -/
def TAG_ECC_LAST.ARRAY : Field := ⟨0x300030, 0, 2, 0, .ro⟩
def TAG_ECC_LAST.UE : Field := ⟨0x300030, 2, 1, 0, .ro⟩
def TAG_ECC_LAST.VALID : Field := ⟨0x300030, 3, 1, 0, .ro⟩
def TAG_ECC_LAST.SLICE : Field := ⟨0x300030, 4, 6, 0, .ro⟩
def TAG_ECC_LAST.WORD : Field := ⟨0x300030, 10, 22, 0, .ro⟩

/-! TAG_PROT_ERR_CNT: 07_scratchpad_and_tags.md R226. -/
def TAG_PROT_ERR_CNT : Field := ⟨0x300038, 0, 48, 0, .rc⟩

/-! TAG_STALL_CNT: 07_scratchpad_and_tags.md R226. -/
def TAG_STALL_CNT : Field := ⟨0x300040, 0, 48, 0, .rc⟩

/-! TAG_TIMEOUT_RD_CNT: 07_scratchpad_and_tags.md R226. -/
def TAG_TIMEOUT_RD_CNT : Field := ⟨0x300048, 0, 48, 0, .rc⟩

/-! TAG_TIMEOUT_WR_CNT: 07_scratchpad_and_tags.md R226. -/
def TAG_TIMEOUT_WR_CNT : Field := ⟨0x300050, 0, 48, 0, .rc⟩

/-! TAG_EXTRA_CLOSE_CNT: 07_scratchpad_and_tags.md R226. -/
def TAG_EXTRA_CLOSE_CNT : Field := ⟨0x300058, 0, 48, 0, .rc⟩

/-! TAG_EXTRA_DRAIN_CNT: 07_scratchpad_and_tags.md R226. -/
def TAG_EXTRA_DRAIN_CNT : Field := ⟨0x300060, 0, 48, 0, .rc⟩

/-! TAG_FOREIGN_CNT: 07_scratchpad_and_tags.md R226. -/
def TAG_FOREIGN_CNT : Field := ⟨0x300068, 0, 48, 0, .rc⟩

/-! TAG_ECC_CE_CNT: 07_scratchpad_and_tags.md R226. -/
def TAG_ECC_CE_CNT : Field := ⟨0x300070, 0, 48, 0, .rc⟩

/-! TAG_ECC_UE_CNT: 07_scratchpad_and_tags.md R226. -/
def TAG_ECC_UE_CNT : Field := ⟨0x300078, 0, 48, 0, .rc⟩

/-! TAG_SCRUB_CNT: 07_scratchpad_and_tags.md R226. -/
def TAG_SCRUB_CNT : Field := ⟨0x300080, 0, 48, 0, .rc⟩

/-! TAG_TABLE: 07_scratchpad_and_tags.md R226. -/
def TAG_TABLE.WORD (n : Nat) : Field := ⟨0x310000 + 8 * n, 0, 64, 0, .ro⟩

/-- The registers of the TAG block (Table 0.6), in order of offset. -/
def groupsTAG : List RegGroup :=
  [⟨0x300000, 1, 8, [TAG_STATUS.SCRUBBING, TAG_STATUS.ZEROING, TAG_STATUS.LOADED]⟩,
   ⟨0x300008, 1, 8, [TAG_SLOT_TIMEOUT.DEFAULT]⟩,
   ⟨0x300010, 1, 8, [TAG_SLOT_SEL.TAG]⟩,
   ⟨0x300018, 1, 8, [TAG_SLOT_STATE_LO.SLOTS]⟩,
   ⟨0x300020, 1, 8, [TAG_SLOT_STATE_HI.SLOTS]⟩,
   ⟨0x300028, 1, 8, [TAG_LAST_TIMEOUT.TAG, TAG_LAST_TIMEOUT.SLOT, TAG_LAST_TIMEOUT.DIR, TAG_LAST_TIMEOUT.VALID, TAG_LAST_TIMEOUT.UNIT, TAG_LAST_TIMEOUT.TICK]⟩,
   ⟨0x300030, 1, 8, [TAG_ECC_LAST.ARRAY, TAG_ECC_LAST.UE, TAG_ECC_LAST.VALID, TAG_ECC_LAST.SLICE, TAG_ECC_LAST.WORD]⟩,
   ⟨0x300038, 1, 8, [TAG_PROT_ERR_CNT]⟩,
   ⟨0x300040, 1, 8, [TAG_STALL_CNT]⟩,
   ⟨0x300048, 1, 8, [TAG_TIMEOUT_RD_CNT]⟩,
   ⟨0x300050, 1, 8, [TAG_TIMEOUT_WR_CNT]⟩,
   ⟨0x300058, 1, 8, [TAG_EXTRA_CLOSE_CNT]⟩,
   ⟨0x300060, 1, 8, [TAG_EXTRA_DRAIN_CNT]⟩,
   ⟨0x300068, 1, 8, [TAG_FOREIGN_CNT]⟩,
   ⟨0x300070, 1, 8, [TAG_ECC_CE_CNT]⟩,
   ⟨0x300078, 1, 8, [TAG_ECC_UE_CNT]⟩,
   ⟨0x300080, 1, 8, [TAG_SCRUB_CNT]⟩,
   ⟨0x310000, 16384, 8, [TAG_TABLE.WORD 0]⟩]

/-! MEM_STATUS: 08_stacks_and_cache.md R255, Table 8.6. -/
def MEM_STATUS.FLUSHING : Field := ⟨0x400000, 0, 1, 0, .ro⟩
def MEM_STATUS.RETIRING : Field := ⟨0x400000, 1, 1, 0, .ro⟩
def MEM_STATUS.RETIRE_FULL : Field := ⟨0x400000, 2, 1, 0, .ro⟩
def MEM_STATUS.PF_HALVED : Field := ⟨0x400000, 3, 1, 0, .ro⟩

/-! MEM_CFG: 08_stacks_and_cache.md R255, Table 8.7. -/
def MEM_CFG.PF_DIS : Field := ⟨0x400008, 0, 1, 0, .rw⟩
def MEM_CFG.HINT_NORMAL : Field := ⟨0x400008, 1, 1, 0, .rw⟩
def MEM_CFG.LAST_AS_STREAM : Field := ⟨0x400008, 2, 1, 0, .rw⟩

/-! MEM_PF_CFG: 08_stacks_and_cache.md R255, Table 8.8. -/
def MEM_PF_CFG.DEPTH : Field := ⟨0x400010, 0, 7, 0x10, .rw⟩
def MEM_PF_CFG.MAX_STRIDE : Field := ⟨0x400010, 8, 11, 0x400, .rw⟩
def MEM_PF_CFG.IDLE : Field := ⟨0x400010, 20, 16, 0x40, .rw⟩

/-! MEM_CACHE_CTL: 08_stacks_and_cache.md R255, Table 8.9. -/
def MEM_CACHE_CTL.FLUSH : Field := ⟨0x400018, 0, 1, 0, .wo⟩
def MEM_CACHE_CTL.UNKEEP : Field := ⟨0x400018, 1, 1, 0, .wo⟩

/-! MEM_LAST_ERR: 08_stacks_and_cache.md R255, Table 8.10. -/
def MEM_LAST_ERR.KIND : Field := ⟨0x400020, 0, 2, 0, .ro⟩
def MEM_LAST_ERR.VALID : Field := ⟨0x400020, 2, 1, 0, .ro⟩
def MEM_LAST_ERR.STACK : Field := ⟨0x400020, 3, 4, 0, .ro⟩
def MEM_LAST_ERR.PAGE : Field := ⟨0x400020, 8, 24, 0, .ro⟩
def MEM_LAST_ERR.TICK : Field := ⟨0x400020, 32, 32, 0, .ro⟩

/-! MEM_RETIRE_STATUS: 08_stacks_and_cache.md R255, Table 8.11. -/
def MEM_RETIRE_STATUS.USED : Field := ⟨0x400028, 0, 10, 0, .ro⟩

/-! MEM_RD_BURST_CNT: 08_stacks_and_cache.md R255. -/
def MEM_RD_BURST_CNT : Field := ⟨0x400030, 0, 48, 0, .rc⟩

/-! MEM_WR_BURST_CNT: 08_stacks_and_cache.md R255. -/
def MEM_WR_BURST_CNT : Field := ⟨0x400038, 0, 48, 0, .rc⟩

/-! MEM_RD_BYTE_CNT: 08_stacks_and_cache.md R255. -/
def MEM_RD_BYTE_CNT : Field := ⟨0x400040, 0, 48, 0, .rc⟩

/-! MEM_WR_BYTE_CNT: 08_stacks_and_cache.md R255. -/
def MEM_WR_BYTE_CNT : Field := ⟨0x400048, 0, 48, 0, .rc⟩

/-! MEM_CACHE_HIT_CNT: 08_stacks_and_cache.md R255. -/
def MEM_CACHE_HIT_CNT : Field := ⟨0x400050, 0, 48, 0, .rc⟩

/-! MEM_CACHE_MISS_CNT: 08_stacks_and_cache.md R255. -/
def MEM_CACHE_MISS_CNT : Field := ⟨0x400058, 0, 48, 0, .rc⟩

/-! MEM_WRITEBACK_CNT: 08_stacks_and_cache.md R255. -/
def MEM_WRITEBACK_CNT : Field := ⟨0x400060, 0, 48, 0, .rc⟩

/-! MEM_LAST_INVAL_CNT: 08_stacks_and_cache.md R255. -/
def MEM_LAST_INVAL_CNT : Field := ⟨0x400068, 0, 48, 0, .rc⟩

/-! MEM_LAST_DISCARD_CNT: 08_stacks_and_cache.md R255. -/
def MEM_LAST_DISCARD_CNT : Field := ⟨0x400070, 0, 48, 0, .rc⟩

/-! MEM_KEEP_DEMOTE_CNT: 08_stacks_and_cache.md R255. -/
def MEM_KEEP_DEMOTE_CNT : Field := ⟨0x400078, 0, 48, 0, .rc⟩

/-! MEM_PF_ENGAGE_CNT: 08_stacks_and_cache.md R255. -/
def MEM_PF_ENGAGE_CNT : Field := ⟨0x400080, 0, 48, 0, .rc⟩

/-! MEM_PF_ISSUE_CNT: 08_stacks_and_cache.md R255. -/
def MEM_PF_ISSUE_CNT : Field := ⟨0x400088, 0, 48, 0, .rc⟩

/-! MEM_PF_USED_CNT: 08_stacks_and_cache.md R255. -/
def MEM_PF_USED_CNT : Field := ⟨0x400090, 0, 48, 0, .rc⟩

/-! MEM_PF_DROP_CNT: 08_stacks_and_cache.md R255. -/
def MEM_PF_DROP_CNT : Field := ⟨0x400098, 0, 48, 0, .rc⟩

/-! MEM_CRC_ERR_CNT: 08_stacks_and_cache.md R255. -/
def MEM_CRC_ERR_CNT : Field := ⟨0x4000a0, 0, 48, 0, .rc⟩

/-! MEM_CRC_RECOVER_CNT: 08_stacks_and_cache.md R255. -/
def MEM_CRC_RECOVER_CNT : Field := ⟨0x4000a8, 0, 48, 0, .rc⟩

/-! MEM_WR_RETRY_CNT: 08_stacks_and_cache.md R255. -/
def MEM_WR_RETRY_CNT : Field := ⟨0x4000b0, 0, 48, 0, .rc⟩

/-! MEM_DATA_LOST_CNT: 08_stacks_and_cache.md R255. -/
def MEM_DATA_LOST_CNT : Field := ⟨0x4000b8, 0, 48, 0, .rc⟩

/-! MEM_RETIRED_ACC_CNT: 08_stacks_and_cache.md R255. -/
def MEM_RETIRED_ACC_CNT : Field := ⟨0x4000c0, 0, 48, 0, .rc⟩

/-! MEM_CACHE_CE_CNT: 08_stacks_and_cache.md R255. -/
def MEM_CACHE_CE_CNT : Field := ⟨0x4000c8, 0, 48, 0, .rc⟩

/-! MEM_CACHE_UE_CNT: 08_stacks_and_cache.md R255. -/
def MEM_CACHE_UE_CNT : Field := ⟨0x4000d0, 0, 48, 0, .rc⟩

/-! MEM_RETIRE_TABLE: 08_stacks_and_cache.md R255, Table 8.12. -/
def MEM_RETIRE_TABLE.PAGE (n : Nat) : Field := ⟨0x401000 + 8 * n, 0, 24, 0, .ro⟩
def MEM_RETIRE_TABLE.VALID (n : Nat) : Field := ⟨0x401000 + 8 * n, 24, 1, 0, .ro⟩
def MEM_RETIRE_TABLE.REPAIRED (n : Nat) : Field := ⟨0x401000 + 8 * n, 25, 1, 0, .ro⟩
def MEM_RETIRE_TABLE.STACK (n : Nat) : Field := ⟨0x401000 + 8 * n, 26, 4, 0, .ro⟩
def MEM_RETIRE_TABLE.TICK (n : Nat) : Field := ⟨0x401000 + 8 * n, 32, 32, 0, .ro⟩

/-- The registers of the MEM block (Table 0.6), in order of offset. -/
def groupsMEM : List RegGroup :=
  [⟨0x400000, 1, 8, [MEM_STATUS.FLUSHING, MEM_STATUS.RETIRING, MEM_STATUS.RETIRE_FULL, MEM_STATUS.PF_HALVED]⟩,
   ⟨0x400008, 1, 8, [MEM_CFG.PF_DIS, MEM_CFG.HINT_NORMAL, MEM_CFG.LAST_AS_STREAM]⟩,
   ⟨0x400010, 1, 8, [MEM_PF_CFG.DEPTH, MEM_PF_CFG.MAX_STRIDE, MEM_PF_CFG.IDLE]⟩,
   ⟨0x400018, 1, 8, [MEM_CACHE_CTL.FLUSH, MEM_CACHE_CTL.UNKEEP]⟩,
   ⟨0x400020, 1, 8, [MEM_LAST_ERR.KIND, MEM_LAST_ERR.VALID, MEM_LAST_ERR.STACK, MEM_LAST_ERR.PAGE, MEM_LAST_ERR.TICK]⟩,
   ⟨0x400028, 1, 8, [MEM_RETIRE_STATUS.USED]⟩,
   ⟨0x400030, 1, 8, [MEM_RD_BURST_CNT]⟩,
   ⟨0x400038, 1, 8, [MEM_WR_BURST_CNT]⟩,
   ⟨0x400040, 1, 8, [MEM_RD_BYTE_CNT]⟩,
   ⟨0x400048, 1, 8, [MEM_WR_BYTE_CNT]⟩,
   ⟨0x400050, 1, 8, [MEM_CACHE_HIT_CNT]⟩,
   ⟨0x400058, 1, 8, [MEM_CACHE_MISS_CNT]⟩,
   ⟨0x400060, 1, 8, [MEM_WRITEBACK_CNT]⟩,
   ⟨0x400068, 1, 8, [MEM_LAST_INVAL_CNT]⟩,
   ⟨0x400070, 1, 8, [MEM_LAST_DISCARD_CNT]⟩,
   ⟨0x400078, 1, 8, [MEM_KEEP_DEMOTE_CNT]⟩,
   ⟨0x400080, 1, 8, [MEM_PF_ENGAGE_CNT]⟩,
   ⟨0x400088, 1, 8, [MEM_PF_ISSUE_CNT]⟩,
   ⟨0x400090, 1, 8, [MEM_PF_USED_CNT]⟩,
   ⟨0x400098, 1, 8, [MEM_PF_DROP_CNT]⟩,
   ⟨0x4000a0, 1, 8, [MEM_CRC_ERR_CNT]⟩,
   ⟨0x4000a8, 1, 8, [MEM_CRC_RECOVER_CNT]⟩,
   ⟨0x4000b0, 1, 8, [MEM_WR_RETRY_CNT]⟩,
   ⟨0x4000b8, 1, 8, [MEM_DATA_LOST_CNT]⟩,
   ⟨0x4000c0, 1, 8, [MEM_RETIRED_ACC_CNT]⟩,
   ⟨0x4000c8, 1, 8, [MEM_CACHE_CE_CNT]⟩,
   ⟨0x4000d0, 1, 8, [MEM_CACHE_UE_CNT]⟩,
   ⟨0x401000, 512, 8, [MEM_RETIRE_TABLE.PAGE 0, MEM_RETIRE_TABLE.VALID 0, MEM_RETIRE_TABLE.REPAIRED 0, MEM_RETIRE_TABLE.STACK 0, MEM_RETIRE_TABLE.TICK 0]⟩]

/-! LNK_STATUS: 10_nemico_link.md R326, Table 10.13. -/
def LNK_STATUS.UP : Field := ⟨0x500000, 0, 16, 0, .ro⟩
def LNK_STATUS.NARROW : Field := ⟨0x500000, 16, 16, 0, .ro⟩
def LNK_STATUS.MODE : Field := ⟨0x500000, 32, 2, 0, .ro⟩
def LNK_STATUS.CENSUS_OK : Field := ⟨0x500000, 34, 1, 0, .ro⟩
def LNK_STATUS.EPOCH_PENDING : Field := ⟨0x500000, 35, 1, 0, .ro⟩
def LNK_STATUS.SYS_RM : Field := ⟨0x500000, 36, 1, 0, .ro⟩
def LNK_STATUS.GROUP_RM : Field := ⟨0x500000, 37, 4, 0, .ro⟩
def LNK_STATUS.BELLWETHER : Field := ⟨0x500000, 41, 1, 0, .ro⟩
def LNK_STATUS.HOLDING : Field := ⟨0x500000, 42, 1, 0, .ro⟩

/-! LNK_ID: 10_nemico_link.md R326, Table 10.14. -/
def LNK_ID.ID : Field := ⟨0x500008, 0, 16, 0xffff, .rw⟩
def LNK_ID.POSITION : Field := ⟨0x500008, 16, 16, 0xffff, .ro⟩
def LNK_ID.X : Field := ⟨0x500008, 32, 4, 0, .ro⟩
def LNK_ID.Y : Field := ⟨0x500008, 36, 4, 0, .ro⟩
def LNK_ID.Z : Field := ⟨0x500008, 40, 4, 0, .ro⟩
def LNK_ID.W : Field := ⟨0x500008, 44, 4, 0, .ro⟩

/-! LNK_EPOCH: 10_nemico_link.md R326, Table 10.15. -/
def LNK_EPOCH.EPOCH : Field := ⟨0x500010, 0, 32, 0, .ro⟩
def LNK_EPOCH.PENDING : Field := ⟨0x500010, 32, 32, 0, .ro⟩

/-! LNK_DIGEST: 10_nemico_link.md R326, Table 10.15. -/
def LNK_DIGEST.DIGEST : Field := ⟨0x500018, 0, 64, 0, .ro⟩

/-! LNK_CFG: 10_nemico_link.md R326, Table 10.16. -/
def LNK_CFG.GRACE : Field := ⟨0x500020, 0, 4, 8, .rw⟩
def LNK_CFG.CENSUS_WAIT : Field := ⟨0x500020, 8, 8, 0x32, .rw⟩
def LNK_CFG.WIN_TIMEOUT : Field := ⟨0x500020, 16, 16, 0x3e8, .rw⟩

/-! LNK_PORT_CTL: 10_nemico_link.md R326, Table 10.17. -/
def LNK_PORT_CTL.RETRAIN : Field := ⟨0x500028, 0, 16, 0, .wo⟩
def LNK_PORT_CTL.DISABLE : Field := ⟨0x500028, 16, 16, 0, .rw⟩
def LNK_PORT_CTL.FULLTRAIN : Field := ⟨0x500028, 32, 16, 0, .wo⟩

/-! LNK_CENSUS_STATUS: 10_nemico_link.md R326, Table 10.18. -/
def LNK_CENSUS_STATUS.RUNNING : Field := ⟨0x500030, 0, 1, 0, .ro⟩
def LNK_CENSUS_STATUS.DONE : Field := ⟨0x500030, 1, 1, 0, .ro⟩
def LNK_CENSUS_STATUS.AGREED : Field := ⟨0x500030, 2, 1, 0, .ro⟩
def LNK_CENSUS_STATUS.REACHED : Field := ⟨0x500030, 4, 15, 0, .ro⟩
def LNK_CENSUS_STATUS.AGREE : Field := ⟨0x500030, 19, 15, 0, .ro⟩
def LNK_CENSUS_STATUS.FIRST_BAD : Field := ⟨0x500030, 34, 16, 0xffff, .ro⟩
def LNK_CENSUS_STATUS.NUMBER : Field := ⟨0x500030, 50, 14, 0, .ro⟩

/-! LNK_LAST_ERR: 10_nemico_link.md R326, Table 10.19. -/
def LNK_LAST_ERR.CODE : Field := ⟨0x500038, 0, 4, 0, .ro⟩
def LNK_LAST_ERR.VALID : Field := ⟨0x500038, 4, 1, 0, .ro⟩
def LNK_LAST_ERR.PORT : Field := ⟨0x500038, 8, 4, 0, .ro⟩
def LNK_LAST_ERR.MODULE : Field := ⟨0x500038, 12, 16, 0, .ro⟩
def LNK_LAST_ERR.TICK : Field := ⟨0x500038, 32, 32, 0, .ro⟩

/-! LNK_VC_CFG: 10_nemico_link.md R326, Table 10.20. -/
def LNK_VC_CFG.WEIGHT : Field := ⟨0x500040, 0, 24, 0, .ro⟩

/-! LNK_HB_MISS_CNT: 10_nemico_link.md R326. -/
def LNK_HB_MISS_CNT : Field := ⟨0x500048, 0, 48, 0, .rc⟩

/-! LNK_MISMATCH_CNT: 10_nemico_link.md R326. -/
def LNK_MISMATCH_CNT : Field := ⟨0x500050, 0, 48, 0, .rc⟩

/-! LNK_HOLD_CNT: 10_nemico_link.md R326. -/
def LNK_HOLD_CNT : Field := ⟨0x500058, 0, 48, 0, .rc⟩

/-! LNK_NOROUTE_CNT: 10_nemico_link.md R326. -/
def LNK_NOROUTE_CNT : Field := ⟨0x500060, 0, 48, 0, .rc⟩

/-! LNK_FWD_PKT_CNT: 10_nemico_link.md R326. -/
def LNK_FWD_PKT_CNT : Field := ⟨0x500068, 0, 48, 0, .rc⟩

/-! LNK_WIN_REQ_CNT: 10_nemico_link.md R326. -/
def LNK_WIN_REQ_CNT : Field := ⟨0x500070, 0, 48, 0, .rc⟩

/-! LNK_WIN_REFUSED_CNT: 10_nemico_link.md R326. -/
def LNK_WIN_REFUSED_CNT : Field := ⟨0x500078, 0, 48, 0, .rc⟩

/-! LNK_WIN_TIMEOUT_CNT: 10_nemico_link.md R326. -/
def LNK_WIN_TIMEOUT_CNT : Field := ⟨0x500080, 0, 48, 0, .rc⟩

/-! LNK_RESEND_CNT: 10_nemico_link.md R326. -/
def LNK_RESEND_CNT : Field := ⟨0x500088, 0, 48, 0, .rc⟩

/-! LNK_CENSUS_CNT: 10_nemico_link.md R326. -/
def LNK_CENSUS_CNT : Field := ⟨0x500090, 0, 48, 0, .rc⟩

/-! LNK_P_STATUS: 10_nemico_link.md R326, Table 10.21. -/
def LNK_P_STATUS.STATE (n : Nat) : Field := ⟨0x501000 + 64 * n, 0, 2, 0, .ro⟩
def LNK_P_STATUS.NARROW (n : Nat) : Field := ⟨0x501000 + 64 * n, 2, 1, 0, .ro⟩
def LNK_P_STATUS.UPPER (n : Nat) : Field := ⟨0x501000 + 64 * n, 3, 1, 0, .ro⟩
def LNK_P_STATUS.HELD (n : Nat) : Field := ⟨0x501000 + 64 * n, 4, 1, 0, .ro⟩
def LNK_P_STATUS.EQ_SAVED (n : Nat) : Field := ⟨0x501000 + 64 * n, 5, 1, 0, .ro⟩
def LNK_P_STATUS.NEIGHBOUR (n : Nat) : Field := ⟨0x501000 + 64 * n, 8, 16, 0xffff, .ro⟩
def LNK_P_STATUS.NPORT (n : Nat) : Field := ⟨0x501000 + 64 * n, 24, 4, 0, .ro⟩
def LNK_P_STATUS.HB_TICK (n : Nat) : Field := ⟨0x501000 + 64 * n, 32, 32, 0, .ro⟩

/-! LNK_P_TX_FLIT_CNT: 10_nemico_link.md R326. -/
def LNK_P_TX_FLIT_CNT (n : Nat) : Field := ⟨0x501008 + 64 * n, 0, 48, 0, .rc⟩

/-! LNK_P_RX_FLIT_CNT: 10_nemico_link.md R326. -/
def LNK_P_RX_FLIT_CNT (n : Nat) : Field := ⟨0x501010 + 64 * n, 0, 48, 0, .rc⟩

/-! LNK_P_CRC_ERR_CNT: 10_nemico_link.md R326. -/
def LNK_P_CRC_ERR_CNT (n : Nat) : Field := ⟨0x501018 + 64 * n, 0, 48, 0, .rc⟩

/-! LNK_P_REPLAY_CNT: 10_nemico_link.md R326. -/
def LNK_P_REPLAY_CNT (n : Nat) : Field := ⟨0x501020 + 64 * n, 0, 48, 0, .rc⟩

/-! LNK_P_RETRAIN_CNT: 10_nemico_link.md R326. -/
def LNK_P_RETRAIN_CNT (n : Nat) : Field := ⟨0x501028 + 64 * n, 0, 48, 0, .rc⟩

/-! LNK_P_CREDIT_ERR_CNT: 10_nemico_link.md R326. -/
def LNK_P_CREDIT_ERR_CNT (n : Nat) : Field := ⟨0x501030 + 64 * n, 0, 48, 0, .rc⟩

/-! LNK_WIN_TABLE: 10_nemico_link.md R326. -/
def LNK_WIN_TABLE.WORD (n : Nat) : Field := ⟨0x502000 + 8 * n, 0, 64, 0, .ro⟩

/-- The registers of the LNK block (Table 0.6), in order of offset. -/
def groupsLNK : List RegGroup :=
  [⟨0x500000, 1, 8, [LNK_STATUS.UP, LNK_STATUS.NARROW, LNK_STATUS.MODE, LNK_STATUS.CENSUS_OK, LNK_STATUS.EPOCH_PENDING, LNK_STATUS.SYS_RM, LNK_STATUS.GROUP_RM, LNK_STATUS.BELLWETHER, LNK_STATUS.HOLDING]⟩,
   ⟨0x500008, 1, 8, [LNK_ID.ID, LNK_ID.POSITION, LNK_ID.X, LNK_ID.Y, LNK_ID.Z, LNK_ID.W]⟩,
   ⟨0x500010, 1, 8, [LNK_EPOCH.EPOCH, LNK_EPOCH.PENDING]⟩,
   ⟨0x500018, 1, 8, [LNK_DIGEST.DIGEST]⟩,
   ⟨0x500020, 1, 8, [LNK_CFG.GRACE, LNK_CFG.CENSUS_WAIT, LNK_CFG.WIN_TIMEOUT]⟩,
   ⟨0x500028, 1, 8, [LNK_PORT_CTL.RETRAIN, LNK_PORT_CTL.DISABLE, LNK_PORT_CTL.FULLTRAIN]⟩,
   ⟨0x500030, 1, 8, [LNK_CENSUS_STATUS.RUNNING, LNK_CENSUS_STATUS.DONE, LNK_CENSUS_STATUS.AGREED, LNK_CENSUS_STATUS.REACHED, LNK_CENSUS_STATUS.AGREE, LNK_CENSUS_STATUS.FIRST_BAD, LNK_CENSUS_STATUS.NUMBER]⟩,
   ⟨0x500038, 1, 8, [LNK_LAST_ERR.CODE, LNK_LAST_ERR.VALID, LNK_LAST_ERR.PORT, LNK_LAST_ERR.MODULE, LNK_LAST_ERR.TICK]⟩,
   ⟨0x500040, 1, 8, [LNK_VC_CFG.WEIGHT]⟩,
   ⟨0x500048, 1, 8, [LNK_HB_MISS_CNT]⟩,
   ⟨0x500050, 1, 8, [LNK_MISMATCH_CNT]⟩,
   ⟨0x500058, 1, 8, [LNK_HOLD_CNT]⟩,
   ⟨0x500060, 1, 8, [LNK_NOROUTE_CNT]⟩,
   ⟨0x500068, 1, 8, [LNK_FWD_PKT_CNT]⟩,
   ⟨0x500070, 1, 8, [LNK_WIN_REQ_CNT]⟩,
   ⟨0x500078, 1, 8, [LNK_WIN_REFUSED_CNT]⟩,
   ⟨0x500080, 1, 8, [LNK_WIN_TIMEOUT_CNT]⟩,
   ⟨0x500088, 1, 8, [LNK_RESEND_CNT]⟩,
   ⟨0x500090, 1, 8, [LNK_CENSUS_CNT]⟩,
   ⟨0x501000, 16, 64, [LNK_P_STATUS.STATE 0, LNK_P_STATUS.NARROW 0, LNK_P_STATUS.UPPER 0, LNK_P_STATUS.HELD 0, LNK_P_STATUS.EQ_SAVED 0, LNK_P_STATUS.NEIGHBOUR 0, LNK_P_STATUS.NPORT 0, LNK_P_STATUS.HB_TICK 0]⟩,
   ⟨0x501008, 16, 64, [LNK_P_TX_FLIT_CNT 0]⟩,
   ⟨0x501010, 16, 64, [LNK_P_RX_FLIT_CNT 0]⟩,
   ⟨0x501018, 16, 64, [LNK_P_CRC_ERR_CNT 0]⟩,
   ⟨0x501020, 16, 64, [LNK_P_REPLAY_CNT 0]⟩,
   ⟨0x501028, 16, 64, [LNK_P_RETRAIN_CNT 0]⟩,
   ⟨0x501030, 16, 64, [LNK_P_CREDIT_ERR_CNT 0]⟩,
   ⟨0x502000, 512, 8, [LNK_WIN_TABLE.WORD 0]⟩]

/-! RED_STATUS: 11_gradient_reduction.md R356, Table 11.6. -/
def RED_STATUS.ACTIVE : Field := ⟨0x600000, 0, 7, 0, .ro⟩
def RED_STATUS.ADDER_FAIL : Field := ⟨0x600000, 16, 16, 0, .ro⟩
def RED_STATUS.COMB_FAIL : Field := ⟨0x600000, 32, 1, 0, .ro⟩

/-! RED_CFG: 11_gradient_reduction.md R356, Table 11.7. -/
def RED_CFG.MARGIN : Field := ⟨0x600008, 0, 4, 1, .rw⟩
def RED_CFG.HOP_TICKS : Field := ⟨0x600008, 8, 16, 0x14, .rw⟩
def RED_CFG.RESULT_WAIT : Field := ⟨0x600008, 32, 24, 0x1388, .rw⟩

/-! RED_CARRY_STATUS: 11_gradient_reduction.md R356, Table 11.8. -/
def RED_CARRY_STATUS.USED0 : Field := ⟨0x600010, 0, 24, 0, .ro⟩
def RED_CARRY_STATUS.USED1 : Field := ⟨0x600010, 24, 24, 0, .ro⟩

/-! RED_ADJ_CFG: 11_gradient_reduction.md R356, Table 11.9. -/
def RED_ADJ_CFG.AUTO : Field := ⟨0x600018, 0, 1, 0, .rw⟩
def RED_ADJ_CFG.UP : Field := ⟨0x600018, 8, 16, 0x200, .rw⟩
def RED_ADJ_CFG.DOWN : Field := ⟨0x600018, 24, 16, 0x40, .rw⟩
def RED_ADJ_CFG.TARGET : Field := ⟨0x600018, 40, 16, 0x2710, .rw⟩
def RED_ADJ_CFG.CALM : Field := ⟨0x600018, 56, 8, 8, .rw⟩

/-! RED_ADJ01: 11_gradient_reduction.md R356, Table 11.10. -/
def RED_ADJ01.ADJ0 : Field := ⟨0x600020, 0, 32, 0, .ro⟩
def RED_ADJ01.ADJ1 : Field := ⟨0x600020, 32, 32, 0, .ro⟩

/-! RED_ADJ23: 11_gradient_reduction.md R356, Table 11.10. -/
def RED_ADJ23.ADJ2 : Field := ⟨0x600028, 0, 32, 0, .ro⟩
def RED_ADJ23.ADJ3 : Field := ⟨0x600028, 32, 32, 0, .ro⟩

/-! RED_LAST_ERR: 11_gradient_reduction.md R356, Table 11.11. -/
def RED_LAST_ERR.CODE : Field := ⟨0x600030, 0, 3, 0, .ro⟩
def RED_LAST_ERR.VALID : Field := ⟨0x600030, 3, 1, 0, .ro⟩
def RED_LAST_ERR.UNIT : Field := ⟨0x600030, 4, 5, 0, .ro⟩
def RED_LAST_ERR.TID : Field := ⟨0x600030, 16, 16, 0, .ro⟩
def RED_LAST_ERR.TICK : Field := ⟨0x600030, 32, 32, 0, .ro⟩

/-! RED_BLOCK_SENT_CNT: 11_gradient_reduction.md R356. -/
def RED_BLOCK_SENT_CNT : Field := ⟨0x600038, 0, 48, 0, .rc⟩

/-! RED_COMBINE_CNT: 11_gradient_reduction.md R356. -/
def RED_COMBINE_CNT : Field := ⟨0x600040, 0, 48, 0, .rc⟩

/-! RED_RES_FAIL_CNT: 11_gradient_reduction.md R356. -/
def RED_RES_FAIL_CNT : Field := ⟨0x600048, 0, 48, 0, .rc⟩

/-! RED_RECOMPUTE_CNT: 11_gradient_reduction.md R356. -/
def RED_RECOMPUTE_CNT : Field := ⟨0x600050, 0, 48, 0, .rc⟩

/-! RED_INPUT_DROP_CNT: 11_gradient_reduction.md R356. -/
def RED_INPUT_DROP_CNT : Field := ⟨0x600058, 0, 48, 0, .rc⟩

/-! RED_WITHHELD_CNT: 11_gradient_reduction.md R356. -/
def RED_WITHHELD_CNT : Field := ⟨0x600060, 0, 48, 0, .rc⟩

/-! RED_LATE_CARRY_CNT: 11_gradient_reduction.md R356. -/
def RED_LATE_CARRY_CNT : Field := ⟨0x600068, 0, 48, 0, .rc⟩

/-! RED_LATE_DROP_CNT: 11_gradient_reduction.md R356. -/
def RED_LATE_DROP_CNT : Field := ⟨0x600070, 0, 48, 0, .rc⟩

/-! RED_MISSING_CNT: 11_gradient_reduction.md R356. -/
def RED_MISSING_CNT : Field := ⟨0x600078, 0, 48, 0, .rc⟩

/-! RED_REDUCE_CNT: 11_gradient_reduction.md R356. -/
def RED_REDUCE_CNT : Field := ⟨0x600080, 0, 48, 0, .rc⟩

/-! RED_OP_REFUSED_CNT: 11_gradient_reduction.md R356. -/
def RED_OP_REFUSED_CNT : Field := ⟨0x600088, 0, 48, 0, .rc⟩

/-! RED_NUM_SAT_CNT: 02_number_formats.md R73. -/
def RED_NUM_SAT_CNT : Field := ⟨0x600f00, 0, 48, 0, .rc⟩

/-! RED_NUM_INF_CNT: 02_number_formats.md R73. -/
def RED_NUM_INF_CNT : Field := ⟨0x600f08, 0, 48, 0, .rc⟩

/-! RED_NUM_FTZ_CNT: 02_number_formats.md R73. -/
def RED_NUM_FTZ_CNT : Field := ⟨0x600f10, 0, 48, 0, .rc⟩

/-! RED_NUM_NAN_CNT: 02_number_formats.md R73. -/
def RED_NUM_NAN_CNT : Field := ⟨0x600f18, 0, 48, 0, .rc⟩

/-! RED_NUM_CFG: 02_number_formats.md R73, Table 2.10. -/
def RED_NUM_CFG.FORCE_RNE : Field := ⟨0x600f20, 0, 1, 0, .rw⟩

/-! RED_NUM_SEED: 02_number_formats.md R73, Table 2.11. -/
def RED_NUM_SEED.S : Field := ⟨0x600f28, 0, 32, 0, .ro⟩

/-- The registers of the RED block (Table 0.6), in order of offset. -/
def groupsRED : List RegGroup :=
  [⟨0x600000, 1, 8, [RED_STATUS.ACTIVE, RED_STATUS.ADDER_FAIL, RED_STATUS.COMB_FAIL]⟩,
   ⟨0x600008, 1, 8, [RED_CFG.MARGIN, RED_CFG.HOP_TICKS, RED_CFG.RESULT_WAIT]⟩,
   ⟨0x600010, 1, 8, [RED_CARRY_STATUS.USED0, RED_CARRY_STATUS.USED1]⟩,
   ⟨0x600018, 1, 8, [RED_ADJ_CFG.AUTO, RED_ADJ_CFG.UP, RED_ADJ_CFG.DOWN, RED_ADJ_CFG.TARGET, RED_ADJ_CFG.CALM]⟩,
   ⟨0x600020, 1, 8, [RED_ADJ01.ADJ0, RED_ADJ01.ADJ1]⟩,
   ⟨0x600028, 1, 8, [RED_ADJ23.ADJ2, RED_ADJ23.ADJ3]⟩,
   ⟨0x600030, 1, 8, [RED_LAST_ERR.CODE, RED_LAST_ERR.VALID, RED_LAST_ERR.UNIT, RED_LAST_ERR.TID, RED_LAST_ERR.TICK]⟩,
   ⟨0x600038, 1, 8, [RED_BLOCK_SENT_CNT]⟩,
   ⟨0x600040, 1, 8, [RED_COMBINE_CNT]⟩,
   ⟨0x600048, 1, 8, [RED_RES_FAIL_CNT]⟩,
   ⟨0x600050, 1, 8, [RED_RECOMPUTE_CNT]⟩,
   ⟨0x600058, 1, 8, [RED_INPUT_DROP_CNT]⟩,
   ⟨0x600060, 1, 8, [RED_WITHHELD_CNT]⟩,
   ⟨0x600068, 1, 8, [RED_LATE_CARRY_CNT]⟩,
   ⟨0x600070, 1, 8, [RED_LATE_DROP_CNT]⟩,
   ⟨0x600078, 1, 8, [RED_MISSING_CNT]⟩,
   ⟨0x600080, 1, 8, [RED_REDUCE_CNT]⟩,
   ⟨0x600088, 1, 8, [RED_OP_REFUSED_CNT]⟩,
   ⟨0x600f00, 1, 8, [RED_NUM_SAT_CNT]⟩,
   ⟨0x600f08, 1, 8, [RED_NUM_INF_CNT]⟩,
   ⟨0x600f10, 1, 8, [RED_NUM_FTZ_CNT]⟩,
   ⟨0x600f18, 1, 8, [RED_NUM_NAN_CNT]⟩,
   ⟨0x600f20, 1, 8, [RED_NUM_CFG.FORCE_RNE]⟩,
   ⟨0x600f28, 1, 8, [RED_NUM_SEED.S]⟩]

/-! ING_STATUS: 13_media_ingest.md R403, Table 13.9. -/
def ING_STATUS.RUNNING : Field := ⟨0x700000, 0, 1, 0, .ro⟩
def ING_STATUS.HOST_PAUSED : Field := ⟨0x700000, 1, 1, 0, .ro⟩
def ING_STATUS.SHED_PAUSED : Field := ⟨0x700000, 2, 1, 0, .ro⟩
def ING_STATUS.PIPES_BUSY : Field := ⟨0x700000, 3, 6, 0, .ro⟩
def ING_STATUS.OUTSTANDING : Field := ⟨0x700000, 16, 13, 0, .ro⟩
def ING_STATUS.DSTEP : Field := ⟨0x700000, 32, 32, 0, .ro⟩

/-! ING_CFG: 13_media_ingest.md R403, Table 13.10. -/
def ING_CFG.PAUSE : Field := ⟨0x700008, 0, 1, 0, .rw⟩
def ING_CFG.AHEAD : Field := ⟨0x700008, 1, 2, 1, .rw⟩
def ING_CFG.READ_SIZE : Field := ⟨0x700008, 4, 3, 4, .rw⟩
def ING_CFG.PIPES : Field := ⟨0x700008, 8, 6, 0x30, .rw⟩

/-! ING_E0_STATUS: 13_media_ingest.md R403, Table 13.11. -/
def ING_E0_STATUS.UP : Field := ⟨0x700010, 0, 1, 0, .ro⟩
def ING_E0_STATUS.AN_DONE : Field := ⟨0x700010, 1, 1, 0, .ro⟩
def ING_E0_STATUS.FEC_LOCK : Field := ⟨0x700010, 2, 1, 0, .ro⟩
def ING_E0_STATUS.PFC_PAUSED : Field := ⟨0x700010, 3, 1, 0, .ro⟩
def ING_E0_STATUS.LANES_OK : Field := ⟨0x700010, 8, 8, 0, .ro⟩

/-! ING_E1_STATUS: 13_media_ingest.md R403, Table 13.11. -/
def ING_E1_STATUS.UP : Field := ⟨0x700018, 0, 1, 0, .ro⟩
def ING_E1_STATUS.AN_DONE : Field := ⟨0x700018, 1, 1, 0, .ro⟩
def ING_E1_STATUS.FEC_LOCK : Field := ⟨0x700018, 2, 1, 0, .ro⟩
def ING_E1_STATUS.PFC_PAUSED : Field := ⟨0x700018, 3, 1, 0, .ro⟩
def ING_E1_STATUS.LANES_OK : Field := ⟨0x700018, 8, 8, 0, .ro⟩

/-! ING_QP_CTL: 13_media_ingest.md R403, Table 13.12. -/
def ING_QP_CTL.QP : Field := ⟨0x700020, 0, 12, 0, .wo⟩
def ING_QP_CTL.RESET : Field := ⟨0x700020, 12, 1, 0, .wo⟩
def ING_QP_CTL.RESET_ALL : Field := ⟨0x700020, 13, 1, 0, .wo⟩

/-! ING_LAST_ERR: 13_media_ingest.md R403, Table 13.13. -/
def ING_LAST_ERR.CODE : Field := ⟨0x700028, 0, 4, 0, .ro⟩
def ING_LAST_ERR.VALID : Field := ⟨0x700028, 4, 1, 0, .ro⟩
def ING_LAST_ERR.QP : Field := ⟨0x700028, 8, 12, 0, .ro⟩
def ING_LAST_ERR.SAMPLE : Field := ⟨0x700028, 32, 32, 0, .ro⟩

/-! ING_SAMPLE_CNT: 13_media_ingest.md R403. -/
def ING_SAMPLE_CNT : Field := ⟨0x700030, 0, 48, 0, .rc⟩

/-! ING_SAMPLE_MARK_CNT: 13_media_ingest.md R403. -/
def ING_SAMPLE_MARK_CNT : Field := ⟨0x700038, 0, 48, 0, .rc⟩

/-! ING_READ_CNT: 13_media_ingest.md R403. -/
def ING_READ_CNT : Field := ⟨0x700040, 0, 48, 0, .rc⟩

/-! ING_READ_BYTE_CNT: 13_media_ingest.md R403. -/
def ING_READ_BYTE_CNT : Field := ⟨0x700048, 0, 48, 0, .rc⟩

/-! ING_RETRY_CNT: 13_media_ingest.md R403. -/
def ING_RETRY_CNT : Field := ⟨0x700050, 0, 48, 0, .rc⟩

/-! ING_QP_ERR_CNT: 13_media_ingest.md R403. -/
def ING_QP_ERR_CNT : Field := ⟨0x700058, 0, 48, 0, .rc⟩

/-! ING_FETCH_FAIL_CNT: 13_media_ingest.md R403. -/
def ING_FETCH_FAIL_CNT : Field := ⟨0x700060, 0, 48, 0, .rc⟩

/-! ING_PARSE_ERR_CNT: 13_media_ingest.md R403. -/
def ING_PARSE_ERR_CNT : Field := ⟨0x700068, 0, 48, 0, .rc⟩

/-! ING_FRAME_CNT: 13_media_ingest.md R403. -/
def ING_FRAME_CNT : Field := ⟨0x700070, 0, 48, 0, .rc⟩

/-! ING_FRAME_DROP_CNT: 13_media_ingest.md R403. -/
def ING_FRAME_DROP_CNT : Field := ⟨0x700078, 0, 48, 0, .rc⟩

/-! ING_UNSUPPORTED_CNT: 13_media_ingest.md R403. -/
def ING_UNSUPPORTED_CNT : Field := ⟨0x700080, 0, 48, 0, .rc⟩

/-! ING_ABANDON_CNT: 13_media_ingest.md R403. -/
def ING_ABANDON_CNT : Field := ⟨0x700088, 0, 48, 0, .rc⟩

/-! ING_AUDIO_TRUNC_CNT: 13_media_ingest.md R403. -/
def ING_AUDIO_TRUNC_CNT : Field := ⟨0x700090, 0, 48, 0, .rc⟩

/-! ING_CNP_CNT: 13_media_ingest.md R403. -/
def ING_CNP_CNT : Field := ⟨0x700098, 0, 48, 0, .rc⟩

/-! ING_RX_DROP_CNT: 13_media_ingest.md R403. -/
def ING_RX_DROP_CNT : Field := ⟨0x7000a0, 0, 48, 0, .rc⟩

/-! ING_NUM_SAT_CNT: 02_number_formats.md R73. -/
def ING_NUM_SAT_CNT : Field := ⟨0x700f00, 0, 48, 0, .rc⟩

/-! ING_NUM_INF_CNT: 02_number_formats.md R73. -/
def ING_NUM_INF_CNT : Field := ⟨0x700f08, 0, 48, 0, .rc⟩

/-! ING_NUM_FTZ_CNT: 02_number_formats.md R73. -/
def ING_NUM_FTZ_CNT : Field := ⟨0x700f10, 0, 48, 0, .rc⟩

/-! ING_NUM_NAN_CNT: 02_number_formats.md R73. -/
def ING_NUM_NAN_CNT : Field := ⟨0x700f18, 0, 48, 0, .rc⟩

/-! ING_NUM_CFG: 02_number_formats.md R73, Table 2.10. -/
def ING_NUM_CFG.FORCE_RNE : Field := ⟨0x700f20, 0, 1, 0, .rw⟩

/-! ING_NUM_SEED: 02_number_formats.md R73, Table 2.11. -/
def ING_NUM_SEED.S : Field := ⟨0x700f28, 0, 32, 0, .ro⟩

/-! ING_QP_ERR: 13_media_ingest.md R403, Table 13.14. -/
def ING_QP_ERR.ERR (n : Nat) : Field := ⟨0x701000 + 8 * n, 0, 64, 0, .ro⟩

/-- The registers of the ING block (Table 0.6), in order of offset. -/
def groupsING : List RegGroup :=
  [⟨0x700000, 1, 8, [ING_STATUS.RUNNING, ING_STATUS.HOST_PAUSED, ING_STATUS.SHED_PAUSED, ING_STATUS.PIPES_BUSY, ING_STATUS.OUTSTANDING, ING_STATUS.DSTEP]⟩,
   ⟨0x700008, 1, 8, [ING_CFG.PAUSE, ING_CFG.AHEAD, ING_CFG.READ_SIZE, ING_CFG.PIPES]⟩,
   ⟨0x700010, 1, 8, [ING_E0_STATUS.UP, ING_E0_STATUS.AN_DONE, ING_E0_STATUS.FEC_LOCK, ING_E0_STATUS.PFC_PAUSED, ING_E0_STATUS.LANES_OK]⟩,
   ⟨0x700018, 1, 8, [ING_E1_STATUS.UP, ING_E1_STATUS.AN_DONE, ING_E1_STATUS.FEC_LOCK, ING_E1_STATUS.PFC_PAUSED, ING_E1_STATUS.LANES_OK]⟩,
   ⟨0x700020, 1, 8, [ING_QP_CTL.QP, ING_QP_CTL.RESET, ING_QP_CTL.RESET_ALL]⟩,
   ⟨0x700028, 1, 8, [ING_LAST_ERR.CODE, ING_LAST_ERR.VALID, ING_LAST_ERR.QP, ING_LAST_ERR.SAMPLE]⟩,
   ⟨0x700030, 1, 8, [ING_SAMPLE_CNT]⟩,
   ⟨0x700038, 1, 8, [ING_SAMPLE_MARK_CNT]⟩,
   ⟨0x700040, 1, 8, [ING_READ_CNT]⟩,
   ⟨0x700048, 1, 8, [ING_READ_BYTE_CNT]⟩,
   ⟨0x700050, 1, 8, [ING_RETRY_CNT]⟩,
   ⟨0x700058, 1, 8, [ING_QP_ERR_CNT]⟩,
   ⟨0x700060, 1, 8, [ING_FETCH_FAIL_CNT]⟩,
   ⟨0x700068, 1, 8, [ING_PARSE_ERR_CNT]⟩,
   ⟨0x700070, 1, 8, [ING_FRAME_CNT]⟩,
   ⟨0x700078, 1, 8, [ING_FRAME_DROP_CNT]⟩,
   ⟨0x700080, 1, 8, [ING_UNSUPPORTED_CNT]⟩,
   ⟨0x700088, 1, 8, [ING_ABANDON_CNT]⟩,
   ⟨0x700090, 1, 8, [ING_AUDIO_TRUNC_CNT]⟩,
   ⟨0x700098, 1, 8, [ING_CNP_CNT]⟩,
   ⟨0x7000a0, 1, 8, [ING_RX_DROP_CNT]⟩,
   ⟨0x700f00, 1, 8, [ING_NUM_SAT_CNT]⟩,
   ⟨0x700f08, 1, 8, [ING_NUM_INF_CNT]⟩,
   ⟨0x700f10, 1, 8, [ING_NUM_FTZ_CNT]⟩,
   ⟨0x700f18, 1, 8, [ING_NUM_NAN_CNT]⟩,
   ⟨0x700f20, 1, 8, [ING_NUM_CFG.FORCE_RNE]⟩,
   ⟨0x700f28, 1, 8, [ING_NUM_SEED.S]⟩,
   ⟨0x701000, 64, 8, [ING_QP_ERR.ERR 0]⟩]

/-! CAD_STATUS: 14_cadence_and_budget.md R432, Table 14.9. -/
def CAD_STATUS.SYNCED : Field := ⟨0x800000, 0, 1, 0, .ro⟩
def CAD_STATUS.HOLDOVER : Field := ⟨0x800000, 1, 1, 0, .ro⟩
def CAD_STATUS.RATE_VALID : Field := ⟨0x800000, 2, 1, 0, .ro⟩
def CAD_STATUS.MODE : Field := ⟨0x800000, 3, 2, 0, .ro⟩
def CAD_STATUS.E_WARM : Field := ⟨0x800000, 5, 1, 0, .ro⟩
def CAD_STATUS.T_WARM : Field := ⟨0x800000, 6, 1, 0, .ro⟩
def CAD_STATUS.ACLK_CAP : Field := ⟨0x800000, 7, 1, 0, .ro⟩
def CAD_STATUS.HOLDING : Field := ⟨0x800000, 8, 1, 0, .ro⟩

/-! CAD_TICK: 14_cadence_and_budget.md R432, Table 14.10. -/
def CAD_TICK.COUNT : Field := ⟨0x800008, 0, 64, 0, .ro⟩

/-! CAD_TICK_SET: 14_cadence_and_budget.md R432, Table 14.10. -/
def CAD_TICK_SET.VALUE : Field := ⟨0x800010, 0, 64, 0, .wo⟩

/-! CAD_TICK_RATE: 14_cadence_and_budget.md R432, Table 14.10. -/
def CAD_TICK_RATE.PERIOD_PS : Field := ⟨0x800018, 0, 32, 0, .ro⟩
def CAD_TICK_RATE.VALID : Field := ⟨0x800018, 32, 1, 0, .ro⟩

/-! CAD_CFG: 14_cadence_and_budget.md R432, Table 14.11. -/
def CAD_CFG.MODE : Field := ⟨0x800020, 0, 2, 0, .rw⟩
def CAD_CFG.TC_PERIOD : Field := ⟨0x800020, 8, 24, 0x10000, .rw⟩
def CAD_CFG.VETO_MAX : Field := ⟨0x800020, 32, 16, 0x400, .rw⟩

/-! CAD_BUDGET: 14_cadence_and_budget.md R432, Table 14.11. -/
def CAD_BUDGET.BUDGET_W : Field := ⟨0x800028, 0, 16, 0x514, .rw⟩
def CAD_BUDGET.CAP_MJ : Field := ⟨0x800028, 16, 16, 0x7d0, .rw⟩

/-! CAD_THERM_CFG: 14_cadence_and_budget.md R432, Table 14.11. -/
def CAD_THERM_CFG.T_LIMIT : Field := ⟨0x800030, 0, 8, 0x5f, .rw⟩
def CAD_THERM_CFG.HR_HIGH : Field := ⟨0x800030, 8, 8, 0xa, .rw⟩
def CAD_THERM_CFG.HR_LOW : Field := ⟨0x800030, 16, 8, 3, .rw⟩

/-! CAD_PRED: 14_cadence_and_budget.md R432, Table 14.12. -/
def CAD_PRED.K : Field := ⟨0x800038, 0, 16, 0x1000, .ro⟩
def CAD_PRED.E_SAMPLES : Field := ⟨0x800038, 16, 7, 0, .ro⟩
def CAD_PRED.T_SAMPLES : Field := ⟨0x800038, 23, 7, 0, .ro⟩
def CAD_PRED.T_DIE : Field := ⟨0x800038, 32, 8, 0, .ro⟩
def CAD_PRED.T_EST : Field := ⟨0x800038, 40, 8, 0, .ro⟩
def CAD_PRED.P_IDLE : Field := ⟨0x800038, 48, 16, 0, .ro⟩

/-! CAD_BUCKET: 14_cadence_and_budget.md R432, Table 14.12. -/
def CAD_BUCKET.B : Field := ⟨0x800040, 0, 64, 0, .ro⟩

/-! CAD_TC_LAST: 14_cadence_and_budget.md R432, Table 14.12. -/
def CAD_TC_LAST.TSEQ : Field := ⟨0x800048, 0, 32, 0, .ro⟩
def CAD_TC_LAST.SRC : Field := ⟨0x800048, 32, 16, 0, .ro⟩
def CAD_TC_LAST.HOPS : Field := ⟨0x800048, 48, 8, 0, .ro⟩
def CAD_TC_LAST.VALID : Field := ⟨0x800048, 56, 1, 0, .ro⟩
def CAD_TC_LAST.STEPPED : Field := ⟨0x800048, 57, 1, 0, .ro⟩

/-! CAD_CTL: 14_cadence_and_budget.md R432, Table 14.13. -/
def CAD_CTL.SEND_TC : Field := ⟨0x800050, 0, 1, 0, .wo⟩
def CAD_CTL.PRED_RESET : Field := ⟨0x800050, 1, 1, 0, .wo⟩

/-! CAD_PORT_DELAY: 14_cadence_and_budget.md R432, Table 14.13. -/
def CAD_PORT_DELAY.DELAY0 (n : Nat) : Field := ⟨0x800058 + 8 * n, 0, 16, 0xffff, .ro⟩
def CAD_PORT_DELAY.DELAY1 (n : Nat) : Field := ⟨0x800058 + 8 * n, 16, 16, 0xffff, .ro⟩
def CAD_PORT_DELAY.DELAY2 (n : Nat) : Field := ⟨0x800058 + 8 * n, 32, 16, 0xffff, .ro⟩
def CAD_PORT_DELAY.DELAY3 (n : Nat) : Field := ⟨0x800058 + 8 * n, 48, 16, 0xffff, .ro⟩

/-! CAD_CKPT: 14_cadence_and_budget.md R432, Table 14.13. -/
def CAD_CKPT.STEP : Field := ⟨0x800078, 0, 32, 0, .ro⟩
def CAD_CKPT.VALID : Field := ⟨0x800078, 32, 1, 0, .ro⟩

/-! CAD_TICK_GLITCH_CNT: 14_cadence_and_budget.md R432. -/
def CAD_TICK_GLITCH_CNT : Field := ⟨0x800080, 0, 48, 0, .rc⟩

/-! CAD_TICK_LOSS_CNT: 14_cadence_and_budget.md R432. -/
def CAD_TICK_LOSS_CNT : Field := ⟨0x800088, 0, 48, 0, .rc⟩

/-! CAD_TC_CNT: 14_cadence_and_budget.md R432. -/
def CAD_TC_CNT : Field := ⟨0x800090, 0, 48, 0, .rc⟩

/-! CAD_TC_STEP_CNT: 14_cadence_and_budget.md R432. -/
def CAD_TC_STEP_CNT : Field := ⟨0x800098, 0, 48, 0, .rc⟩

/-! CAD_TC_REJECT_CNT: 14_cadence_and_budget.md R432. -/
def CAD_TC_REJECT_CNT : Field := ⟨0x8000a0, 0, 48, 0, .rc⟩

/-! CAD_TC_MARGIN_CNT: 14_cadence_and_budget.md R432. -/
def CAD_TC_MARGIN_CNT : Field := ⟨0x8000a8, 0, 48, 0, .rc⟩

/-! CAD_SCHED_FIRE_CNT: 14_cadence_and_budget.md R432. -/
def CAD_SCHED_FIRE_CNT : Field := ⟨0x8000b0, 0, 48, 0, .rc⟩

/-! CAD_SCHED_LATE_CNT: 14_cadence_and_budget.md R432. -/
def CAD_SCHED_LATE_CNT : Field := ⟨0x8000b8, 0, 48, 0, .rc⟩

/-! CAD_VETO_CNT: 14_cadence_and_budget.md R432. -/
def CAD_VETO_CNT : Field := ⟨0x8000c0, 0, 48, 0, .rc⟩

/-! CAD_VETO_CYC_CNT: 14_cadence_and_budget.md R432. -/
def CAD_VETO_CYC_CNT : Field := ⟨0x8000c8, 0, 48, 0, .rc⟩

/-! CAD_VETO_EXPIRE_CNT: 14_cadence_and_budget.md R432. -/
def CAD_VETO_EXPIRE_CNT : Field := ⟨0x8000d0, 0, 48, 0, .rc⟩

/-! CAD_GOV_WAIT_CNT: 14_cadence_and_budget.md R432. -/
def CAD_GOV_WAIT_CNT : Field := ⟨0x8000d8, 0, 48, 0, .rc⟩

/-! CAD_SCHED0: 14_cadence_and_budget.md R432, Table 14.14. -/
def CAD_SCHED0.TICK (n : Nat) : Field := ⟨0x801000 + 16 * n, 0, 64, 0, .rw⟩

/-! CAD_SCHED1: 14_cadence_and_budget.md R432, Table 14.14. -/
def CAD_SCHED1.VALID (n : Nat) : Field := ⟨0x801008 + 16 * n, 0, 1, 0, .rw⟩
def CAD_SCHED1.KIND (n : Nat) : Field := ⟨0x801008 + 16 * n, 1, 2, 0, .rw⟩
def CAD_SCHED1.BUDGET_W (n : Nat) : Field := ⟨0x801008 + 16 * n, 8, 16, 0, .rw⟩
def CAD_SCHED1.ACLK (n : Nat) : Field := ⟨0x801008 + 16 * n, 24, 2, 0, .rw⟩
def CAD_SCHED1.SNAPSHOT (n : Nat) : Field := ⟨0x801008 + 16 * n, 26, 1, 0, .rw⟩

/-- The registers of the CAD block (Table 0.6), in order of offset. -/
def groupsCAD : List RegGroup :=
  [⟨0x800000, 1, 8, [CAD_STATUS.SYNCED, CAD_STATUS.HOLDOVER, CAD_STATUS.RATE_VALID, CAD_STATUS.MODE, CAD_STATUS.E_WARM, CAD_STATUS.T_WARM, CAD_STATUS.ACLK_CAP, CAD_STATUS.HOLDING]⟩,
   ⟨0x800008, 1, 8, [CAD_TICK.COUNT]⟩,
   ⟨0x800010, 1, 8, [CAD_TICK_SET.VALUE]⟩,
   ⟨0x800018, 1, 8, [CAD_TICK_RATE.PERIOD_PS, CAD_TICK_RATE.VALID]⟩,
   ⟨0x800020, 1, 8, [CAD_CFG.MODE, CAD_CFG.TC_PERIOD, CAD_CFG.VETO_MAX]⟩,
   ⟨0x800028, 1, 8, [CAD_BUDGET.BUDGET_W, CAD_BUDGET.CAP_MJ]⟩,
   ⟨0x800030, 1, 8, [CAD_THERM_CFG.T_LIMIT, CAD_THERM_CFG.HR_HIGH, CAD_THERM_CFG.HR_LOW]⟩,
   ⟨0x800038, 1, 8, [CAD_PRED.K, CAD_PRED.E_SAMPLES, CAD_PRED.T_SAMPLES, CAD_PRED.T_DIE, CAD_PRED.T_EST, CAD_PRED.P_IDLE]⟩,
   ⟨0x800040, 1, 8, [CAD_BUCKET.B]⟩,
   ⟨0x800048, 1, 8, [CAD_TC_LAST.TSEQ, CAD_TC_LAST.SRC, CAD_TC_LAST.HOPS, CAD_TC_LAST.VALID, CAD_TC_LAST.STEPPED]⟩,
   ⟨0x800050, 1, 8, [CAD_CTL.SEND_TC, CAD_CTL.PRED_RESET]⟩,
   ⟨0x800058, 4, 8, [CAD_PORT_DELAY.DELAY0 0, CAD_PORT_DELAY.DELAY1 0, CAD_PORT_DELAY.DELAY2 0, CAD_PORT_DELAY.DELAY3 0]⟩,
   ⟨0x800078, 1, 8, [CAD_CKPT.STEP, CAD_CKPT.VALID]⟩,
   ⟨0x800080, 1, 8, [CAD_TICK_GLITCH_CNT]⟩,
   ⟨0x800088, 1, 8, [CAD_TICK_LOSS_CNT]⟩,
   ⟨0x800090, 1, 8, [CAD_TC_CNT]⟩,
   ⟨0x800098, 1, 8, [CAD_TC_STEP_CNT]⟩,
   ⟨0x8000a0, 1, 8, [CAD_TC_REJECT_CNT]⟩,
   ⟨0x8000a8, 1, 8, [CAD_TC_MARGIN_CNT]⟩,
   ⟨0x8000b0, 1, 8, [CAD_SCHED_FIRE_CNT]⟩,
   ⟨0x8000b8, 1, 8, [CAD_SCHED_LATE_CNT]⟩,
   ⟨0x8000c0, 1, 8, [CAD_VETO_CNT]⟩,
   ⟨0x8000c8, 1, 8, [CAD_VETO_CYC_CNT]⟩,
   ⟨0x8000d0, 1, 8, [CAD_VETO_EXPIRE_CNT]⟩,
   ⟨0x8000d8, 1, 8, [CAD_GOV_WAIT_CNT]⟩,
   ⟨0x801000, 64, 16, [CAD_SCHED0.TICK 0]⟩,
   ⟨0x801008, 64, 16, [CAD_SCHED1.VALID 0, CAD_SCHED1.KIND 0, CAD_SCHED1.BUDGET_W 0, CAD_SCHED1.ACLK 0, CAD_SCHED1.SNAPSHOT 0]⟩]

/-! SEQ_CFG: 09_step_programs.md R281, Table 9.12. -/
def SEQ_CFG.STEP_LIMIT : Field := ⟨0x900000, 0, 16, 0, .rw⟩

/-! SEQ_LAST_ERR: 09_step_programs.md R281, Table 9.13. -/
def SEQ_LAST_ERR.SEQ : Field := ⟨0x900008, 0, 2, 0, .ro⟩
def SEQ_LAST_ERR.VALID : Field := ⟨0x900008, 2, 1, 0, .ro⟩
def SEQ_LAST_ERR.CODE : Field := ⟨0x900008, 3, 5, 0, .ro⟩
def SEQ_LAST_ERR.PC : Field := ⟨0x900008, 8, 12, 0, .ro⟩
def SEQ_LAST_ERR.OPCODE : Field := ⟨0x900008, 20, 8, 0, .ro⟩
def SEQ_LAST_ERR.TICK : Field := ⟨0x900008, 32, 32, 0, .ro⟩

/-! SEQ_STATE: 09_step_programs.md R281, Table 9.14. -/
def SEQ_STATE.PC (n : Nat) : Field := ⟨0x900010 + 8 * n, 0, 12, 0, .ro⟩
def SEQ_STATE.STATE (n : Nat) : Field := ⟨0x900010 + 8 * n, 12, 2, 0, .ro⟩
def SEQ_STATE.F (n : Nat) : Field := ⟨0x900010 + 8 * n, 14, 1, 0, .ro⟩
def SEQ_STATE.DEPTH (n : Nat) : Field := ⟨0x900010 + 8 * n, 15, 4, 0, .ro⟩
def SEQ_STATE.HOOKQ (n : Nat) : Field := ⟨0x900010 + 8 * n, 19, 5, 0, .ro⟩
def SEQ_STATE.ISSUED (n : Nat) : Field := ⟨0x900010 + 8 * n, 32, 32, 0, .ro⟩

/-! SEQ_OVERRUN_CNT: 09_step_programs.md R281. -/
def SEQ_OVERRUN_CNT : Field := ⟨0x900030, 0, 48, 0, .rc⟩

/-! SEQ_ISSUE_CNT: 09_step_programs.md R281. -/
def SEQ_ISSUE_CNT : Field := ⟨0x900038, 0, 48, 0, .rc⟩

/-! SEQ_INSN_ERR_CNT: 09_step_programs.md R281. -/
def SEQ_INSN_ERR_CNT : Field := ⟨0x900040, 0, 48, 0, .rc⟩

/-! SEQ_WAIT_TIMEOUT_CNT: 09_step_programs.md R281. -/
def SEQ_WAIT_TIMEOUT_CNT : Field := ⟨0x900048, 0, 48, 0, .rc⟩

/-! SEQ_LATE_WAIT_CNT: 09_step_programs.md R281. -/
def SEQ_LATE_WAIT_CNT : Field := ⟨0x900050, 0, 48, 0, .rc⟩

/-! SEQ_HOOK_CNT: 09_step_programs.md R281. -/
def SEQ_HOOK_CNT : Field := ⟨0x900058, 0, 48, 0, .rc⟩

/-! SEQ_HOOK_DROP_CNT: 09_step_programs.md R281. -/
def SEQ_HOOK_DROP_CNT : Field := ⟨0x900060, 0, 48, 0, .rc⟩

/-! SEQ_FORCED_HALT_CNT: 09_step_programs.md R281. -/
def SEQ_FORCED_HALT_CNT : Field := ⟨0x900068, 0, 48, 0, .rc⟩

/-! SEQ_DESC_DATA: 06_descriptors_and_layouts.md R198, Table 6.10. -/
def SEQ_DESC_DATA.WORD (n : Nat) : Field := ⟨0x908000 + 8 * n, 0, 64, 0, .rw⟩

/-! SEQ_DESC_CTL: 06_descriptors_and_layouts.md R198, Table 6.11. -/
def SEQ_DESC_CTL.NUMBER : Field := ⟨0x908040, 0, 12, 0, .wo⟩
def SEQ_DESC_CTL.COMMIT : Field := ⟨0x908040, 12, 1, 0, .wo⟩

/-! SEQ_DESC_RESULT: 06_descriptors_and_layouts.md R198, Table 6.12. -/
def SEQ_DESC_RESULT.CODE : Field := ⟨0x908048, 0, 4, 0, .ro⟩
def SEQ_DESC_RESULT.PENDING : Field := ⟨0x908048, 4, 1, 0, .ro⟩
def SEQ_DESC_RESULT.BUSY : Field := ⟨0x908048, 5, 1, 0, .ro⟩
def SEQ_DESC_RESULT.VALID : Field := ⟨0x908048, 6, 1, 0, .ro⟩
def SEQ_DESC_RESULT.NUMBER : Field := ⟨0x908048, 8, 12, 0, .ro⟩

/-! SEQ_DESC_REFUSED_CNT: 06_descriptors_and_layouts.md R198. -/
def SEQ_DESC_REFUSED_CNT : Field := ⟨0x908050, 0, 48, 0, .rc⟩

/-! SEQ_PROG: 09_step_programs.md R281. -/
def SEQ_PROG.WORD (n : Nat) : Field := ⟨0x910000 + 8 * n, 0, 64, 0, .ro⟩

/-! SEQ_CNT: 09_step_programs.md R281. -/
def SEQ_CNT.C (n : Nat) : Field := ⟨0x950000 + 8 * n, 0, 32, 0, .ro⟩

/-! SEQ_SCALAR: 09_step_programs.md R281. -/
def SEQ_SCALAR.S (n : Nat) : Field := ⟨0x950200 + 8 * n, 0, 32, 0, .ro⟩

/-- The registers of the SEQ block (Table 0.6), in order of offset. -/
def groupsSEQ : List RegGroup :=
  [⟨0x900000, 1, 8, [SEQ_CFG.STEP_LIMIT]⟩,
   ⟨0x900008, 1, 8, [SEQ_LAST_ERR.SEQ, SEQ_LAST_ERR.VALID, SEQ_LAST_ERR.CODE, SEQ_LAST_ERR.PC, SEQ_LAST_ERR.OPCODE, SEQ_LAST_ERR.TICK]⟩,
   ⟨0x900010, 4, 8, [SEQ_STATE.PC 0, SEQ_STATE.STATE 0, SEQ_STATE.F 0, SEQ_STATE.DEPTH 0, SEQ_STATE.HOOKQ 0, SEQ_STATE.ISSUED 0]⟩,
   ⟨0x900030, 1, 8, [SEQ_OVERRUN_CNT]⟩,
   ⟨0x900038, 1, 8, [SEQ_ISSUE_CNT]⟩,
   ⟨0x900040, 1, 8, [SEQ_INSN_ERR_CNT]⟩,
   ⟨0x900048, 1, 8, [SEQ_WAIT_TIMEOUT_CNT]⟩,
   ⟨0x900050, 1, 8, [SEQ_LATE_WAIT_CNT]⟩,
   ⟨0x900058, 1, 8, [SEQ_HOOK_CNT]⟩,
   ⟨0x900060, 1, 8, [SEQ_HOOK_DROP_CNT]⟩,
   ⟨0x900068, 1, 8, [SEQ_FORCED_HALT_CNT]⟩,
   ⟨0x908000, 8, 8, [SEQ_DESC_DATA.WORD 0]⟩,
   ⟨0x908040, 1, 8, [SEQ_DESC_CTL.NUMBER, SEQ_DESC_CTL.COMMIT]⟩,
   ⟨0x908048, 1, 8, [SEQ_DESC_RESULT.CODE, SEQ_DESC_RESULT.PENDING, SEQ_DESC_RESULT.BUSY, SEQ_DESC_RESULT.VALID, SEQ_DESC_RESULT.NUMBER]⟩,
   ⟨0x908050, 1, 8, [SEQ_DESC_REFUSED_CNT]⟩,
   ⟨0x910000, 32768, 8, [SEQ_PROG.WORD 0]⟩,
   ⟨0x950000, 64, 8, [SEQ_CNT.C 0]⟩,
   ⟨0x950200, 64, 8, [SEQ_SCALAR.S 0]⟩]

/-! FLT_STATUS: 15_faults_and_recovery.md R461, Table 15.9. -/
def FLT_STATUS.RESTARTING : Field := ⟨0xa00000, 0, 1, 0, .ro⟩
def FLT_STATUS.STANDDOWN : Field := ⟨0xa00000, 1, 1, 0, .ro⟩
def FLT_STATUS.ADOPTING : Field := ⟨0xa00000, 2, 1, 0, .ro⟩
def FLT_STATUS.WITHDRAWN : Field := ⟨0xa00000, 3, 1, 0, .ro⟩
def FLT_STATUS.YIELD_PENDING : Field := ⟨0xa00000, 4, 1, 0, .ro⟩
def FLT_STATUS.QUEUED : Field := ⟨0xa00000, 8, 9, 0, .ro⟩

/-! FLT_FLAGS: 15_faults_and_recovery.md R461, Table 15.10. -/
def FLT_FLAGS.LOCKUP : Field := ⟨0xa00008, 0, 1, 0, .w1c⟩
def FLT_FLAGS.LOST : Field := ⟨0xa00008, 1, 1, 0, .w1c⟩
def FLT_FLAGS.STOPPED : Field := ⟨0xa00008, 2, 1, 0, .w1c⟩
def FLT_FLAGS.STANDDOWN : Field := ⟨0xa00008, 3, 1, 0, .w1c⟩
def FLT_FLAGS.ADOPTED : Field := ⟨0xa00008, 4, 1, 0, .w1c⟩
def FLT_FLAGS.DATA_LOST : Field := ⟨0xa00008, 5, 1, 0, .w1c⟩
def FLT_FLAGS.PANEL_RETIRED : Field := ⟨0xa00008, 6, 1, 0, .w1c⟩
def FLT_FLAGS.RETIRE_FULL : Field := ⟨0xa00008, 7, 1, 0, .w1c⟩
def FLT_FLAGS.LOG_WRAPPED : Field := ⟨0xa00008, 8, 1, 0, .w1c⟩
def FLT_FLAGS.LOG_DROP : Field := ⟨0xa00008, 9, 1, 0, .w1c⟩
def FLT_FLAGS.QUEUE_DROP : Field := ⟨0xa00008, 10, 1, 0, .w1c⟩

/-! FLT_ATTN_EN: 15_faults_and_recovery.md R461, Table 15.10. -/
def FLT_ATTN_EN.LOCKUP : Field := ⟨0xa00010, 0, 1, 1, .rw⟩
def FLT_ATTN_EN.LOST : Field := ⟨0xa00010, 1, 1, 1, .rw⟩
def FLT_ATTN_EN.STOPPED : Field := ⟨0xa00010, 2, 1, 1, .rw⟩
def FLT_ATTN_EN.STANDDOWN : Field := ⟨0xa00010, 3, 1, 1, .rw⟩
def FLT_ATTN_EN.ADOPTED : Field := ⟨0xa00010, 4, 1, 1, .rw⟩
def FLT_ATTN_EN.DATA_LOST : Field := ⟨0xa00010, 5, 1, 1, .rw⟩
def FLT_ATTN_EN.PANEL_RETIRED : Field := ⟨0xa00010, 6, 1, 1, .rw⟩
def FLT_ATTN_EN.RETIRE_FULL : Field := ⟨0xa00010, 7, 1, 1, .rw⟩
def FLT_ATTN_EN.LOG_WRAPPED : Field := ⟨0xa00010, 8, 1, 0, .rw⟩
def FLT_ATTN_EN.LOG_DROP : Field := ⟨0xa00010, 9, 1, 1, .rw⟩
def FLT_ATTN_EN.QUEUE_DROP : Field := ⟨0xa00010, 10, 1, 1, .rw⟩

/-! FLT_CTL: 15_faults_and_recovery.md R461, Table 15.11. -/
def FLT_CTL.SNAPSHOT : Field := ⟨0xa00018, 0, 1, 0, .wo⟩
def FLT_CTL.YIELD : Field := ⟨0xa00018, 1, 1, 0, .wo⟩
def FLT_CTL.LOCKSTEP_INJ : Field := ⟨0xa00018, 2, 1, 0, .wo⟩

/-! FLT_WDOG: 15_faults_and_recovery.md R461, Table 15.11. -/
def FLT_WDOG.PERIOD : Field := ⟨0xa00020, 0, 16, 0x64, .rw⟩
def FLT_WDOG.KICK : Field := ⟨0xa00020, 16, 1, 0, .wo⟩

/-! FLT_LOG_HEAD: 15_faults_and_recovery.md R461, Table 15.12. -/
def FLT_LOG_HEAD.NEXT : Field := ⟨0xa00028, 0, 14, 0, .ro⟩
def FLT_LOG_HEAD.WRAPPED : Field := ⟨0xa00028, 14, 1, 0, .ro⟩
def FLT_LOG_HEAD.TOTAL : Field := ⟨0xa00028, 32, 32, 0, .ro⟩

/-! FLT_LAST_STOP: 15_faults_and_recovery.md R461, Table 15.12. -/
def FLT_LAST_STOP.CAUSE : Field := ⟨0xa00030, 0, 4, 0, .ro⟩
def FLT_LAST_STOP.VALID : Field := ⟨0xa00030, 4, 1, 0, .ro⟩
def FLT_LAST_STOP.STEP : Field := ⟨0xa00030, 8, 32, 0, .ro⟩

/-! FLT_ESC_CNT: 15_faults_and_recovery.md R461. -/
def FLT_ESC_CNT : Field := ⟨0xa00038, 0, 48, 0, .rc⟩

/-! FLT_LOCKUP_CNT: 15_faults_and_recovery.md R461. -/
def FLT_LOCKUP_CNT : Field := ⟨0xa00040, 0, 48, 0, .rc⟩

/-! FLT_WDOG_CNT: 15_faults_and_recovery.md R461. -/
def FLT_WDOG_CNT : Field := ⟨0xa00048, 0, 48, 0, .rc⟩

/-! FLT_STOP_CNT: 15_faults_and_recovery.md R461. -/
def FLT_STOP_CNT : Field := ⟨0xa00050, 0, 48, 0, .rc⟩

/-! FLT_ADOPT_CNT: 15_faults_and_recovery.md R461. -/
def FLT_ADOPT_CNT : Field := ⟨0xa00058, 0, 48, 0, .rc⟩

/-! FLT_STANDDOWN_CNT: 15_faults_and_recovery.md R461. -/
def FLT_STANDDOWN_CNT : Field := ⟨0xa00060, 0, 48, 0, .rc⟩

/-! FLT_QUEUE_DROP_CNT: 15_faults_and_recovery.md R461. -/
def FLT_QUEUE_DROP_CNT : Field := ⟨0xa00068, 0, 48, 0, .rc⟩

/-! FLT_LOG_DROP_CNT: 15_faults_and_recovery.md R461. -/
def FLT_LOG_DROP_CNT : Field := ⟨0xa00070, 0, 48, 0, .rc⟩

/-! FLT_LOG: 15_faults_and_recovery.md R461. -/
def FLT_LOG.WORD (n : Nat) : Field := ⟨0xa80000 + 8 * n, 0, 64, 0, .ro⟩

/-- The registers of the FLT block (Table 0.6), in order of offset. -/
def groupsFLT : List RegGroup :=
  [⟨0xa00000, 1, 8, [FLT_STATUS.RESTARTING, FLT_STATUS.STANDDOWN, FLT_STATUS.ADOPTING, FLT_STATUS.WITHDRAWN, FLT_STATUS.YIELD_PENDING, FLT_STATUS.QUEUED]⟩,
   ⟨0xa00008, 1, 8, [FLT_FLAGS.LOCKUP, FLT_FLAGS.LOST, FLT_FLAGS.STOPPED, FLT_FLAGS.STANDDOWN, FLT_FLAGS.ADOPTED, FLT_FLAGS.DATA_LOST, FLT_FLAGS.PANEL_RETIRED, FLT_FLAGS.RETIRE_FULL, FLT_FLAGS.LOG_WRAPPED, FLT_FLAGS.LOG_DROP, FLT_FLAGS.QUEUE_DROP]⟩,
   ⟨0xa00010, 1, 8, [FLT_ATTN_EN.LOCKUP, FLT_ATTN_EN.LOST, FLT_ATTN_EN.STOPPED, FLT_ATTN_EN.STANDDOWN, FLT_ATTN_EN.ADOPTED, FLT_ATTN_EN.DATA_LOST, FLT_ATTN_EN.PANEL_RETIRED, FLT_ATTN_EN.RETIRE_FULL, FLT_ATTN_EN.LOG_WRAPPED, FLT_ATTN_EN.LOG_DROP, FLT_ATTN_EN.QUEUE_DROP]⟩,
   ⟨0xa00018, 1, 8, [FLT_CTL.SNAPSHOT, FLT_CTL.YIELD, FLT_CTL.LOCKSTEP_INJ]⟩,
   ⟨0xa00020, 1, 8, [FLT_WDOG.PERIOD, FLT_WDOG.KICK]⟩,
   ⟨0xa00028, 1, 8, [FLT_LOG_HEAD.NEXT, FLT_LOG_HEAD.WRAPPED, FLT_LOG_HEAD.TOTAL]⟩,
   ⟨0xa00030, 1, 8, [FLT_LAST_STOP.CAUSE, FLT_LAST_STOP.VALID, FLT_LAST_STOP.STEP]⟩,
   ⟨0xa00038, 1, 8, [FLT_ESC_CNT]⟩,
   ⟨0xa00040, 1, 8, [FLT_LOCKUP_CNT]⟩,
   ⟨0xa00048, 1, 8, [FLT_WDOG_CNT]⟩,
   ⟨0xa00050, 1, 8, [FLT_STOP_CNT]⟩,
   ⟨0xa00058, 1, 8, [FLT_ADOPT_CNT]⟩,
   ⟨0xa00060, 1, 8, [FLT_STANDDOWN_CNT]⟩,
   ⟨0xa00068, 1, 8, [FLT_QUEUE_DROP_CNT]⟩,
   ⟨0xa00070, 1, 8, [FLT_LOG_DROP_CNT]⟩,
   ⟨0xa80000, 65536, 8, [FLT_LOG.WORD 0]⟩]

/-! OBS_STATUS: 19_observation.md R550, Table 19.9. -/
def OBS_STATUS.ARMED : Field := ⟨0xb00000, 0, 1, 0, .ro⟩
def OBS_STATUS.SAMPLING : Field := ⟨0xb00000, 1, 1, 0, .ro⟩
def OBS_STATUS.SHED : Field := ⟨0xb00000, 2, 1, 0, .ro⟩
def OBS_STATUS.FULL : Field := ⟨0xb00000, 3, 1, 0, .ro⟩
def OBS_STATUS.CODE : Field := ⟨0xb00000, 8, 4, 0, .ro⟩

/-! OBS_CTL: 19_observation.md R550, Table 19.9. -/
def OBS_CTL.RUN : Field := ⟨0xb00008, 0, 1, 0, .rw⟩

/-! OBS_CFG: 19_observation.md R550, Table 19.10. -/
def OBS_CFG.PERIOD : Field := ⟨0xb00010, 0, 16, 0x400, .rw⟩
def OBS_CFG.KIND : Field := ⟨0xb00010, 16, 1, 0, .rw⟩
def OBS_CFG.ALIGN : Field := ⟨0xb00010, 17, 1, 0, .rw⟩
def OBS_CFG.WRAP : Field := ⟨0xb00010, 18, 1, 1, .rw⟩

/-! OBS_RING: 19_observation.md R550, Table 19.10. -/
def OBS_RING.TAG : Field := ⟨0xb00018, 0, 12, 0, .rw⟩
def OBS_RING.BASE : Field := ⟨0xb00018, 12, 28, 0, .rw⟩
def OBS_RING.SIZE : Field := ⟨0xb00018, 40, 24, 0, .rw⟩

/-! OBS_RING_HEAD: 19_observation.md R550, Table 19.10. -/
def OBS_RING_HEAD.NEXT : Field := ⟨0xb00020, 0, 32, 0, .ro⟩
def OBS_RING_HEAD.WRAPPED : Field := ⟨0xb00020, 32, 1, 0, .ro⟩

/-! OBS_SAMPLE_CNT: 19_observation.md R550. -/
def OBS_SAMPLE_CNT : Field := ⟨0xb00028, 0, 48, 0, .rc⟩

/-! OBS_DROP_CNT: 19_observation.md R550. -/
def OBS_DROP_CNT : Field := ⟨0xb00030, 0, 48, 0, .rc⟩

/-! OBS_REFUSED_CNT: 19_observation.md R550. -/
def OBS_REFUSED_CNT : Field := ⟨0xb00038, 0, 48, 0, .rc⟩

/-! OBS_AON: 19_observation.md R550, Table 19.12. -/
def OBS_AON.COUNT (n : Nat) : Field := ⟨0xb01000 + 8 * n, 0, 64, 0, .ro⟩

/-- The registers of the OBS block (Table 0.6), in order of offset. -/
def groupsOBS : List RegGroup :=
  [⟨0xb00000, 1, 8, [OBS_STATUS.ARMED, OBS_STATUS.SAMPLING, OBS_STATUS.SHED, OBS_STATUS.FULL, OBS_STATUS.CODE]⟩,
   ⟨0xb00008, 1, 8, [OBS_CTL.RUN]⟩,
   ⟨0xb00010, 1, 8, [OBS_CFG.PERIOD, OBS_CFG.KIND, OBS_CFG.ALIGN, OBS_CFG.WRAP]⟩,
   ⟨0xb00018, 1, 8, [OBS_RING.TAG, OBS_RING.BASE, OBS_RING.SIZE]⟩,
   ⟨0xb00020, 1, 8, [OBS_RING_HEAD.NEXT, OBS_RING_HEAD.WRAPPED]⟩,
   ⟨0xb00028, 1, 8, [OBS_SAMPLE_CNT]⟩,
   ⟨0xb00030, 1, 8, [OBS_DROP_CNT]⟩,
   ⟨0xb00038, 1, 8, [OBS_REFUSED_CNT]⟩,
   ⟨0xb01000, 48, 8, [OBS_AON.COUNT 0]⟩]

/-! PWR_STATUS: 17_power_reset_and_pins.md R510, Table 17.14. -/
def PWR_STATUS.STAGE : Field := ⟨0xc00000, 0, 3, 0, .ro⟩
def PWR_STATUS.PFAIL : Field := ⟨0xc00000, 3, 1, 0, .ro⟩
def PWR_STATUS.THERM : Field := ⟨0xc00000, 4, 1, 0, .ro⟩
def PWR_STATUS.HOT : Field := ⟨0xc00000, 5, 1, 0, .ro⟩
def PWR_STATUS.OV : Field := ⟨0xc00000, 6, 1, 0, .ro⟩
def PWR_STATUS.OSC : Field := ⟨0xc00000, 7, 1, 0, .ro⟩
def PWR_STATUS.RELEASE : Field := ⟨0xc00000, 8, 3, 0, .ro⟩

/-! PWR_TELEM: 17_power_reset_and_pins.md R510, Table 17.14. -/
def PWR_TELEM.VIN : Field := ⟨0xc00008, 0, 16, 0, .ro⟩
def PWR_TELEM.IIN : Field := ⟨0xc00008, 16, 16, 0, .ro⟩
def PWR_TELEM.PIN : Field := ⟨0xc00008, 32, 16, 0, .ro⟩

/-! PWR_ENERGY: 17_power_reset_and_pins.md R510, Table 17.14. -/
def PWR_ENERGY.MJ : Field := ⟨0xc00010, 0, 64, 0, .ro⟩

/-! PWR_TEMP: 17_power_reset_and_pins.md R510, Table 17.14. -/
def PWR_TEMP.DIE : Field := ⟨0xc00018, 0, 8, 0, .ro⟩
def PWR_TEMP.STACK : Field := ⟨0xc00018, 8, 8, 0, .ro⟩
def PWR_TEMP.STAGE_T : Field := ⟨0xc00018, 16, 8, 0, .ro⟩

/-! PWR_OPT: 17_power_reset_and_pins.md R510, Table 17.15. -/
def PWR_OPT.ID : Field := ⟨0xc00020, 0, 16, 0xffff, .ro⟩
def PWR_OPT.I3C_ADDR : Field := ⟨0xc00020, 16, 7, 0x5f, .ro⟩
def PWR_OPT.DEFAULT_EN : Field := ⟨0xc00020, 23, 1, 1, .ro⟩
def PWR_OPT.FLASH_BOOT : Field := ⟨0xc00020, 24, 1, 1, .ro⟩
def PWR_OPT.DEBUG_EN : Field := ⟨0xc00020, 25, 1, 0, .ro⟩
def PWR_OPT.RECORD : Field := ⟨0xc00020, 26, 1, 0, .ro⟩
def PWR_OPT.PINS : Field := ⟨0xc00020, 27, 8, 0xff, .ro⟩

/-! PWR_RESET_CAUSE: 17_power_reset_and_pins.md R510, Table 17.15. -/
def PWR_RESET_CAUSE.CAUSE : Field := ⟨0xc00028, 1, 9, 1, .w1c⟩

/-! PWR_RESET_CTL: 17_power_reset_and_pins.md R510, Table 17.15. -/
def PWR_RESET_CTL.KEY : Field := ⟨0xc00030, 0, 8, 0, .wo⟩
def PWR_RESET_CTL.ENGINE : Field := ⟨0xc00030, 8, 1, 0, .wo⟩
def PWR_RESET_CTL.CHIP : Field := ⟨0xc00030, 9, 1, 0, .wo⟩

/-! PWR_ALERT_CFG: 17_power_reset_and_pins.md R510, Table 17.16. -/
def PWR_ALERT_CFG.VIN_LOW : Field := ⟨0xc00038, 0, 16, 0xc738, .rw⟩
def PWR_ALERT_CFG.PIN_HIGH : Field := ⟨0xc00038, 16, 16, 0x546, .rw⟩
def PWR_ALERT_CFG.TEMP_HIGH : Field := ⟨0xc00038, 32, 8, 0x64, .rw⟩
def PWR_ALERT_CFG.ENABLE : Field := ⟨0xc00038, 40, 1, 1, .rw⟩

/-! PWR_ALERT_FLAGS: 17_power_reset_and_pins.md R510, Table 17.16. -/
def PWR_ALERT_FLAGS.VIN_LOW : Field := ⟨0xc00040, 0, 1, 0, .w1c⟩
def PWR_ALERT_FLAGS.PIN_HIGH : Field := ⟨0xc00040, 1, 1, 0, .w1c⟩
def PWR_ALERT_FLAGS.TEMP_HIGH : Field := ⟨0xc00040, 2, 1, 0, .w1c⟩
def PWR_ALERT_FLAGS.STAGE : Field := ⟨0xc00040, 3, 1, 0, .w1c⟩
def PWR_ALERT_FLAGS.RESET : Field := ⟨0xc00040, 4, 1, 1, .w1c⟩

/-! PWR_LAST_TENANT: 17_power_reset_and_pins.md R510, Table 17.16. -/
def PWR_LAST_TENANT.TENANT : Field := ⟨0xc00048, 0, 64, 0, .ro⟩

/-! PWR_BACKUP: 17_power_reset_and_pins.md R510, Table 17.16. -/
def PWR_BACKUP.DATA (n : Nat) : Field := ⟨0xc00050 + 8 * n, 0, 64, 0, .rw⟩

/-! PWR_STAGE_CNT: 17_power_reset_and_pins.md R510, Table 17.18. -/
def PWR_STAGE_CNT.STAGE1 : Field := ⟨0xc00090, 0, 16, 0, .rc⟩
def PWR_STAGE_CNT.STAGE2 : Field := ⟨0xc00090, 16, 16, 0, .rc⟩
def PWR_STAGE_CNT.STAGE3 : Field := ⟨0xc00090, 32, 16, 0, .rc⟩
def PWR_STAGE_CNT.STAGE4 : Field := ⟨0xc00090, 48, 16, 0, .rc⟩

/-! PWR_BOR_CNT: 17_power_reset_and_pins.md R510. -/
def PWR_BOR_CNT : Field := ⟨0xc00098, 0, 48, 0, .rc⟩

/-! PWR_OV_CNT: 17_power_reset_and_pins.md R510. -/
def PWR_OV_CNT : Field := ⟨0xc000a0, 0, 48, 0, .rc⟩

/-! PWR_PFAIL_CNT: 17_power_reset_and_pins.md R510. -/
def PWR_PFAIL_CNT : Field := ⟨0xc000a8, 0, 48, 0, .rc⟩

/-! PWR_THERM_CNT: 17_power_reset_and_pins.md R510. -/
def PWR_THERM_CNT : Field := ⟨0xc000b0, 0, 48, 0, .rc⟩

/-! PWR_CLKFAIL_CNT: 17_power_reset_and_pins.md R510. -/
def PWR_CLKFAIL_CNT : Field := ⟨0xc000b8, 0, 48, 0, .rc⟩

/-! PWR_RETAINED: 17_power_reset_and_pins.md R510. -/
def PWR_RETAINED.WORD (n : Nat) : Field := ⟨0xc10000 + 8 * n, 0, 64, 0, .rw⟩

/-- The registers of the PWR block (Table 0.6), in order of offset. -/
def groupsPWR : List RegGroup :=
  [⟨0xc00000, 1, 8, [PWR_STATUS.STAGE, PWR_STATUS.PFAIL, PWR_STATUS.THERM, PWR_STATUS.HOT, PWR_STATUS.OV, PWR_STATUS.OSC, PWR_STATUS.RELEASE]⟩,
   ⟨0xc00008, 1, 8, [PWR_TELEM.VIN, PWR_TELEM.IIN, PWR_TELEM.PIN]⟩,
   ⟨0xc00010, 1, 8, [PWR_ENERGY.MJ]⟩,
   ⟨0xc00018, 1, 8, [PWR_TEMP.DIE, PWR_TEMP.STACK, PWR_TEMP.STAGE_T]⟩,
   ⟨0xc00020, 1, 8, [PWR_OPT.ID, PWR_OPT.I3C_ADDR, PWR_OPT.DEFAULT_EN, PWR_OPT.FLASH_BOOT, PWR_OPT.DEBUG_EN, PWR_OPT.RECORD, PWR_OPT.PINS]⟩,
   ⟨0xc00028, 1, 8, [PWR_RESET_CAUSE.CAUSE]⟩,
   ⟨0xc00030, 1, 8, [PWR_RESET_CTL.KEY, PWR_RESET_CTL.ENGINE, PWR_RESET_CTL.CHIP]⟩,
   ⟨0xc00038, 1, 8, [PWR_ALERT_CFG.VIN_LOW, PWR_ALERT_CFG.PIN_HIGH, PWR_ALERT_CFG.TEMP_HIGH, PWR_ALERT_CFG.ENABLE]⟩,
   ⟨0xc00040, 1, 8, [PWR_ALERT_FLAGS.VIN_LOW, PWR_ALERT_FLAGS.PIN_HIGH, PWR_ALERT_FLAGS.TEMP_HIGH, PWR_ALERT_FLAGS.STAGE, PWR_ALERT_FLAGS.RESET]⟩,
   ⟨0xc00048, 1, 8, [PWR_LAST_TENANT.TENANT]⟩,
   ⟨0xc00050, 8, 8, [PWR_BACKUP.DATA 0]⟩,
   ⟨0xc00090, 1, 8, [PWR_STAGE_CNT.STAGE1, PWR_STAGE_CNT.STAGE2, PWR_STAGE_CNT.STAGE3, PWR_STAGE_CNT.STAGE4]⟩,
   ⟨0xc00098, 1, 8, [PWR_BOR_CNT]⟩,
   ⟨0xc000a0, 1, 8, [PWR_OV_CNT]⟩,
   ⟨0xc000a8, 1, 8, [PWR_PFAIL_CNT]⟩,
   ⟨0xc000b0, 1, 8, [PWR_THERM_CNT]⟩,
   ⟨0xc000b8, 1, 8, [PWR_CLKFAIL_CNT]⟩,
   ⟨0xc10000, 8192, 8, [PWR_RETAINED.WORD 0]⟩]

/-! HST_STATUS: 18_host_control_port.md R533, Table 18.8. -/
def HST_STATUS.STATE : Field := ⟨0xd00000, 0, 4, 0, .ro⟩
def HST_STATUS.PROGRESS : Field := ⟨0xd00000, 4, 8, 0, .ro⟩
def HST_STATUS.ATTN : Field := ⟨0xd00000, 12, 12, 0, .ro⟩
def HST_STATUS.STEPV : Field := ⟨0xd00000, 24, 1, 0, .ro⟩
def HST_STATUS.STEP : Field := ⟨0xd00000, 25, 39, 0, .ro⟩

/-! HST_ATTN: 18_host_control_port.md R533, Table 18.9. -/
def HST_ATTN.ATTN : Field := ⟨0xd00008, 0, 12, 0, .w1c⟩

/-! HST_ATTN_EN: 18_host_control_port.md R533, Table 18.9. -/
def HST_ATTN_EN.EN : Field := ⟨0xd00010, 0, 12, 0, .rw⟩

/-! HST_CTL: 18_host_control_port.md R533, Table 18.9. -/
def HST_CTL.KEY : Field := ⟨0xd00018, 0, 8, 0, .wo⟩
def HST_CTL.KILL : Field := ⟨0xd00018, 8, 1, 0, .wo⟩

/-! HST_MIRROR: 18_host_control_port.md R533, Table 18.10. -/
def HST_MIRROR.ENABLE : Field := ⟨0xd00020, 0, 1, 0, .rw⟩
def HST_MIRROR.ADDR : Field := ⟨0xd00020, 3, 61, 0, .rw⟩

/-! HST_CFG: 18_host_control_port.md R533, Table 18.10. -/
def HST_CFG.HOLDOFF : Field := ⟨0xd00028, 0, 16, 0x64, .rw⟩
def HST_CFG.MIRROR_GAP : Field := ⟨0xd00028, 16, 10, 0x64, .rw⟩

/-! HST_LINK: 18_host_control_port.md R533, Table 18.11. -/
def HST_LINK.RATE : Field := ⟨0xd00030, 0, 3, 0, .ro⟩
def HST_LINK.WIDTH : Field := ⟨0xd00030, 3, 3, 0, .ro⟩
def HST_LINK.FLIT : Field := ⟨0xd00030, 6, 1, 0, .ro⟩
def HST_LINK.PERST : Field := ⟨0xd00030, 7, 1, 0, .ro⟩
def HST_LINK.D3HOT : Field := ⟨0xd00030, 8, 1, 0, .ro⟩
def HST_LINK.BME : Field := ⟨0xd00030, 9, 1, 0, .ro⟩

/-! HST_I3C: 18_host_control_port.md R533, Table 18.11. -/
def HST_I3C.DADDR : Field := ⟨0xd00038, 0, 7, 0, .ro⟩
def HST_I3C.DVALID : Field := ⟨0xd00038, 7, 1, 0, .ro⟩
def HST_I3C.SADDR : Field := ⟨0xd00038, 8, 7, 0x5f, .ro⟩
def HST_I3C.IBI_EN : Field := ⟨0xd00038, 15, 1, 0, .ro⟩

/-! HST_MSG_CNT: 18_host_control_port.md R533. -/
def HST_MSG_CNT : Field := ⟨0xd00040, 0, 48, 0, .rc⟩

/-! HST_MIRROR_CNT: 18_host_control_port.md R533. -/
def HST_MIRROR_CNT : Field := ⟨0xd00048, 0, 48, 0, .rc⟩

/-! HST_BAR_ERR_CNT: 18_host_control_port.md R533. -/
def HST_BAR_ERR_CNT : Field := ⟨0xd00050, 0, 48, 0, .rc⟩

/-! HST_WIN_ERR_CNT: 18_host_control_port.md R533. -/
def HST_WIN_ERR_CNT : Field := ⟨0xd00058, 0, 48, 0, .rc⟩

/-! HST_KILL_CNT: 18_host_control_port.md R533. -/
def HST_KILL_CNT : Field := ⟨0xd00060, 0, 48, 0, .rc⟩

/-! HST_PERST_CNT: 18_host_control_port.md R533. -/
def HST_PERST_CNT : Field := ⟨0xd00068, 0, 48, 0, .rc⟩

/-! HST_LINKDOWN_CNT: 18_host_control_port.md R533. -/
def HST_LINKDOWN_CNT : Field := ⟨0xd00070, 0, 48, 0, .rc⟩

/-! HST_I3C_ERR_CNT: 18_host_control_port.md R533. -/
def HST_I3C_ERR_CNT : Field := ⟨0xd00078, 0, 48, 0, .rc⟩

/-! HST_WIN: 18_host_control_port.md R533, Table 18.12. -/
def HST_WIN.TAG (n : Nat) : Field := ⟨0xd01000 + 8 * n, 0, 12, 0, .rw⟩
def HST_WIN.WR (n : Nat) : Field := ⟨0xd01000 + 8 * n, 12, 1, 0, .rw⟩
def HST_WIN.VALID (n : Nat) : Field := ⟨0xd01000 + 8 * n, 13, 1, 0, .rw⟩
def HST_WIN.BASE (n : Nat) : Field := ⟨0xd01000 + 8 * n, 16, 28, 0, .rw⟩

/-- The registers of the HST block (Table 0.6), in order of offset. -/
def groupsHST : List RegGroup :=
  [⟨0xd00000, 1, 8, [HST_STATUS.STATE, HST_STATUS.PROGRESS, HST_STATUS.ATTN, HST_STATUS.STEPV, HST_STATUS.STEP]⟩,
   ⟨0xd00008, 1, 8, [HST_ATTN.ATTN]⟩,
   ⟨0xd00010, 1, 8, [HST_ATTN_EN.EN]⟩,
   ⟨0xd00018, 1, 8, [HST_CTL.KEY, HST_CTL.KILL]⟩,
   ⟨0xd00020, 1, 8, [HST_MIRROR.ENABLE, HST_MIRROR.ADDR]⟩,
   ⟨0xd00028, 1, 8, [HST_CFG.HOLDOFF, HST_CFG.MIRROR_GAP]⟩,
   ⟨0xd00030, 1, 8, [HST_LINK.RATE, HST_LINK.WIDTH, HST_LINK.FLIT, HST_LINK.PERST, HST_LINK.D3HOT, HST_LINK.BME]⟩,
   ⟨0xd00038, 1, 8, [HST_I3C.DADDR, HST_I3C.DVALID, HST_I3C.SADDR, HST_I3C.IBI_EN]⟩,
   ⟨0xd00040, 1, 8, [HST_MSG_CNT]⟩,
   ⟨0xd00048, 1, 8, [HST_MIRROR_CNT]⟩,
   ⟨0xd00050, 1, 8, [HST_BAR_ERR_CNT]⟩,
   ⟨0xd00058, 1, 8, [HST_WIN_ERR_CNT]⟩,
   ⟨0xd00060, 1, 8, [HST_KILL_CNT]⟩,
   ⟨0xd00068, 1, 8, [HST_PERST_CNT]⟩,
   ⟨0xd00070, 1, 8, [HST_LINKDOWN_CNT]⟩,
   ⟨0xd00078, 1, 8, [HST_I3C_ERR_CNT]⟩,
   ⟨0xd01008, 63, 8, [HST_WIN.TAG 1, HST_WIN.WR 1, HST_WIN.VALID 1, HST_WIN.BASE 1]⟩]

/-- Every register group of the control space. -/
def groups : List RegGroup :=
  groupsCTL ++ groupsDNS ++ groupsDRV ++ groupsTAG ++ groupsMEM ++ groupsLNK ++ groupsRED ++ groupsING ++ groupsCAD ++ groupsSEQ ++ groupsFLT ++ groupsOBS ++ groupsPWR ++ groupsHST

end Sys2Proof.Machine.Reg
end

