-- ==== Sys2Proof/Machine/State.lean ====
section
/-!
DEFINITION. Machine/State.lean: everything the spec gives the module, as plain data, and the state after reset.
Registers are in the register file (Machine/Regs.lean); what a register shows of an engine is computed from the engine's
own state, which has one home here. Tables (the tag table, program stores, scalar registers, counters, the event log,
retained memory, the window table, the schedule, the retirement table) are in the register file too, word by word.
-/

namespace Sys2Proof.Machine

/-- The state of a slot (R205). -/
inductive SlotSt where
  | empty | filling | full | draining
  deriving DecidableEq, Repr

/-- A slot of a tag: its state and its two counts (R205). -/
structure Slot where
  st : SlotSt
  closes : Nat
  drains : Nat
  deriving DecidableEq, Repr

/-- A resident line of the memory-side cache (R235 to R240): its number, whether it is KEEP, dirty or prefetched and
not yet used, and the bytes it holds that the stack does not, by their place in the line. -/
structure Line where
  line : Nat
  keep : Bool
  dirty : Bool
  pf : Bool
  bytes : FMap Byte
  deriving DecidableEq, Repr

/-- An entry of a prefetcher's stream table (R244, R245): the channel, the last line of its window's base, and the
stride once it is engaged. -/
structure Stream where
  chan : Nat
  last : Nat
  stride : Option Int
  deriving DecidableEq, Repr

/-- A request for a line fill in flight (R238, R241, R246): its line, whether a prefetch made it, the hint it acts under, whether
a LAST read has made the line not to be kept, and the bytes it reads or writes (place in the line, length, data). The requests that one fetch
serves share its wave; those ordered after a LAST read of the line wait for a later one. -/
structure Fill where
  line : Nat
  wave : Nat
  prefetch : Bool
  hint : Hint
  discarded : Bool
  off : Nat
  len : Nat
  write : Option (List Byte)
  deriving DecidableEq, Repr

/-- A request that waits for room in the queue of its stack's controller (R230): its channel, hint, stack address and what it asks. -/
structure WaitReq where
  chan : Nat
  hint : Hint
  addr : Nat
  ask : MemAsk
  deriving DecidableEq, Repr

/-- The memory region (08): the cache sets, most recently used line first; the stream tables of the two halves, most
recently used first; prefetches requested and not sent (half, channel, line); fills in flight, oldest first; requests that wait for
a controller, oldest first; what the last stack read delivered to its requester; requests kept for the next step boundary; the
dirty lines that a flush has still to write back. -/
structure MemState where
  cache : FMap (List Line)
  streams0 : List Stream
  streams1 : List Stream
  pfq : List (Nat × Nat × Nat)
  fills : List Fill
  waiting : List WaitReq
  reply : List Byte
  flushReq : Bool
  unkeepReq : Bool
  flushing : List Nat
  deriving DecidableEq, Repr

/-- An event as it is offered to the log (Table 15.5): the words of the entry it becomes. -/
structure LogEvent where
  region : Nat
  event : Nat
  level : Nat
  action : Nat
  block : Nat := 0
  cell : Nat := 0xFFFF
  modul : Nat := 0xFFFF
  detail : Nat := 0
  injected : Bool := false
  tick : Nat := 0
  cycle : Nat := 0
  seq : Nat := 0
  deriving DecidableEq, Repr

/-- One access to a slot that an operation makes: the tag, the slot and whether it writes (R206, R207). -/
structure SlotUse where
  tag : Nat
  slot : Nat
  write : Bool
  deriving DecidableEq, Repr

/-- The synchronised accesses of an operation (R207, R208, R210, R213 to R217): the unit that makes them; those not yet
admitted (the first of them is the one that stalls); those admitted, those that timed out, and those of a unit that the tag
does not name, whose close or drain is still to come; those whose close or drain has been made; the slots on which the operation has timed
out; whether a read timed out, after which every record it writes is STALE; and the stall limit in ACLK cycles of the access that stalls. -/
structure Acq where
  unit : Nat
  needs : List SlotUse
  held : List SlotUse
  late : List SlotUse
  foreign : List SlotUse
  done : List SlotUse
  spared : List (Nat × Nat)
  stale : Bool
  limit : Nat
  deriving DecidableEq, Repr

/-- A recovery hook invoked and not yet taken (R277): its entry address, the tag and the value for C13. -/
structure HookReq where
  entry : Nat
  tag : Nat
  page : Nat
  deriving DecidableEq, Repr

/-- Why the instruction at a sequencer's program counter has not issued (Table 9.2). -/
inductive Stall where
  | none
  | wait          -- a WAIT not yet satisfied
  | other         -- another instruction that Table 9.2 makes wait
  deriving DecidableEq, Repr

/-- A sequencer (R258). Its counters, its program store and the scalar registers are in the register file. `limit` is the timeout of the slot wait
in which it stalls, in ACLK cycles (R213, R267). `frames` are the hooks in progress: the call depth each began at, whether the sequencer was halted, and
the stall that it left, with its limit. `startDue` says that a
step has started whose start waits here for hooks to finish. -/
structure SeqState where
  pc : Nat
  running : Bool
  stall : Stall
  limit : Nat
  f : Bool
  calls : List Nat
  hooks : List HookReq
  frames : List (Nat × Bool × Stall × Nat)
  startDue : Bool
  issued : Nat
  deriving DecidableEq, Repr

/-- One pass of a dense operation (R79): its number, its first output column and how many columns it covers, its
reduction chunk, and the panels it is mapped onto, in order. -/
structure Pass where
  no : Nat
  col0 : Nat
  ncols : Nat
  chunk : Nat
  panels : List Nat
  deriving DecidableEq, Repr

/-- The weights a panel holds for one pass (R75 to R82, R108 to R110): its output columns, the reduction chunk, the weight slots of a
column, and for each column the slots that are not beyond K, in order: the index of the activation that a slot selects and its weight. It is odd
when metadata that breaks its rules, or a pattern that is not transposable, gave some of them (R111, R113). -/
structure Load where
  pass : Nat
  col0 : Nat
  chunk : Nat
  slots : Nat
  odd : Bool
  cols : List (List (Nat × Val))
  deriving DecidableEq, Repr

/-- A check tile not yet accepted (R97 to R102): its panel, which of the operation's streams of rows it belongs to, its weights, the streamed rows, its attempt, the failures still
to inject, whether it waits for its rows to be streamed again, and its outputs once it has passed. -/
structure CheckTile where
  panel : Nat
  stream : Nat
  load : Load
  row0 : Nat
  rows : List (List Val)
  attempt : Nat
  inject : Nat
  again : Bool
  outs : Option (List (List Val))
  deriving DecidableEq, Repr

/-- A deferred pass (R102): the pass it makes good, its columns (the first, and the one after the last) and its chunk, and the first rows of the check
tiles that it owes. -/
structure Deferred where
  pass : Nat
  col0 : Nat
  col1 : Nat
  chunk : Nat
  rows : List Nat
  deriving DecidableEq, Repr

/-- A dense operation (R271): its number, its descriptors, hints, accumulator tag, conversion and tied identifier; its sizes and the
reduction depth of a pass; the passes not yet streamed and how many have been, deferred ones included, the weights loaded for them by panel, the deferred
passes, the contributions accepted (tile row, tile column, chunk), the accesses
of its three operands and the panel whose outputs the stalled one of Y holds, its typical energy, and whether what it writes overlaps what it reads. -/
structure DenseOp where
  no : Nat
  w : Nat
  x : Nat
  y : Nat
  hintW : Nat
  hintX : Nat
  hintY : Nat
  sparse : Nat
  acc : Option Nat
  cvt : Nat
  tied : Option Nat
  tiedFirst : Bool
  m : Nat
  k : Nat
  n : Nat
  depth : Nat
  plan : List Pass
  streams : Nat
  loads : FMap (List Load)
  deferred : List Deferred
  accepted : List (Nat × Nat × Nat)
  written : List (Nat × Nat)
  acqW : Acq
  acqX : Acq
  acqY : Acq
  holder : Option Nat
  energy : Nat
  meets : Bool
  deriving DecidableEq, Repr

/-- The dense region (03): the half-issued operation (LOADW's descriptor, sparsity and hint; STREAM's descriptor, hint and
accumulator tag), whether it is void (R272), the running operation, weights preloaded for the half-issued one with the
accesses that made them (R84), check tiles in the engine, the armed injection, the passing runs of SUSPECT panels, panel
control kept for the next step boundary, the panels that hardware has retired since the last one, the running total of operations, and the tied regions contributed to in this
step (R94). -/
structure DenseState where
  pendW : Option (Nat × Nat × Nat)
  pendX : Option (Nat × Nat × Option Nat)
  void : Bool
  op : Option DenseOp
  pre : Option DenseOp
  tiles : List CheckTile
  inject : Option (Nat × Nat)
  passRun : FMap Nat
  retireReq : Nat
  reviveReq : Nat
  retiredNow : Nat
  opTotal : Nat
  tiedDone : List Nat
  deriving DecidableEq, Repr

/-- The expert's receive area as a routing operation uses it (Table 5.4, R165). -/
structure Expert where
  modul : Nat
  tag : Nat
  first : Nat
  quota : Nat
  valid : Bool
  deriving DecidableEq, Repr

/-- What an operation has fetched of an operand: the values of whole tiles, by number, and the bytes of sectors (R124), by their place in the tag. -/
structure Fetched where
  tiles : FMap (List Val)
  sectors : List (Int × List Byte)
  deriving DecidableEq, Repr

def Fetched.none : Fetched := { tiles := [], sectors := [] }

/-- A drover operation (R118, R119, R273): its number, its function code and the fields of its instruction, the descriptor numbers
effective; its scalars and DRV_CFG as they were at its start; its accesses and its typical energy; how many parts of its walk it has done, and
what it carries from part to part: the indices read (R121), the expert table (R156), the rows used of each quota (R157), and what it has fetched. -/
structure DrvOp where
  no : Nat
  func : Nat
  a : Nat
  b : Nat
  c : Nat
  d : Nat
  cvt : Nat
  hints : Nat
  s1 : Nat
  s2 : Nat
  mode : Nat
  init : Bool
  rowout : Bool
  subop : Nat
  k : Nat
  gate : Nat
  scale : Bool
  scalars : List Nat
  cfg : Nat
  acq : Acq
  energy : Nat
  part : Nat
  idx : List (Option Nat)
  experts : List Expert
  used : FMap Nat
  got : Fetched
  deriving DecidableEq, Repr

/-- A packet (R295, Table 10.5): the two words of its header, and its payload. -/
structure Packet where
  hdr0 : Nat
  hdr1 : Nat
  data : List Byte
  deriving DecidableEq, Repr

/-- What a packet that this module has sent belongs to, where something waits for its acceptance: a transfer (R314), the routed rows for a module
(R159), or a sample of the staging tag, by its slot (R398). -/
inductive SentFor where
  | transfer (id : Nat)
  | rows (dest : Nat)
  | sample (slot : Nat)
  deriving DecidableEq, Repr

/-- What happens when every packet of such a kind has been accepted: a close message is sent to a module for a tag (R159), or a unit drains a slot of a
tag (R398). -/
inductive AfterSent where
  | close (dest tag : Nat)
  | drain (unit tag slot : Nat)
  deriving DecidableEq, Repr

/-- A packet in a port's transmit queue: its channel and buffer class, how many bytes of it have been sent, the SEQ of the
last flit that carries part of it, and what it belongs to, if anything waits for it. It stays until its partner has acknowledged
all of it (R307). -/
structure TxPkt where
  vc : Nat
  cls : Nat
  pkt : Packet
  sent : Nat
  lastSeq : Nat
  xfer : Option SentFor
  deriving DecidableEq, Repr

/-- A packet received on a port and not yet acted on. -/
structure RxPkt where
  vc : Nat
  cls : Nat
  pkt : Packet
  deriving DecidableEq, Repr

/-- A fabric port (R283 to R294). Its STATE, width, hold and neighbour are in LNK_P_STATUS. Keys of the credit and stream
tables are 2 times the channel plus the buffer class: `credit` the credits it may spend, `owed` those it has to give
back, `stored` the bytes of payload in its receive buffers, `partials` the bytes of a packet still arriving. `opened` says that a
heartbeat has passed every check since the port trained, `shed` that it runs at ×4 for supply stage 3, its own or its partner's
(`asked`), `grace` counts the heartbeats tolerated in a row. `retrainDue` says why a quick retrain is due (0: none is; 1: the replay
limit; 11: a credit violation; 12: a write of LNK_PORT_CTL.RETRAIN). `wire` is the last flit sent; `idleCr` the credits it carried, by key
and number, if it was an idle one (R291). -/
structure PortState where
  txq : List TxPkt
  replay : List (Nat × List Byte)
  replayAt : Option Nat
  replays : Nat
  nextSeq : Nat
  expect : Nat
  nakOn : Bool
  nakDue : Bool
  credit : FMap Nat
  owed : FMap Nat
  stored : FMap Nat
  partials : FMap (List Byte)
  inbox : List RxPkt
  turnVc : Nat
  turnLeft : Nat
  opened : Bool
  shed : Bool
  asked : Bool
  grace : Nat
  retrainDue : Nat
  wire : List Byte
  idleCr : Nat × Nat
  deriving DecidableEq, Repr

def PortState.reset : PortState :=
  { txq := [], replay := [], replayAt := none, replays := 0, nextSeq := 0, expect := 0, nakOn := false, nakDue := false
    credit := [], owed := [], stored := [], partials := [], inbox := [], turnVc := 2, turnLeft := 0, opened := false
    shed := false, asked := false, grace := 0, retrainDue := 0, wire := [], idleCr := (0, 0) }

/-- The topology in force (R298, R301, Tables 16.4 and 16.5): the mode, the axis sizes, the axis masks of the four parallel
kinds and of the four reduction groups, the bellwether position, and the identifier at each position. -/
structure Topology where
  mode : Nat
  sizes : List Nat
  kinds : Nat
  groups : Nat
  bellwether : Nat
  ids : List Nat
  deriving DecidableEq, Repr

/-- An epoch change (R321, Table 10.7). -/
structure EpochChange where
  epoch : Nat
  base : Nat
  digest : Nat
  amend : List (Nat × Nat)
  deriving DecidableEq, Repr

/-- A census in which this module takes part (R322): the position that runs it, the children not yet heard from and what has been gathered. -/
structure Census where
  number : Nat
  root : Nat
  epoch : Nat
  digest : Nat
  waiting : List Nat
  reached : Nat
  agree : Nat
  firstBad : Nat
  deriving DecidableEq, Repr

/-- A transfer at the owner of a window (R311 to R313): source, transfer number, window, bytes accepted, whether part was
refused, whether the refusal was logged, and the slots written. -/
structure WinOwn where
  src : Nat
  xfer : Nat
  window : Nat
  accepted : Nat
  refused : Bool
  slots : List Nat
  deriving DecidableEq, Repr

/-- A neighbour send that is arriving (R314): its number among the operations, the tiles received, the accesses to the slots they are written
into, and whether its packets ask for a close. -/
structure NbrRecv where
  no : Nat
  tiles : List Nat
  acq : Acq
  close : Bool
  deriving DecidableEq, Repr

/-- The link region (10). `waitq` holds packets whose direction has no usable port (R304). `lost` lists the directions
whose neighbour is lost (R441), `lostPos` the positions whose loss this module has been told of or has told of in this
epoch (R442). `adj` is the deadline adjustment of each reduction group in force, `adjNext` those to come (group, value,
first step). `xferNo` numbers the transfers and `censusNo` the
censuses; `adoptEpoch` is the epoch of an adoption that this ringmaster has sent, `adopting` the replica direction and the
base of this module's own adoption, `adoptTry` how many fetches it has begun and `unfetched` the bytes of those that have failed (R448 to R451). `nbrs` holds, for each LINK descriptor, the neighbour send that is arriving (R314), and
`after` what waits for packets to be accepted. -/
structure LinkState where
  ports : Vector PortState 16
  topo : Option Topology
  ownId : Nat
  mseq : Nat
  seen : List (Nat × Nat)
  waitq : List (Nat × TxPkt)
  lost : List Nat
  lostPos : List Nat
  census : Option Census
  change : Option EpochChange
  applied : Option (Nat × Nat)
  adj : List Int
  adjNext : List (Nat × Int × Nat)
  wins : List WinOwn
  nbrs : FMap NbrRecv
  standing : Bool
  xferNo : Nat
  censusNo : Nat
  adoptEpoch : Option Nat
  adopting : Option (Nat × Nat)
  adoptTry : Nat
  unfetched : Nat
  after : List (SentFor × AfterSent)
  deriving DecidableEq, Repr

def LinkState.reset : LinkState :=
  { ports := Vector.replicate 16 .reset, topo := none, ownId := 0xFFFF, mseq := 0, seen := [], waitq := [], lost := []
    lostPos := [], census := none, change := none, applied := none, adj := [0, 0, 0, 0], adjNext := [], wins := []
    nbrs := [], standing := false, xferNo := 0, censusNo := 0, adoptEpoch := none
    adopting := none, adoptTry := 0, unfetched := 0, after := [] }

/-- A launch that the governor holds (R423, R425): its sequencer, its predicted and its typical energy in femtojoules, and
the CCLK cycles it has been held. -/
structure HeldLaunch where
  seqr : Nat
  energy : Nat
  typical : Nat
  cycles : Nat
  deriving DecidableEq, Repr

/-- A schedule entry that has reached its tick and awaits its action (R418, R419): its tick, its word 1, and whether it is late. -/
structure DueEntry where
  entry : Nat
  tick : Nat
  word : Nat
  late : Bool
  deriving DecidableEq, Repr

/-- The cadence region (14): whether the count may run (R409); whether an edge has been accepted since, and the last
spacings in REFCLK cycles, newest first (R407); the edges of the run that would regain TICK (R557); the count to set and
whether a timecode is asked for at the next advance (R413, R416); the timecodes due, the last TSEQ sent, the last sixteen applied, and the
ticks since the last periodic timecode; the energy bucket in femtojoules and its capacity in millijoules as the last edge took it up (R424); the launches held and those admitted but not
yet issued (R425); the typical energy of the operations completed since the last sample, the input energy then, the samples of both
predictors, newest first, and the ticks since the last (R427, R428); the checkpoints that wait for a step and whether each snapshots the
log (R421); the ticks of the armed schedule entries and the entries that are due (R417, R418). -/
structure CadState where
  running : Bool
  edge : Bool
  spacings : List Nat
  regain : Nat
  tickSet : Option Nat
  sendTc : Bool
  tcDue : Nat
  tseq : Nat
  applied : List Nat
  sinceTc : Nat
  bucket : Int
  cap : Nat
  held : List HeldLaunch
  admitted : List HeldLaunch
  done : Nat
  lastMj : Nat
  eSamples : List (Int × Nat)
  tSamples : List Nat
  sinceSample : Nat
  ckpts : List (Nat × Bool)
  armed : FMap Nat
  due : List DueEntry
  deriving DecidableEq, Repr

def CadState.reset : CadState :=
  { running := false, edge := false, spacings := [], regain := 0, tickSet := none, sendTc := false, tcDue := 0, tseq := 0
    applied := [], sinceTc := 0, bucket := 0, cap := 2000, held := [], admitted := [], done := 0, lastMj := 0, eSamples := [], tSamples := []
    sinceSample := 0, ckpts := [], armed := [], due := [] }

/-- The drover region (04, 05): the running and the waiting operation, the gather cache (sets of sectors, most recently
used first; a sector is its place in memory and its bytes), the running total behind DRV_LAST_ERR.OP, the tick of the demand posted by
the running SELECT_SEND, and whether its dispatch uses the host allocation once that is decided (R165). -/
structure DrvState where
  run : Option DrvOp
  wait : Option DrvOp
  opTotal : Nat
  gcache : FMap (List (Nat × List Byte))
  posted : Option Nat
  alloc : Option Bool
  deriving DecidableEq, Repr

/-- A shape image (R463 to R469): its full digest, its tenant, the firmware it needs, and its sections by TYPE. -/
structure Image where
  digest : List Byte
  tenant : Nat
  minFw : Nat
  sections : FMap (List Byte)
  deriving DecidableEq, Repr

/-- The step clockwork (01): whether a step runs; the scheduled start tick of the running step or of the last one to start, and its
number; the scheduled start tick of the next step to start, when there is one; the base tick of the epoch and whether it has
one; whether the next start tick has passed while the step could not start (R37) and whether a base that passed unsynchronised has
been logged (R410); the number of the first step that has started in the epoch; the number of the last completed step of the image; how many steps have started since the image was installed (R168); and the
tags whose timeouts the step has logged. -/
structure StepState where
  running : Bool
  sched : Nat
  number : Nat
  next : Option Nat
  baseTick : Nat
  based : Bool
  late : Bool
  unsynced : Bool
  began : Option Nat
  lastDone : Option Nat
  count : Nat
  loggedTags : List Nat
  deriving DecidableEq, Repr

/-- The event log's input side (R454, R455): events offered and not yet written, and how many were offered. -/
structure LogState where
  queue : List LogEvent
  offered : Nat
  deriving DecidableEq, Repr

/-- Work that only firmware does, in the order in which it was asked (R439): a lost page to retire (page, stack, tick),
a panel to record in the lifetime records, a NOTIFY to act on (sender, code, port, module), a log snapshot to write to flash, the
flash commit of an entry to supply stage 4 and the records that follow it (R493), a census to begin, one to take part in, a reply to it, the end of a wait for replies (R322), and an
ADOPT with the port at which it came (R448). -/
inductive FwEvent where
  | censusDue
  | census (root number epoch digest : Nat)
  | reply (src number reached agree firstBad : Nat)
  | censusEnd (number : Nat)
  | adopt (port : Nat) (pkt : Packet)
  | retirePage (page stack tick : Nat)
  | recordPanel (panel : Nat)
  | clearPanel (panel : Nat)
  | notice (src code port modul : Nat)
  | snapshot
  | stage4
  | stage4Log
  deriving DecidableEq, Repr

/-- The fault region (15): firmware work waiting, pages between their entry in the retirement table and the end of
their repair, whether a lock-up has occurred that a second could follow within 1 s, the watchdog period that the last kick took up. -/
structure FaultState where
  fwq : List FwEvent
  repairing : List Nat
  lockedUp : Bool
  wdog : Nat
  deriving DecidableEq, Repr

/-- An XFER operation not yet complete (R275, R310 to R314): its number, the sequencer that issued it (4 for a fetch of R450), its mode
and fields, its slots, the next tile to be moved, whether its tiles have all been moved or sent, which parts of a window read have arrived,
the tag a fetch fills, whether its result is unspecified (R186, R278), and its typical energy. -/
structure XferOp where
  id : Nat
  seqr : Nat
  mode : Nat
  src : Nat
  dst : Nat
  hsrc : Nat
  hdst : Nat
  close : Bool
  modul : Nat
  window : Nat
  roff : Nat
  dir : Nat
  acq : Acq
  next : Nat
  moved : Bool
  got : List Nat
  fetch : Option Nat
  open_ : Bool
  energy : Nat
  limit : Nat
  deriving DecidableEq, Repr

/-- An XFER or REDUCE issued since its sequencer's last done wait (R278): the sequencer, and the descriptors that it reads and writes here. -/
structure Unwaited where
  seqr : Nat
  reads : List Nat
  writes : List Nat
  deriving DecidableEq, Repr

/-- A G16 block (R328, Table 11.1): its header and its 64 significands. -/
structure G16 where
  exp : Nat
  res : Nat
  withheld : Bool
  sat : Bool
  carry : Bool
  isPartial : Bool
  lost : Bool
  count : Nat
  block : Nat
  q : List Int
  deriving DecidableEq, Repr

/-- An input of a combine: whose it is (0 this module's own source, else 1 plus the child's position), the port whose receive buffer
holds it, and the block. -/
structure RedInput where
  who : Nat
  port : Option Nat
  blk : G16
  deriving DecidableEq, Repr

/-- A REDUCE not yet complete (R276, R330 to R352): its number, descriptors, group, LATE, TID, absolute deadline and step; how many
source blocks have been formed; whether its close has passed; the inputs present and the blocks fired; the results that
wait to be written or whose tile is not yet complete, the blocks written into such tiles, and the tiles complete; the accesses to
SRC and to DST; whether a result was PARTIAL, the tick of the last firing; whether its result is unspecified (R186, R278); its typical energy. -/
structure ReduceOp where
  id : Nat
  src : Nat
  dst : Nat
  group : Nat
  late : Bool
  tid : Nat
  deadline : Int
  step : Nat
  formed : Nat
  closed : Bool
  inputs : FMap (List RedInput)
  fired : List Nat
  results : FMap G16
  written : List Nat
  done : List Nat
  acq : Acq
  acqW : Acq
  partials : Bool
  lastFire : Int
  open_ : Bool
  energy : Nat
  deriving DecidableEq, Repr

/-- RED's index of one entry of the carry-in area (R350): its half and place, and what it holds. -/
structure CarryEntry where
  half : Nat
  place : Nat
  tid : Nat
  block : Nat
  step : Nat
  deriving DecidableEq, Repr

/-- The reduction region (11): the number of the next REDUCE; the REDUCEs completed since the image was loaded, by TID (LATE, step,
number); REDUCEs completed whose source blocks are still being formed (R349), oldest first; the index of the carry-in area; for each group, the PARTIAL results and smallest margins of the running step and of
the last completed one, the step that awaits review, and the run of calm steps (R352). [DEDUCED, log entry 76] -/
structure RedState where
  next : Nat
  history : FMap (Bool × Nat × Nat)
  forming : List ReduceOp
  carry : List CarryEntry
  partials : List Nat
  margins : FMap Int
  review : List (Nat × Nat × Bool × Option Int)
  calm : FMap Nat
  deriving DecidableEq, Repr


/-- The head of a RoCE v2 packet that an ingest port sends (R377, R378, R381): its MAC addresses, its VLAN identifier and priority where it is tagged, its
IP version and addresses, its DSCP and ECN code, its UDP ports, the responder's queue-pair number and its PSN. -/
structure RoceHead where
  dmac : Nat
  smac : Nat
  vlan : Option (Nat × Nat)
  v6 : Bool
  sip : Nat
  dip : Nat
  dscp : Nat
  ecn : Nat
  sport : Nat
  dport : Nat
  qpn : Nat
  psn : Nat
  deriving DecidableEq, Repr

/-- A packet that an ingest port sends (R375, R377, R381): an ARP reply and a neighbour advertisement, each from the port's MAC address and the address
asked for to those who asked; an RDMA READ request; a congestion notification. -/
inductive EthTx where
  | arpReply (mac ip destMac destIp : Nat)
  | advertisement (mac ip destMac destIp : Nat)
  | read (head : RoceHead) (addr rkey len : Nat)
  | notification (head : RoceHead)
  deriving DecidableEq, Repr

/-- A READ request outstanding on a queue pair (R377 to R380): the sample it serves (none once that is abandoned), its
address and key, the place of its bytes in the sample's range, the bytes of a packet of its response, its first PSN, the packets of its response that
have arrived and their bytes. -/
structure ReadOp where
  sample : Option Nat
  addr : Nat
  rkey : Nat
  off : Nat
  len : Nat
  mtu : Nat
  psn : Nat
  got : Nat
  bytes : Nat
  deriving DecidableEq, Repr

/-- A queue pair (R378, R379): the PSN of its next request, its reads outstanding, oldest first, the resends of the oldest, whether a reset waits for its
reads, and whether a resend waits for its port to be resumed (R376). That it is in error stands in the register file. -/
structure QpState where
  psn : Nat
  reads : List ReadOp
  tries : Nat
  resetDue : Bool
  due : Bool
  deriving DecidableEq, Repr

/-- An element of a sample's tokens (R394): its bf16 bits, the binary32 bits that it was converted from, and the events of its conversion. -/
structure TokenElem where
  bits : Nat
  exact : Nat
  events : NumEvents
  deriving DecidableEq, Repr

/-- A sample that ING has taken up and not delivered (R383 to R399): its number among the samples taken up, its manifest entry, pass,
step-in-pass, data step and position; its queue pair and fetch area; its address, key, length, container, selected stream, recipe and start frame; the
bytes asked for and received, and those received, in order, as the demultiplexer takes them; whether its fetch has failed and whether its stream is
unsupported; its pipe, what its stream's headers say, and its codec; the pictures that its pipe has stored, and the field that waits for the other of its
frame; the presentation numbers of the frames dropped since the last random-access picture; the kept frames decided, those of them dropped, and the
tokens of those tokenised; the presentation time of the first kept frame; and whether a dropped frame has been logged. -/
structure IngSample where
  id : Nat
  entry : Nat
  pass : Nat
  istep : Nat
  dstep : Nat
  q : Nat
  qp : Nat
  area : Option Nat
  addr : Nat
  rkey : Nat
  length : Nat
  container : Nat
  select : Nat
  recipe : Nat
  start : Nat
  asked : Nat
  received : Nat
  stream : List Byte
  failed : Bool
  unsupported : Bool
  pipe : Option Nat
  info : Option StreamInfo
  codec : Option Nat
  stored : Nat
  half : Option (FrameResult × Picture)
  bad : List Nat
  decided : List Nat
  dropped : List Nat
  tokens : FMap (List TokenElem)
  pts : Option Nat
  logged : Bool
  deriving DecidableEq, Repr

/-- A kept frame that the tokeniser has not processed (R395): its sample, its place among the kept frames, where it lies in the frame-store tag, and the
picture without its planes. -/
structure KeptFrame where
  sample : Nat
  index : Nat
  place : Nat
  head : Picture
  deriving DecidableEq, Repr

/-- A sample in a staging slot that the shuffle has not sent (R398): the slot, the data step, pass, step-in-pass and position, the recipe
of its tokens, and its bytes of audio. -/
structure ReadySample where
  slot : Nat
  dstep : Nat
  pass : Nat
  istep : Nat
  q : Nat
  recipe : Nat
  audio : Nat
  deriving DecidableEq, Repr

/-- The ingest region (13): samples taken up, oldest first, and the number of the next; the next data step and position; the queue pairs
that are not at their start; kept frames waiting for the tokeniser; samples waiting for the shuffle; the tally records of the token tiles in the staging slots, by 2^32 times the slot plus
the tile's number (R394); the queue pairs on which a congestion notification has been sent (R381); whether a kill has stopped it (R400); and the frames that the last command sent, by port. -/
structure IngState where
  samples : List IngSample
  nextId : Nat
  dstep : Nat
  q : Nat
  qps : FMap QpState
  frames : List KeptFrame
  ready : List ReadySample
  tallies : FMap Nat
  notified : List Nat
  stopped : Bool
  tx : List (Nat × EthTx)
  deriving DecidableEq, Repr

def IngState.reset : IngState :=
  { samples := [], nextId := 0, dstep := 0, q := 0, qps := [], frames := [], ready := [], tallies := [], notified := [], stopped := false, tx := [] }

/-- A record of the flash journal (R479): its type, key and payload, its number in the whole journal, and its FLAGS. -/
structure JournalRec where
  typ : Nat
  key : Nat
  data : List Byte
  seq : Nat := 0
  flags : Nat := 0
  deriving DecidableEq, Repr

/-- A firmware image that has been verified (R476): its version, its security version number, and the file, signature and all. -/
structure Firmware where
  version : Nat
  svn : Nat
  file : List Byte
  deriving DecidableEq, Repr

/-- A validated image that awaits its step boundary (R471 to R473): the operation that loads it, its slot, its bytes, and the
epoch change it is installed under, if any. -/
structure PendingLoad where
  op : Nat
  slot : Nat
  bytes : List Byte
  change : Option EpochChange
  deriving DecidableEq, Repr

/-- An installation under way (R472): the load, the short digest that was in force before it, whether it began with a scrub, and whether the tables are written and the ZERO
tags are being filled (R223), rather than the stores scrubbed (R222). -/
structure Installation where
  load : PendingLoad
  old : Nat
  scrubs : Bool
  filling : Bool
  deriving DecidableEq, Repr

/-- An image operation that runs (R471): its operation, its slot, and whether the staging region was open when it was asked for. -/
structure ImgOp where
  op : Nat
  slot : Nat
  opened : Bool
  deriving DecidableEq, Repr

/-- What the LIFETIME record holds (Table 16.12, R482): powered hours, resets by source code, entries to shed stages, erases, pages that fail to
program among them, and the blocks of the journal that are marked bad. -/
structure Lifetime where
  hours : Nat
  resets : FMap Nat
  stages : Nat
  erases : Nat
  bad : List Nat
  deriving DecidableEq, Repr

/-- A compaction of the journal that runs (R480): the number of its first copy, and whether its COMMIT is written. -/
structure Compaction where
  first : Nat
  done : Bool
  deriving DecidableEq, Repr

/-- The control region (16): the records of the flash journal, oldest first, superseded and uncommitted ones included, and the compaction that runs; the bytes written to the
staging region and, while the image window is open, the lowest offset it still accepts; the bytes written to the staged area in
recovery boot; the image operation and the firmware operation that run (true: STAGE); the load that awaits its boundary and the
installation under way; the running and the staged firmware, and whether the one is being switched for the other (R477); the owner-key slots that have been written since manufacture (digest, revoked), the DEBUG_LOCK
fuse and the FW_SVN count; whether a refused write of the image window has been logged since the last write of CTL_IMG_CTL or
CTL_FW_CTL; the quote being signed; whether TAG has been cleared since the last image load
(R220); and the lifetime counts. -/
structure CtlState where
  journal : List JournalRec
  compacting : Option Compaction
  staging : FMap Byte
  stageNext : Option Nat
  recovery : FMap Byte
  op : Option ImgOp
  fwOp : Option Bool
  load : Option PendingLoad
  installing : Option Installation
  firmware : Option Firmware
  staged : Option Firmware
  switching : Bool
  owners : FMap (List Byte × Bool)
  debugLock : Bool
  fwSvn : Nat
  winLogged : Bool
  quote : List Byte
  unscrubbed : Bool
  life : Lifetime
  deriving DecidableEq, Repr

def CtlState.reset : CtlState :=
  { journal := [], compacting := none, staging := [], stageNext := none, recovery := [], op := none, fwOp := none, load := none, installing := none
    firmware := none, staged := none, switching := false, owners := [], debugLock := false, fwSvn := 0, winLogged := false, quote := []
    unscrubbed := true, life := { hours := 0, resets := [], stages := 0, erases := 0, bad := [] } }

/-- The power region (17): whether the always-on domain is released; whether the fabric ports may train (release step 6 has begun since
LNK was last cleared); the conditions that hold the chip in reset or release at step 2 (brown-out, overvoltage, pin, clock); the last four
samples of the input in millivolts, newest first, and the shed stage that they call for (R491, R494); and the sources of the resets whose
release is not complete (R500). -/
structure PowerState where
  on : Bool
  fabric : Bool
  holdBrown : Bool
  holdOver : Bool
  holdPin : Bool
  holdClock : Bool
  vins : List Nat
  vstage : Nat
  sources : List Nat
  deriving DecidableEq, Repr

def PowerState.reset : PowerState :=
  { on := false, fabric := false, holdBrown := false, holdOver := false, holdPin := false, holdClock := false, vins := []
    vstage := 0, sources := [] }

/-- What the PCI Express function sends as a requester (R513): the mirror word, or the MSI-X message, with their addresses. -/
inductive HostTx where
  | mirror (addr word : Nat)
  | message (addr data : Nat)
  deriving DecidableEq, Repr

/-- The host port (18). PCI Express: the address and data of MSI-X vector 0, whether the vector is masked and its pending bit, the summary as it
stood last, whether a message is requested, and whether the holdoff runs (R527); the status word written to the mirror last (R525); and what the
last command sent. I3C: the write and read limits, the tries that an in-band interrupt has left
(R531), and the ALERT_L condition as it stood last. The bytes that the last read through either port returned, and whether the last BAR0 read was
completed with Completer Abort instead (R514). Configuration space besides what HST_LINK shows (R512): the addresses of BAR0 and BAR2, the enable of
MSI-X, and the corrected-error bit of Advanced Error Reporting (R532). And the windows of which a refused access is still to be logged (R518). -/
structure HostState where
  msgAddr : Nat
  msgData : Nat
  masked : Bool
  msgPending : Bool
  summary : Bool
  msgDue : Bool
  holdoff : Bool
  mirrored : Option Nat
  sent : List HostTx
  mwl : Nat
  mrl : Nat
  reply : List Byte
  ibi : Option Nat
  alert : Bool
  aborted : Bool
  bar0 : Nat
  bar2 : Nat
  msix : Bool
  corrected : Bool
  winArmed : List Nat
  deriving DecidableEq, Repr

def HostState.reset : HostState :=
  { msgAddr := 0, msgData := 0, masked := true, msgPending := false, summary := false, msgDue := false, holdoff := false, mirrored := none
    sent := [], mwl := 8, mrl := 16, reply := [], ibi := none, alert := false
    aborted := false, bar0 := 0, bar2 := 0, msix := false, corrected := false, winArmed := [] }

/-- The sampler (19): OBS_CFG and OBS_RING as latched at arming, the samples taken since, the records in the staging buffer, oldest
first, each with its bytes, the bursts written and not yet accepted (how many records, the place after them, and whether the ring wraps
there), the place of the next burst in units of 64 bytes, the tick of the arming, and the
ACLK cycles since the last sample that was due (R535). -/
structure ObsState where
  period : Nat
  full : Bool
  align : Bool
  wrap : Bool
  tag : Nat
  base : Nat
  size : Nat
  seqnum : Nat
  staging : List (List Byte)
  bursts : List (Nat × Nat × Bool)
  next : Nat
  armTick : Nat
  phase : Nat
  deriving DecidableEq, Repr

def ObsState.reset : ObsState :=
  { period := 1024, full := false, align := false, wrap := true, tag := 0, base := 0, size := 0, seqnum := 0, staging := [], bursts := []
    next := 0, armTick := 0, phase := 0 }


/-- The module's state. `regs` is the register file, `latched` the copy of it taken at the last step start, which the
registers that take effect at a step start act through. `mem` holds the scratchpad, accumulator buffer, merge buffer and
stacks at their local addresses (Table 0.5): rising addresses, no byte equal to zero. `descs` is the descriptor store,
eight words for each number; `unwaited` the XFERs and REDUCEs issued with no done wait since (R278); `commits` the commits held for a step boundary, oldest first, and `commitNow` the one being
validated. `genLanes` holds, by region code, the generator lanes that have advanced since they were seeded; the seed in
use is the region's _NUM_SEED.S. `hookTable` gives a tag's sequencer and entry address. `ctx` names the operation
that is acting (0 an instruction that completes at issue, 1 the dense operation, 2 the drover operation, 16 + n transfer n,
2^20 + n reduction n, 2^40 + n window request n), `opCount` how many operations have begun, and `once` the kinds of event each operation has already logged. `patrol` holds each patrol reader's next word (R224). `upsets` are the errors in the arrays and on the stack interfaces that no access has met yet. `free` is the model's own counter: it numbers the uses of free values. -/
structure State where
  pending : List Instr
  regs : RegFile
  latched : RegFile
  mem : List Host.Cell
  slots : FMap Slot
  descs : FMap (List Nat)
  commits : List (Nat × List Nat)
  commitNow : Option (Nat × List Nat)
  hookTable : FMap (Nat × Nat)
  memory : MemState
  seqs : Vector SeqState 4
  dense : DenseState
  drv : DrvState
  lnk : LinkState
  cad : CadState
  xfers : List XferOp
  unwaited : List Unwaited
  reduces : List ReduceOp
  red : RedState
  image : Option Image
  step : StepState
  logIn : LogState
  flt : FaultState
  ctl : CtlState
  pwr : PowerState
  ing : IngState
  host : HostState
  obs : ObsState
  genLanes : FMap (FMap Nat)
  ctx : Nat
  opCount : Nat
  once : List (Nat × Nat)
  patrol : FMap Nat
  upsets : List Upset
  free : Nat
  deriving DecidableEq, Repr

/-- A sequencer that has not begun (R258, R262). -/
def SeqState.reset : SeqState :=
  { pc := 0, running := false, stall := .none, limit := 0, f := false, calls := [], hooks := [], frames := [], startDue := false, issued := 0 }

def MemState.reset : MemState :=
  { cache := [], streams0 := [], streams1 := [], pfq := [], fills := [], waiting := [], reply := [], flushReq := false
    unkeepReq := false, flushing := [] }

def DenseState.reset : DenseState :=
  { pendW := none, pendX := none, void := false, op := none, pre := none, tiles := [], inject := none, passRun := []
    retireReq := 0, reviveReq := 0, retiredNow := 0, opTotal := 0, tiedDone := [] }

def DrvState.reset : DrvState := { run := none, wait := none, opTotal := 0, gcache := [], posted := none, alloc := none }

def StepState.reset : StepState :=
  { running := false, sched := 0, number := 0, next := none, baseTick := 0, based := false, late := false, unsynced := false, began := none
    lastDone := none, count := 0, loggedTags := [] }

/-- The machine right after power-on reset. [DESIGN CHOICE, log entries 1, 11, 29] -/
def State.reset : State :=
  { pending := [], regs := [], latched := [], mem := [], slots := [], descs := [], commits := [], commitNow := none
    hookTable := [], memory := .reset, seqs := Vector.replicate 4 .reset, dense := .reset, drv := .reset, lnk := .reset, cad := .reset, xfers := [], unwaited := [], reduces := []
    red := { next := 0, history := [], forming := [], carry := [], partials := [], margins := [], review := [], calm := [] }, image := none
    step := .reset, logIn := { queue := [], offered := 0 }, flt := { fwq := [], repairing := [], lockedUp := false, wdog := 100 }, ctl := .reset, pwr := .reset, ing := .reset, host := .reset, obs := .reset, genLanes := [], ctx := 0, opCount := 0, once := [], patrol := [], upsets := [], free := 0 }

/-- Why a run stops with a fault: no command of the table does. [DESIGN CHOICE, log entry 7] -/
inductive Fault where
  /-- Raised by nobody: every command has an effect, so no run ends here (safe). -/
  | unreachable
  deriving DecidableEq, Repr

/-- Why a command is refused. -/
inductive Refusal where
  /-- Raised by Machine/Dispatch.lean for a command that has no meaning yet (safe: the run stops). -/
  | notModelled (mnemonic : String)
  deriving DecidableEq, Repr

end Sys2Proof.Machine
end

