-- ==== Sys2Proof/Machine/Ops.lean ====
section
/-!
DEFINITION. Machine/Ops.lean: the named operations on registers, the event log, escalation, attention, generators and
bytes of memory that every meaning goes through.
-/

namespace Sys2Proof.Machine

open Reg

/-! Region codes of the event log (Table 15.5). -/

def regionDNS : Nat := 0
def regionDRV : Nat := 1
def regionTAG : Nat := 2
def regionMEM : Nat := 3
def regionLNK : Nat := 4
def regionRED : Nat := 5
def regionING : Nat := 6
def regionCAD : Nat := 7
def regionSEQ : Nat := 8
def regionFLT : Nat := 9
def regionCTL : Nat := 10
def regionOBS : Nat := 11
def regionPWR : Nat := 12
def regionHST : Nat := 13

/-- The shadow counter that follows the counter at a register offset (Table 19.6, R546). [DEDUCED, log entry 16] -/
def shadowIndex (off : Nat) : Option Nat :=
  if 0x501000 ≤ off ∧ off < 0x501400 then
    (match (off - 0x501000) % 0x40 with
     | 0x08 => some 24
     | 0x10 => some 25
     | 0x18 => some 26
     | 0x20 => some 27
     | _ => none)
  else
    [(0x100048, 1), (0x100030, 2), (0x100038, 3), (0x100040, 4), (0x100050, 5), (0x100068, 6),
     (0x200028, 7), (0x200038, 8), (0x200040, 9), (0x200048, 10),
     (0x300040, 11), (0x300048, 12), (0x300050, 13), (0x300038, 14), (0x300070, 15),
     (0x400040, 16), (0x400048, 17), (0x400030, 18), (0x400038, 19), (0x400050, 20), (0x400058, 21),
     (0x4000a0, 22), (0x4000b8, 23), (0x500058, 28),
     (0x600040, 29), (0x600048, 30), (0x600060, 31), (0x600068, 32), (0x600070, 33), (0x600078, 34),
     (0x700048, 35), (0x700070, 36), (0x700078, 37), (0x700088, 38),
     (0x900038, 39), (0x900030, 40), (0x900040, 41), (0x8000c8, 42),
     (0x100f18, 43), (0x200f18, 43), (0x600f18, 43), (0x700f18, 43),
     (0x100f00, 44), (0x200f00, 44), (0x600f00, 44), (0x700f00, 44),
     (0x100f08, 44), (0x200f08, 44), (0x600f08, 44), (0x700f08, 44),
     (0xa00038, 45)].lookup off

/-- A value increased and held at the all-ones value of its width (R14). -/
def satAdd (width v n : Nat) : Nat := min (2 ^ width - 1) (v + n)

/-- The operation as which the accesses through a partial-result window count (R518). -/
def windowCtx (n : Nat) : Nat := 2 ^ 62 + n

namespace State

/-- The value of a register field. -/
def get (s : State) (f : Field) : Nat := RegFile.get s.regs f

/-- A one-bit field reads 1. -/
def flag (s : State) (f : Field) : Bool := s.get f == 1

/-- The value a field had at the last step start, for the fields that take effect there. [DEDUCED, log entry 15] -/
def held (s : State) (f : Field) : Nat := RegFile.get s.latched f

/-- The low bits of `v` in a register field. -/
def set (s : State) (f : Field) (v : Nat) : State := { s with regs := RegFile.set s.regs f v }

/-- A one-bit field set from a truth value. -/
def setFlag (s : State) (f : Field) (b : Bool) : State := s.set f (b2n b)

/-- A counter without its shadow (R14). -/
def bump (s : State) (f : Field) (n : Nat) : State := if n = 0 then s else s.set f (satAdd f.width (s.get f) n)

/-- A counter takes `n` more events, and so does its shadow (R14, R74, R546). [DEDUCED, log entry 16] -/
def count (s : State) (f : Field) (n : Nat) : State :=
  match shadowIndex f.off with
  | some i => (s.bump f n).bump (OBS_AON.COUNT i) n
  | none => s.bump f n

/-- A number that no other use of a free value has. [DESIGN CHOICE, log entry 3] -/
def fresh (s : State) : Nat × State := (s.free, { s with free := s.free + 1 })

/-- The tick count. -/
def tick (s : State) : Nat := s.get CAD_TICK.COUNT

/-- An event is offered to the event log (R454, R455): numbered, stamped and queued, or dropped when the queue of 64 is
full. [DEDUCED, log entry 19; DESIGN CHOICE, log entry 20] -/
def log (s : State) (e : LogEvent) : State :=
  let s := { s with logIn := { s.logIn with offered := s.logIn.offered + 1 } }
  if s.logIn.queue.length ≥ 64 then (s.count FLT_LOG_DROP_CNT 1).set FLT_FLAGS.LOG_DROP 1
  else
    let e := { e with tick := s.tick, cycle := (Config.logCycle s.free).toNat, seq := s.logIn.offered % 65536 }
    { s with logIn := { s.logIn with queue := s.logIn.queue ++ [e] }, free := s.free + 1 }

/-- An escalation that reaches the chip: counted once and logged (R22). -/
def escalate (s : State) (e : LogEvent) : State := (s.count FLT_ESC_CNT 1).log e

/-- Log an event of the acting operation unless one of its kind has been logged for it already. [DESIGN CHOICE, log entry 14] -/
def logOnce (s : State) (kind : Nat) (e : LogEvent) : State :=
  if s.once.contains (s.ctx, kind) then s else { (s.log e) with once := (s.ctx, kind) :: s.once }

/-- Operation `c` acts. [DESIGN CHOICE, log entry 14] -/
def inOp (s : State) (c : Nat) : State := { s with ctx := c }

/-- Operation `c` begins: it has logged nothing yet. [DESIGN CHOICE, log entry 14] -/
def newOp (s : State) (c : Nat) : State :=
  { s with ctx := c, once := s.once.filter (fun p => p.1 != c), opCount := s.opCount + 1 }

/-- What an operation does within another (the receipt of a row by its own sender, say): the other one goes on acting after it. -/
def within (s : State) (c : Nat) (f : State → State) : State := { f (s.newOp c) with ctx := s.ctx }

/-- A sticky bit of HST_STATUS.ATTN is set (R526, Table 18.4). -/
def attend (s : State) (b : Nat) : State := s.set HST_ATTN.ATTN (s.get HST_ATTN.ATTN ||| 2 ^ b)

end State

/-! Numeric registers of a region (Table 2.8), by the region's control-space block. -/

/-- The four numeric counters and the two controls of a region: its block's offset in the control space. -/
def numBlock (region : Nat) : Nat :=
  if region = regionDNS then 0x100000
  else if region = regionDRV then 0x200000
  else if region = regionRED then 0x600000
  else 0x700000

def numSat (region : Nat) : Field := ⟨numBlock region + 0xF00, 0, 48, 0, .rc⟩
def numInf (region : Nat) : Field := ⟨numBlock region + 0xF08, 0, 48, 0, .rc⟩
def numFtz (region : Nat) : Field := ⟨numBlock region + 0xF10, 0, 48, 0, .rc⟩
def numNan (region : Nat) : Field := ⟨numBlock region + 0xF18, 0, 48, 0, .rc⟩
def numForce (region : Nat) : Field := ⟨numBlock region + 0xF20, 0, 1, 0, .rw⟩
def numSeed (region : Nat) : Field := ⟨numBlock region + 0xF28, 0, 32, 0, .ro⟩

namespace State

/-- The conversion state with which an operation of a region begins: its generators, and no event. -/
def conv (s : State) (region : Nat) : Conv :=
  { gens := { seed := s.get (numSeed region), lanes := (FMap.find s.genLanes region).getD [] }, events := .none }

/-- The CVT field as it acts in a region in the running step (R67). -/
def cvt (s : State) (region c : Nat) : Cvt := Cvt.ofField (s.held (numForce region) == 1) c

/-- The events of a conversion counted in its region and its generators kept (R64, R73). -/
def commitConv (s : State) (region : Nat) (k : Conv) : State :=
  let s := { s with genLanes := FMap.put s.genLanes region k.gens.lanes }
  (((s.count (numSat region) k.events.sat).count (numInf region) k.events.inf).count (numFtz region)
    k.events.ftz).count (numNan region) k.events.nan

/-- What a region's adders deliver, counted (R73). [DEDUCED, log entry 146] -/
def addEvents (s : State) (region : Nat) (n : NumEvents) : State := s.commitConv region { s.conv region with events := n }

/-- Every generator of a region takes the state of step seed `S` (R65, R558). -/
def seedRegion (s : State) (region seed : Nat) : State :=
  { (s.set (numSeed region) seed) with genLanes := FMap.del s.genLanes region }

/-- Every generator of the module is seeded (R65). -/
def seedAll (s : State) (seed : Nat) : State :=
  (((s.seedRegion regionDNS seed).seedRegion regionDRV seed).seedRegion regionRED seed).seedRegion regionING seed

end State

/-! Bytes of memory, at local addresses (Table 0.5). A byte that nothing has written reads as zero. -/

/-- The byte at an address. [DESIGN CHOICE, log entry 1] -/
def cellAt (m : List Host.Cell) (a : Nat) : Byte := (FMap.find m a).getD 0

/-- The memory with a byte at an address, in the one canonical form. [DESIGN CHOICE, log entry 1] -/
def putCell (m : List Host.Cell) (a : Nat) (b : Byte) : List Host.Cell :=
  if b = 0 then FMap.del m a else FMap.put m a b

/-- `n` bytes from an address on. -/
def cellsAt (m : List Host.Cell) (a : Nat) : Nat → List Byte
  | 0 => []
  | n + 1 => cellAt m a :: cellsAt m (a + 1) n

/-- The memory with a run of bytes from an address on. -/
def putCells (m : List Host.Cell) (a : Nat) : List Byte → List Host.Cell
  | [] => m
  | b :: bs => putCells (putCell m a b) (a + 1) bs

/-- The memory with `n` bytes from an address on zero. -/
def zeroCells (m : List Host.Cell) (a n : Nat) : List Host.Cell :=
  m.filter (fun c => !(decide (a ≤ c.1) && decide (c.1 < a + n)))

/-- The canonical form of memory: addresses strictly rising, no byte equal to what an unlisted address reads as. -/
def memWf (m : List Host.Cell) : Bool := FMap.sorted m && m.all (fun c => c.2 != 0)

/-! The local address map (Table 0.5). -/

def stackBytes : Nat := 0xC000000000
def scratchBase : Nat := 0xE0000000000
def scratchBytes : Nat := 0x10000000
def accBase : Nat := 0xE0100000000
def accBytes : Nat := 0x2000000
def mergeBase : Nat := 0xE0200000000
def mergeBytes : Nat := 0x1000000
def ctrlBase : Nat := 0xF0000000000
def ctrlBytes : Nat := 0x1000000

/-- An address lies in a range of Table 0.5 that holds data. -/
def inData (a : Nat) : Bool :=
  decide (a < stackBytes)
    || (decide (scratchBase ≤ a) && decide (a < scratchBase + scratchBytes))
    || (decide (accBase ≤ a) && decide (a < accBase + accBytes))
    || (decide (mergeBase ≤ a) && decide (a < mergeBase + mergeBytes))

/-- An address lies in the local address map (R7). -/
def inMap (a : Nat) : Bool := inData a || (decide (ctrlBase ≤ a) && decide (a < ctrlBase + ctrlBytes))

/-- Memory whose contents a reset left undefined, where `p` holds, and unchanged elsewhere (R554): free values. -/
def undefCells (n : Nat) (p : Nat → Bool) (m : List Host.Cell) : List Host.Cell :=
  ((Config.undefCells n).filter (fun c => inData c.1 && p c.1)).foldl (fun m c => putCell m c.1 c.2)
    (m.filter (fun c => !p c.1))

/-- A queue pair whose reads complete for nobody (R400). -/
def QpState.orphaned (q : QpState) : QpState := { q with reads := q.reads.map (fun r => { r with sample := none }) }

end Sys2Proof.Machine
end

