-- ==== Sys2Proof/Machine/Journal.lean ====
section
/-!
DEFINITION. Machine/Journal.lean: the journal of the flash store, the records that firmware writes into it, and the work that
falls to firmware (15 R439, R458; 16 R479, R480).
-/

namespace Sys2Proof.Machine

open Reg

/-! Record types (Table 16.12). -/

def recFIRMWARE : Nat := 1
def recIMAGE : Nat := 2
def recDEFAULT : Nat := 3
def recOPTION : Nat := 4
def recPANELS : Nat := 5
def recRETIRE : Nat := 6
def recLIFETIME : Nat := 7
def recLOG : Nat := 8
def recDELETE : Nat := 9
def recCOMMIT : Nat := 10

/-- The pages of 4 KiB that a record takes, header included. -/
def JournalRec.pages (r : JournalRec) : Nat := ceilDiv (64 + r.data.length) 4096

/-- The erase blocks of the journal region, and the pages of each. -/
def journalBlocks : Nat := 2016
def blockPages : Nat := 64

def pagesOf (rs : List JournalRec) : Nat := rs.foldl (fun n r => n + r.pages) 0

/-- The pages that records may take: those of the blocks that are not bad (R482). [DESIGN CHOICE, log entry 159] -/
def CtlState.journalPages (c : CtlState) : Nat := (journalBlocks - c.life.bad.length) * blockPages

/-- The highest number of a record, and that of the next one (R479). -/
def lastSeq (rs : List JournalRec) : Nat := rs.foldl (fun n r => max n r.seq) 0
def nextSeq (rs : List JournalRec) : Nat := lastSeq rs + 1

/-- The records that count: those that a COMMIT follows (R479). -/
def counted (rs : List JournalRec) : List JournalRec := (rs.reverse.dropWhile (fun r => r.typ != recCOMMIT)).reverse

/-- The record of a type and key that holds: the newest that counts, unless a DELETE has removed it (R479). -/
def journalGet (rs : List JournalRec) (typ key : Nat) : Option (List Byte) :=
  match (counted rs).reverse.find? (fun r => (r.typ == typ && r.key == key) || (r.typ == recDELETE && r.key == typ * 256 + key)) with
  | some r => if r.typ = typ then some r.data else none
  | none => none

/-- A record still holds, among the records written after it. -/
def journalLive (later : List JournalRec) (r : JournalRec) : Bool :=
  r.typ != recDELETE && r.typ != recCOMMIT
    && !later.any (fun x => (x.typ == r.typ && x.key == r.key) || (x.typ == recDELETE && x.key == r.typ * 256 + r.key))

/-- The records that hold, oldest first. -/
def liveRecs : List JournalRec → List JournalRec
  | [] => []
  | r :: rs => if journalLive rs r then r :: liveRecs rs else liveRecs rs

/-- The COMMIT that covers every record so far; FLAGS bit 0 marks that of a compaction. -/
def commitRec (rs : List JournalRec) (flags : Nat) : JournalRec :=
  { typ := recCOMMIT, key := lastSeq rs, data := [], seq := nextSeq rs, flags := flags }

/-- Records under new numbers. -/
def renumber (n : Nat) : List JournalRec → List JournalRec
  | [] => []
  | r :: rs => { r with seq := n } :: renumber (n + 1) rs

/-- The copies that a compaction makes of every live record (R480). -/
def copies (rs : List JournalRec) : List JournalRec := renumber (nextSeq rs) (liveRecs (counted rs))

/-- The journal after a compaction (R480). -/
def compacted (rs : List JournalRec) : List JournalRec := copies rs ++ [commitRec (rs ++ copies rs) 1]

/-- The journal is more than 75 % full (R480). -/
def CtlState.journalHigh (c : CtlState) : Bool := decide (pagesOf c.journal * 4 > c.journalPages * 3)

/-- A record and its COMMIT fit, after a compaction where one is needed. [DEDUCED, log entry 121] -/
def journalFits (c : CtlState) (r : JournalRec) : Bool :=
  decide (pagesOf c.journal + r.pages + 1 ≤ c.journalPages) || decide (pagesOf (compacted c.journal) + r.pages + 1 ≤ c.journalPages)

/-- The `n`-th block, from 0, that is not bad. [DESIGN CHOICE, log entry 159] -/
def goodBlock (bad : List Nat) (n : Nat) : Nat := (((List.range journalBlocks).filter (fun b => !bad.contains b))[n]?).getD 0

/-- A page fails to program: its block is marked bad, and counted with the erases, and the record goes on at the next good block (R482, Table 16.14).
[DESIGN CHOICE, log entry 159] -/
def CtlState.failPage (c : CtlState) : CtlState :=
  { c with life := { c.life with erases := c.life.erases + 1, bad := c.life.bad ++ [goodBlock c.life.bad (pagesOf c.journal / blockPages)] } }

namespace State

def setCtl (s : State) (c : CtlState) : State := { s with ctl := c }

/-- Blocks that hold no live record are erased; how many they are is free. [DESIGN CHOICE, log entry 123] -/
def eraseBlocks (s : State) (journal : List JournalRec) : State :=
  let (n, s) := s.fresh
  let life := { s.ctl.life with erases := s.ctl.life.erases + Config.erasedBlocks n }
  ((s.setCtl { s.ctl with journal := journal, compacting := none, life := life }).set CTL_FLASH_STATUS.COMPACTING 0).count
    CTL_FLASH_COMPACT_CNT 1

/-- A compaction of the journal, whole (R480). -/
def compact (s : State) : State := s.eraseBlocks (compacted s.ctl.journal)

/-- The pages that fail to program in the record being written (R482). -/
def programFails (s : State) : State :=
  let n := s.upsets.filter (fun u => u == .program)
  { n.foldl (fun s _ => s.setCtl s.ctl.failPage) s with upsets := s.upsets.filter (fun u => u != .program) }

/-- A COMMIT written (R479). -/
def journalCommit (s : State) : State := s.setCtl { s.ctl with journal := s.ctl.journal ++ [commitRec s.ctl.journal 0] }

/-- A record written and committed; one that does not fit after a compaction is not written. [DEDUCED, log entry 121] -/
def journalPut (s : State) (typ key : Nat) (data : List Byte) : State :=
  let r : JournalRec := { typ := typ, key := key, data := data }
  if !journalFits s.ctl r then s
  else
    let s := if pagesOf s.ctl.journal + r.pages + 1 ≤ s.ctl.journalPages then s else s.compact
    let s := s.programFails
    (s.setCtl { s.ctl with journal := s.ctl.journal ++ [{ r with seq := nextSeq s.ctl.journal }] }).journalCommit

/-- A record removed by a DELETE record. -/
def journalDel (s : State) (typ key : Nat) : State :=
  if (journalGet s.ctl.journal typ key).isNone then s else s.journalPut recDELETE (typ * 256 + key) []

end State

/-- The panels that the PANELS record marks as retired (R104). -/
def flashPanels (s : State) : Nat := ofBytes ((journalGet s.ctl.journal recPANELS 0).getD [])

/-- The value of FLT_LOG_HEAD. -/
def logHead (s : State) : Nat :=
  s.get FLT_LOG_HEAD.NEXT + s.get FLT_LOG_HEAD.WRAPPED * 2 ^ 14 + s.get FLT_LOG_HEAD.TOTAL * 2 ^ 32

/-- The bytes of the event log's ring. -/
def logRing (s : State) : List Byte := (List.range 65536).flatMap (fun n => toBytes 8 (s.get (FLT_LOG.WORD n)))

/-- A snapshot of the event log, in place of the oldest of sixteen (R458). -/
def snapshotLog (s : State) : State :=
  let key := match s.ctl.journal.reverse.find? (fun r => r.typ == recLOG) with
    | some r => (r.key + 1) % 16
    | none => 0
  s.journalPut recLOG key (toBytes 8 (logHead s) ++ logRing s)

/-- The RETIRE record written from the retirement table, with TICK zero (R251). -/
def recordRetire (s : State) : State :=
  s.journalPut recRETIRE 0 ((List.range 512).flatMap (fun n =>
    toBytes 8 (s.get (MEM_RETIRE_TABLE.PAGE n) + s.get (MEM_RETIRE_TABLE.VALID n) * 2 ^ 24
      + s.get (MEM_RETIRE_TABLE.REPAIRED n) * 2 ^ 25 + s.get (MEM_RETIRE_TABLE.STACK n) * 2 ^ 26)))

/-- What firmware does about an event that needs no command of its own. [DEDUCED, log entry 106] -/
def fwDo (s : State) (e : FwEvent) : State :=
  match e with
  | .recordPanel p => s.journalPut recPANELS 0 (toBytes 1 (flashPanels s ||| 2 ^ p))
  | .clearPanel p => s.journalPut recPANELS 0 (toBytes 1 (setBits (flashPanels s) p 1 0))
  | .snapshot => snapshotLog s
  | _ => s

/-- An event that firmware acts on by itself, without a command of the table. [DEDUCED, log entry 106] -/
def FwEvent.own (e : FwEvent) : Bool :=
  match e with
  | .retirePage .. | .notice .. | .stage4 | .stage4Log => false
  | _ => true

/-- Flash work (Table 16.17). -/
def FwEvent.flash (e : FwEvent) : Bool :=
  match e with
  | .recordPanel _ | .clearPanel _ | .snapshot | .stage4 | .stage4Log => true
  | _ => false

/-- What an event stands behind in the queue, and waits for (R439); a NOTIFY may have to wait for its time, and holds nothing up.
[DEDUCED, log entry 106] -/
def FwEvent.stops (e : FwEvent) : Bool := !e.own && !(e matches .notice ..)

/-- Firmware runs: the boot ROM has started it since the last reset, and no restart or switch is in progress (R439, R477). -/
def fwRuns (s : State) : Bool :=
  (s.get CTL_STATUS.BOOT == 1 || s.get CTL_STATUS.BOOT == 3) && !s.flag FLT_STATUS.RESTARTING
    && !s.ctl.switching

/-- Work asked of firmware: done at once while it runs and nothing stands before it, else queued, and dropped when firmware does not run and 256
events wait (R439). [DEDUCED, log entry 106] -/
def fwAsk (s : State) (e : FwEvent) : State :=
  let queued := { s with flt := { s.flt with fwq := s.flt.fwq ++ [e] } }
  if fwRuns s then
    if e.own && !s.flt.fwq.any FwEvent.stops then fwDo s e else queued
  else if s.flt.fwq.length ≥ 256 then
    ((s.count FLT_QUEUE_DROP_CNT 1).set FLT_FLAGS.QUEUE_DROP 1).log
      { region := regionFLT, event := 7, level := 3, action := 2 }
  else queued

end Sys2Proof.Machine
end

