-- ==== Sys2Proof/Machine/Memory.lean ====
section
/-!
DEFINITION. Machine/Memory.lean: the path of every access to stack memory (08): lines and sets, the memory-side cache
under its hints, the stream prefetchers, retired pages, lost bursts and recovery hooks.
-/

namespace Sys2Proof.Machine

open Reg

/-- The 2 KiB line of an address (R228). -/
def lineOf (a : Nat) : Nat := a / 2048

/-- The cache set of a line (R235). -/
def setOf (l : Nat) : Nat := (l ^^^ (l >>> 11) ^^^ (l >>> 22)) % 2048

/-- The stack of a line (R228). -/
def stackOf (l : Nat) : Nat := l % 12

/-- The memory half of a line (R228). -/
def halfOf (l : Nat) : Nat := if l % 12 ≤ 5 then 0 else 1

/-- The byte address of a local address within its stack (R228). -/
def stackAddr (a : Nat) : Nat := lineOf a / 12 * 2048 + a % 2048

/-- The cache slice of a line (R235): fixed by its set, not by its stack. [DEDUCED, log entry 144] -/
def sliceOf (l : Nat) : Nat := setOf l % 12

/-- The 64 KiB page of a line (R251). -/
def pageOf (l : Nat) : Nat := l / 32

/-- The hint a stack access acts under (R243). -/
def effHint (s : State) (h : Hint) : Hint :=
  if s.held MEM_CFG.HINT_NORMAL = 1 then .normal
  else if h = .last ∧ s.held MEM_CFG.LAST_AS_STREAM = 1 then .stream
  else h

/-- The hint that a write acts under: a LAST write acts as STREAM (Table 8.3). -/
def writeHint (s : State) (h : Hint) : Hint :=
  match effHint s h with
  | .last => .stream
  | h => h

/-- The retirement-table entry of a page: entries fill the table from 0 on (R251). -/
def retireEntry (s : State) (page : Nat) : Option Nat :=
  (List.range (s.get MEM_RETIRE_STATUS.USED)).find? (fun n => s.get (MEM_RETIRE_TABLE.PAGE n) == page)

/-- A page is out of service (R251). -/
def pageRetired (s : State) (page : Nat) : Bool :=
  match retireEntry s page with
  | some n => s.get (MEM_RETIRE_TABLE.REPAIRED n) == 0
  | none => false

/-- The lines resident in a set, most recently used first. -/
def setLines (s : State) (k : Nat) : List Line := (FMap.find s.memory.cache k).getD []

def putLines (s : State) (k : Nat) (ls : List Line) : State :=
  { s with memory := { s.memory with
      cache := if ls = [] then FMap.del s.memory.cache k else FMap.put s.memory.cache k ls } }

/-- A resident line. -/
def findLine (s : State) (l : Nat) : Option Line := (setLines s (setOf l)).find? (fun x => x.line == l)

/-- The bytes of a resident line: those it holds itself, the stack's elsewhere. -/
def lineBytes (s : State) (x : Line) (off n : Nat) : List Byte :=
  (List.range n).map (fun i => (FMap.find x.bytes (off + i)).getD (cellAt s.mem (x.line * 2048 + off + i)))

/-- One burst to a stack (R233): counted with its bytes in 32-byte granules; to a retired page it is dropped and counted
(R251). -/
def burst (s : State) (write : Bool) (l off n : Nat) : State :=
  if pageRetired s (pageOf l) then s.count MEM_RETIRED_ACC_CNT 1
  else
    let g := (ceilDiv (off + n) 32 - off / 32) * 32
    if write then (s.count MEM_WR_BURST_CNT 1).count MEM_WR_BYTE_CNT g
    else (s.count MEM_RD_BURST_CNT 1).count MEM_RD_BYTE_CNT g

/-! Lost data and recovery hooks. -/

/-- A recovery hook queued on its sequencer, or dropped when the queue of 16 is full (R277). -/
def queueHook (s : State) (tag page : Nat) : State :=
  match FMap.find s.hookTable tag with
  | none => s
  | some (q, entry) =>
    let i : Fin 4 := ⟨q % 4, Nat.mod_lt _ (by decide)⟩
    let sq := s.seqs.get i
    let s := s.set FLT_FLAGS.DATA_LOST 1
    if sq.hooks.length ≥ 16 then
      (s.count SEQ_HOOK_DROP_CNT 1).log
        { region := regionSEQ, event := (Config.unlistedEvent 1).toNat, level := 2, action := 2, block := q }
    else { s with seqs := s.seqs.set i { sq with hooks := sq.hooks ++ [{ entry := entry, tag := tag, page := page }] } }

/-- The tags of the loaded image that have a hook and satisfy `p`, lowest first. -/
def hookTags (s : State) (p : Nat → Bool) : List Nat := (s.hookTable.map (·.1)).filter p

/-- A tag of stack memory covers a byte range of stack addresses (R251). -/
def tagCovers (s : State) (t lo hi : Nat) : Bool :=
  let w0 := s.get (TAG_TABLE.WORD (4 * t))
  let w1 := s.get (TAG_TABLE.WORD (4 * t + 1))
  let base := bits w0 20 28 * 4096
  bit w0 0 && bits w0 1 2 == 1 && decide (base < hi) && decide (lo < base + bits w1 0 28 * 4096)

/-- The value MEM_LAST_ERR takes (Table 8.10). -/
def memLastErr (s : State) (kind l : Nat) : Nat :=
  kind + 4 + stackOf l * 8 + (pageOf l % 2 ^ 24) * 256 + (s.tick % 2 ^ 32) * 2 ^ 32

/-- MEM_LAST_ERR records a loss. -/
def setMemLastErr (s : State) (kind l : Nat) : State :=
  ((((s.set MEM_LAST_ERR.KIND kind).set MEM_LAST_ERR.VALID 1).set MEM_LAST_ERR.STACK (stackOf l)).set
    MEM_LAST_ERR.PAGE (pageOf l)).set MEM_LAST_ERR.TICK s.tick

/-- A burst whose every attempt failed (R249 to R252): counted, recorded, escalated to the chip, and its page handed to
firmware. `kind` is 1 for a read and 2 for a write. [DEDUCED, log entry 144] -/
def burstLost (s : State) (kind l : Nat) : State :=
  let s := setMemLastErr (s.count MEM_DATA_LOST_CNT 1) kind l
  let s := s.escalate { region := regionMEM, event := kind, level := 1, action := 1, block := stackOf l
                        detail := memLastErr s kind l }
  fwAsk s (.retirePage (pageOf l) (stackOf l) (s.tick % 2 ^ 32))

/-! The CRC-32 of a burst, and its attempts (R248 to R250). -/

/-- One bit of the reflected CRC-32 of polynomial 0x04C1_1DB7. -/
def crc32Step (c : Nat) : Nat := if c % 2 = 1 then (c / 2) ^^^ 0xEDB88320 else c / 2

/-- The CRC-32 of a burst's bytes in address order (R248). -/
def crc32 (bs : List Byte) : Nat :=
  bs.foldl (fun c b => iter crc32Step 8 (c ^^^ b.toNat)) 0xFFFFFFFF ^^^ 0xFFFFFFFF

/-- A burst as its sender puts it on the interface: the bytes and their CRC, with every bit of the CRC inverted where the dies have read the data
uncorrectably. -/
def burstSent (bs : List Byte) (dead : Bool) : List Byte :=
  bs ++ toBytes 4 (if dead then crc32 bs ^^^ 0xFFFFFFFF else crc32 bs)

/-- What arrives of bytes some of whose bits change on the way. -/
def flipBits (bs : List Byte) (flips : List (Nat × Byte)) : List Byte :=
  flips.foldl (fun bs f => bs.set f.1 (bs.getD f.1 0 ^^^ f.2)) bs

/-- The data of a burst that arrives, where its CRC holds. -/
def burstTaken (frame : List Byte) : Option (List Byte) :=
  let bs := frame.take (frame.length - 4)
  if ofBytes (frame.drop (frame.length - 4)) = crc32 bs then some bs else none

/-- Up to `n` attempts at a burst: how many fail their CRC before one passes, and what that one delivers. -/
def attempts (bs : List Byte) : Nat → List BurstTry → Nat × Option (List Byte)
  | 0, _ => (0, none)
  | _ + 1, [] => (0, some bs)
  | n + 1, t :: ts =>
    match burstTaken (flipBits (burstSent bs t.dead) t.flips) with
    | some d => (0, some d)
    | none => let r := attempts bs n ts; (r.1 + 1, r.2)

/-- The first upset that `f` picks, and the others. -/
def pickUpset {α : Type} (f : Upset → Option α) : List Upset → Option (α × List Upset)
  | [] => none
  | u :: us =>
    match f u with
    | some x => some (x, us)
    | none => (pickUpset f us).map (fun r => (r.1, u :: r.2))

/-- The upset that an access meets, if there is one; it is met once. [DESIGN CHOICE, log entry 142] -/
def meet {α : Type} (s : State) (f : Upset → Option α) : Option α × State :=
  match pickUpset f s.upsets with
  | none => (none, s)
  | some (x, us) => (some x, { s with upsets := us })

/-- What a command says has struck (R24). [DESIGN CHOICE, log entry 142] -/
def strike (s : State) (us : List Upset) : State := if us = [] then s else { s with upsets := s.upsets ++ us }

/-- The 32-byte granules of a line that bytes of it touch, as first byte and length (R233). -/
def granules (off n : Nat) : Nat × Nat := (off / 32 * 32, (ceilDiv (off + n) 32 - off / 32) * 32)

/-- What becomes of the bytes that a read burst asks for: they are lost, they come as the stack holds them, or they come otherwise, where a CRC
has let an error pass. -/
inductive BurstEnd where
  | lost
  | sound
  | altered (data : List Byte)
  deriving DecidableEq, Repr

/-- The course of a read burst of bytes of a line (R248, R249): it is read up to three times. [DESIGN CHOICE, log entry 142] -/
def burstEnd (s : State) (l off n : Nat) : BurstEnd × State :=
  match meet s (fun | .readBurst k ts => if k = l then some ts else none | _ => none) with
  | (none, s) => (.sound, s)
  | (some ts, s) =>
    let g := granules off n
    let bs := cellsAt s.mem (l * 2048 + g.1) g.2
    let r := attempts bs 3 ts
    let s := if r.1 = 0 then s else s.count MEM_CRC_ERR_CNT 1
    match r.2 with
    | none => (.lost, burstLost s 1 l)
    | some d => (if d = bs then .sound else .altered ((d.drop (off - g.1)).take n), if r.1 = 0 then s else s.count MEM_CRC_RECOVER_CNT 1)

/-- One read burst: counted (R233), and its course. -/
def readBurst (s : State) (l off n : Nat) : BurstEnd × State := burstEnd (burst s false l off n) l off n

/-- The bytes that a read burst delivers: +0 for data that is lost (R249). -/
def BurstEnd.bytes (e : BurstEnd) (s : State) (l off n : Nat) : List Byte :=
  match e with
  | .lost => List.replicate n 0
  | .sound => cellsAt s.mem (l * 2048 + off) n
  | .altered d => d

/-- The data of a write burst is lost (R250): the stack's bytes are unknown until their page leaves service. [DESIGN CHOICE, log entry 57] -/
def writeLost (s : State) (l a n : Nat) : State :=
  let f := s.fresh
  burstLost { f.2 with mem := undefCells f.1 (fun x => decide (a ≤ x) && decide (x < a + n)) f.2.mem } 2 l

/-- One write burst (R233, R248, R250): counted, and sent up to three times; whether its data was lost. To a retired page nothing is written (R251).
[DESIGN CHOICE, log entry 142] -/
def writeBurst (s : State) (l off : Nat) (bs : List Byte) : Bool × State :=
  let retired := pageRetired s (pageOf l)
  let s := burst s true l off bs.length
  if retired then (false, s)
  else
    let a := l * 2048 + off
    match meet s (fun | .writeBurst k ts => if k = l then some ts else none | _ => none) with
    | (none, s) => (false, { s with mem := putCells s.mem a bs })
    | (some ts, s) =>
      let g := granules off bs.length
      let whole := cellsAt s.mem (l * 2048 + g.1) (off - g.1) ++ bs
        ++ cellsAt s.mem (a + bs.length) (g.1 + g.2 - (off + bs.length))
      let r := attempts whole 3 ts
      let s := s.count MEM_WR_RETRY_CNT (min 2 r.1)
      match r.2 with
      | none => (true, writeLost s l a bs.length)
      | some d => (false, { s with mem := putCells s.mem (l * 2048 + g.1) d })

/-- Bytes written to a stack. -/
def stackStore (s : State) (l off : Nat) (bs : List Byte) : State := (writeBurst s l off bs).2

/-! Errors in the cache's words (R253). -/

/-- A line leaves the cache; its own bytes are lost. -/
def dropLine (s : State) (l : Nat) : State :=
  let k := setOf l
  putLines s k ((setLines s k).filter (fun y => y.line != l))

/-- An error in a word of a resident line: a clean line is invalidated; a dirty one is lost, and the hooks of the tags that cover it are invoked.
The answer says whether its data was lost. [DEDUCED, log entries 58, 144] -/
def cacheError (s : State) (x : Line) (err : EccErr) : Bool × State :=
  match err with
  | .none => (false, s)
  | .single => (false, s.count MEM_CACHE_CE_CNT 1)
  | .double => (false, s.count MEM_CACHE_UE_CNT 1)
  | .persistent =>
    let s := dropLine (s.count MEM_CACHE_UE_CNT 1) x.line
    if !x.dirty then (false, s)
    else
      let s := setMemLastErr (s.count MEM_DATA_LOST_CNT 1) 3 x.line
      let s := s.escalate { region := regionMEM, event := 7, level := 1, action := 3, block := sliceOf x.line
                            detail := memLastErr s 3 x.line }
      let lo := x.line * 2048
      (true, (hookTags s (fun t => tagCovers s t lo (lo + 2048))).foldl (fun s t => queueHook s t 0xFFFFFFFF) s)

/-- An access to a resident line meets the error in its words, if there is one; whether the line's data was lost. -/
def meetLine (s : State) (x : Line) : Bool × State :=
  match meet s (fun | .line k e => if k = x.line then some e else none | _ => none) with
  | (none, s) => (false, s)
  | (some e, s) => cacheError s x e

/-- An access to a line meets the error in its words, where it is resident. -/
def meetResident (s : State) (l : Nat) : Bool × State :=
  match findLine s l with
  | some x => meetLine s x
  | none => (false, s)

/-- A dirty line written back as one burst of the whole line (R239); whether its data was lost, in the cache (R253) or on the way (R250). -/
def writeBack (s : State) (x : Line) : Bool × State :=
  let e := meetLine s x
  if e.1 then e
  else
    let r := writeBurst e.2 x.line 0 (lineBytes e.2 x 0 2048)
    (r.1, r.2.count MEM_WRITEBACK_CNT 1)

/-- The victim of a full set: its least recently used line that is not KEEP (R239). -/
def victim (ls : List Line) : Option Line := (ls.filter (fun x => !x.keep)).getLast?

/-- Room for one more line in a set (R239). -/
def makeRoom (s : State) (k : Nat) : State :=
  let ls := setLines s k
  if ls.length < 16 then s
  else match victim ls with
    | none => s
    | some v =>
      dropLine (if v.dirty then (writeBack s v).2 else s) v.line

/-- The least recently used KEEP line becomes ordinary when a thirteenth would be KEEP (R239). -/
def keepRoom (s : State) (k l : Nat) : State :=
  let ls := setLines s k
  let keeps := ls.filter (fun x => x.keep && x.line != l)
  if keeps.length < 12 then s
  else match keeps.getLast? with
    | none => s
    | some v =>
      putLines (s.count MEM_KEEP_DEMOTE_CNT 1) k
        (ls.map (fun x => if x.line = v.line then { x with keep := false } else x))

/-- A line put at the most recently used place of its set. -/
def putFront (s : State) (x : Line) : State :=
  let k := setOf x.line
  putLines s k (x :: (setLines s k).filter (fun y => y.line != x.line))

/-- A line changed where it stands. -/
def putInPlace (s : State) (x : Line) : State :=
  let k := setOf x.line
  putLines s k ((setLines s k).map (fun y => if y.line = x.line then x else y))

/-- A resident line after an access under a hint (Table 8.3); LAST reads are separate. -/
def touchLine (s : State) (h : Hint) (x : Line) : State :=
  match h with
  | .normal => putFront s x
  | .keep => putFront (keepRoom s (setOf x.line) x.line) { x with keep := true }
  | _ => putInPlace s x

/-- A line allocated at the most recently used place (R238). -/
def allocLine (s : State) (h : Hint) (x : Line) : State :=
  let s := makeRoom s (setOf x.line)
  match h with
  | .keep => putFront (keepRoom s (setOf x.line) x.line) { x with keep := true }
  | _ => putFront s x

/-- A line allocated at the least recently used place, by a prefetch (R246). -/
def allocLru (s : State) (x : Line) : State :=
  let k := setOf x.line
  let s := makeRoom s k
  putLines s k (setLines s k ++ [x])

/-! The stream prefetchers (R244 to R246). -/

/-- The depth in use (R245, Table 8.8). -/
def pfDepth (s : State) : Nat :=
  let d := max 1 (min 64 (s.held MEM_PF_CFG.DEPTH))
  if s.get PWR_STATUS.STAGE ≥ 1 then max 1 (d / 2) else d

def pfMaxStride (s : State) : Nat := max 1 (min 1024 (s.held MEM_PF_CFG.MAX_STRIDE))

def streamsOf (s : State) (half : Nat) : List Stream := if half = 0 then s.memory.streams0 else s.memory.streams1

def putStreams (s : State) (half : Nat) (ss : List Stream) : State :=
  if half = 0 then { s with memory := { s.memory with streams0 := ss } }
  else { s with memory := { s.memory with streams1 := ss } }

/-- The half and the entry of a channel's stream. -/
def findStream (s : State) (ch : Nat) : Option (Nat × Stream) :=
  match s.memory.streams0.find? (fun x => x.chan == ch) with
  | some x => some (0, x)
  | none => (s.memory.streams1.find? (fun x => x.chan == ch)).map (fun x => (1, x))

/-- A stream entered at the most recently used place of a table of 64. -/
def enterStream (s : State) (half : Nat) (x : Stream) : State :=
  putStreams s half ((x :: (streamsOf s half).filter (fun y => y.chan != x.chan)).take 64)

/-- A stream dropped or freed, whichever table holds it. -/
def dropStream (s : State) (ch : Nat) : State :=
  { s with memory := { s.memory with
      streams0 := s.memory.streams0.filter (fun y => y.chan != ch)
      streams1 := s.memory.streams1.filter (fun y => y.chan != ch) } }

/-- A prefetch of a line requested, unless the line is resident or on its way (R246). -/
def requestPrefetch (s : State) (ch : Nat) (l : Int) : State :=
  if l < 0 ∨ l ≥ Int.ofNat (stackBytes / 2048) then s
  else
    let n := l.toNat
    if (findLine s n).isSome ∨ s.memory.fills.any (fun f => f.line == n) ∨ s.memory.pfq.any (fun p => p.2.2 == n) then s
    else { s with memory := { s.memory with pfq := s.memory.pfq ++ [(halfOf n, ch, n)] } }

/-- Fills kept requested ahead of a stream that is engaged at line `l` with stride `d`. -/
def requestWindow (s : State) (ch l : Nat) (d : Int) : Nat → State
  | 0 => s
  | k + 1 => requestPrefetch (requestWindow s ch l d k) ch (Int.ofNat l + d * Int.ofNat (k + 1))

/-- The channel moves its window on to line `l`: the lines ahead of it are kept requested (R245). -/
def advanceStream (s : State) (half : Nat) (x : Stream) (d : Int) (l : Nat) : State :=
  requestWindow (enterStream s half { x with last := l }) x.chan l d (pfDepth s)

/-- Line `l` lies in the window of a stream (R245). -/
def onPattern (s : State) (x : Stream) (d : Int) (l : Nat) : Bool :=
  (List.range (pfDepth s)).any (fun k => Int.ofNat l == Int.ofNat x.last + d * Int.ofNat (k + 1))

/-- What a demand hit does to the channel's stream (R245). -/
def streamHit (s : State) (ch l : Nat) : State :=
  match findStream s ch with
  | some (half, x) =>
    (match x.stride with
     | some d => if Int.ofNat l = Int.ofNat x.last + d then advanceStream s half x d l else s
     | none => s)
  | none => s

/-- What a demand miss does to the channel's stream (R244, R245). -/
def streamMiss (s : State) (ch l : Nat) : State :=
  if s.held MEM_CFG.PF_DIS = 1 then s
  else match findStream s ch with
    | none => enterStream s (halfOf l) { chan := ch, last := l, stride := none }
    | some (half, x) =>
      match x.stride with
      | none =>
        let d : Int := Int.ofNat l - Int.ofNat x.last
        if 1 ≤ d.natAbs ∧ d.natAbs ≤ pfMaxStride s then
          requestWindow ((enterStream s half { x with last := l, stride := some d }).count MEM_PF_ENGAGE_CNT 1)
            ch l d (pfDepth s)
        else enterStream (dropStream s ch) (halfOf l) { chan := ch, last := l, stride := none }
      | some d =>
        if Int.ofNat l = Int.ofNat x.last + d then advanceStream s half x d l
        else if onPattern s x d l then s
        else enterStream (dropStream s ch) (halfOf l) { chan := ch, last := l, stride := none }

/-! Reads and writes of stack memory. -/

/-- A demand hit counted, with the use of a prefetched line (Table 8.5). -/
def noteHit (s : State) (x : Line) : State :=
  let s := s.count MEM_CACHE_HIT_CNT 1
  if x.pf then s.count MEM_PF_USED_CNT 1 else s

/-- The fills of a line on their way are not kept: a LAST read has passed them (R241). -/
def discardFills (s : State) (l : Nat) : State :=
  { s with memory := { s.memory with fills := s.memory.fills.map (fun f => if f.line = l then { f with discarded := true } else f) } }

/-- A LAST read of a resident line: the line is invalidated, and discarded if dirty (R240); a fill of it in flight will
not be kept (R241). -/
def lastRead (s : State) (x : Line) : State :=
  let s := dropLine (s.count MEM_LAST_INVAL_CNT 1) x.line
  discardFills (if x.dirty then s.count MEM_LAST_DISCARD_CNT 1 else s) x.line

/-! Line fills on their way (R231, R238, R241, R246). -/

def setReply (s : State) (bs : List Byte) : State := { s with memory := { s.memory with reply := bs } }

/-- The bytes a line holds of its own after a write into it. -/
def overlayBytes (m : FMap Byte) (off : Nat) : List Byte → FMap Byte
  | [] => m
  | b :: bs => overlayBytes (FMap.put m off b) (off + 1) bs

/-- The bytes in which a line that a burst has delivered differs from the stack's. -/
def BurstEnd.diff (e : BurstEnd) : FMap Byte :=
  match e with
  | .altered d => overlayBytes [] 0 d
  | _ => []

/-- A request that waited for a line is served, under its own hint: from the line, or from the burst that brought it (`new`) where it is not kept. -/
def serveFill (new : Line) (s : State) (f : Fill) : State :=
  if f.prefetch then s
  else match findLine s f.line, f.write with
    | some x, none => touchLine (setReply s (lineBytes s x f.off f.len)) f.hint { x with pf := false }
    | some x, some d => touchLine s f.hint { x with pf := false, dirty := true, bytes := overlayBytes x.bytes f.off d }
    | none, none => setReply s (lineBytes s new f.off f.len)
    | none, some d => stackStore s f.line f.off d

/-- The fill that the next burst of a line serves: the requests of its earliest wave. -/
def nextWave (fs : List Fill) (l : Nat) : Option Nat := (fs.find? (fun f => f.line == l)).map (·.wave)

/-- A line arrives (R238, R241, R246, R249): allocated for the requests that wait for it and served to them, or, when a
LAST read has passed it or its page is retired, served without allocation; lost data is delivered as zeros. The burst was counted as it was sent. -/
def fillArrives (s : State) (l : Nat) : State :=
  match nextWave s.memory.fills l with
  | none => s
  | some w =>
    let mine := fun (f : Fill) => f.line == l && f.wave == w
    let fs := s.memory.fills.filter mine
    let s := { s with memory := { s.memory with fills := s.memory.fills.filter (fun f => !mine f) } }
    let demand := fs.filter (fun f => !f.prefetch)
    let lost := fun s => demand.foldl (fun s f =>
      match f.write with
      | none => setReply s (List.replicate f.len 0)
      | some d => stackStore s l f.off d) s
    if pageRetired s (pageOf l) then lost s
    else match burstEnd s l 0 2048 with
      | (.lost, s) => lost s
      | (e, s) =>
        let new : Line := { line := l, keep := false, dirty := false, pf := demand == [], bytes := e.diff }
        let kept := fs.any (fun f => f.prefetch || f.hint == .normal || f.hint == .keep)
        let s := if (findLine s l).isSome ∨ fs.any (·.discarded) ∨ !kept then s
          else if fs.any (·.prefetch) then allocLru s new
          else allocLine s .normal new
        demand.foldl (serveFill new) s

/-- The fills of a line and the requests for it that wait for them come before an access that the model makes whole within a command; a LAST
read makes the fills not to be kept. [DESIGN CHOICE, log entry 56] -/
def settleFill (s : State) (h : Hint) (l : Nat) : State :=
  let n := (s.memory.fills.filter (fun f => f.line == l)).length
  iter (fun s => fillArrives s l) n (if h = .last then discardFills s l else s)

/-- An access to a local address outside the map (R8): counted and logged. [DEDUCED, log entry 24] -/
def outsideMap (s : State) : State :=
  (s.count CTL_ADDR_ERR_CNT 1).log { region := regionCTL, event := 9, level := 3, action := 2 }

/-- A read within one line whose fill is not on its way (Table 8.3); a page out of service reads zero (R251). [DEDUCED, log entry 55] -/
def readLine (s : State) (ch : Nat) (h : Hint) (l off n : Nat) : List Byte × State :=
  if pageRetired s (pageOf l) then (List.replicate n 0, s.count MEM_RETIRED_ACC_CNT 1)
  else
    let e := meetResident s l
    let s := e.2
    if e.1 then (List.replicate n 0, s)
    else match findLine s l with
    | some x =>
      let bs := lineBytes s x off n
      let s := streamHit (noteHit s x) ch l
      (bs, if h = .last then lastRead s x else touchLine s h { x with pf := false })
    | none =>
      let s := streamMiss (s.count MEM_CACHE_MISS_CNT 1) ch l
      match h with
      | .normal | .keep =>
        (match readBurst s l 0 2048 with
         | (.lost, s) => (List.replicate n 0, s)
         | (e, s) =>
           let new : Line := { line := l, keep := false, dirty := false, pf := false, bytes := e.diff }
           (lineBytes s new off n, allocLine s h new))
      | _ => let r := readBurst s l off n; (r.1.bytes r.2 l off n, r.2)

/-- A write within one line whose fill is not on its way (Table 8.3); to a page out of service it is discarded (R251). [DEDUCED, log entry 55] -/
def writeLine (s : State) (ch : Nat) (h : Hint) (l off : Nat) (bs : List Byte) : State :=
  if pageRetired s (pageOf l) then s.count MEM_RETIRED_ACC_CNT 1
  else
    let s := (meetResident s l).2
    match findLine s l with
    | some x =>
      let s := streamHit (noteHit s x) ch l
      touchLine s h { x with pf := false, dirty := true, bytes := overlayBytes x.bytes off bs }
    | none =>
      let s := streamMiss (s.count MEM_CACHE_MISS_CNT 1) ch l
      let new : Line := { line := l, keep := false, dirty := true, pf := false, bytes := overlayBytes [] off bs }
      match h with
      | .normal | .keep =>
        if bs.length = 2048 then allocLine s h new
        else (match readBurst s l 0 2048 with
         | (.lost, s) => stackStore s l off bs
         | (e, s) => allocLine s h { new with bytes := overlayBytes e.diff off bs })
      | _ => stackStore s l off bs

/-- A request that waited for a controller is served. -/
def serveWait (s : State) (w : WaitReq) : State :=
  let s := settleFill s (match w.ask with | .read _ => effHint s w.hint | .write _ => .normal) (lineOf w.addr)
  match w.ask with
  | .read n => let r := readLine s w.chan (effHint s w.hint) (lineOf w.addr) (w.addr % 2048) n; setReply r.2 r.1
  | .write d => writeLine s w.chan (writeHint s w.hint) (lineOf w.addr) (w.addr % 2048) d

/-- The demand fills that the controller of a line's stack holds (R230). [DESIGN CHOICE, log entry 56] -/
def ctrlQueue (s : State) (l : Nat) : List (Nat × Nat) :=
  ((s.memory.fills.filter (fun f => !f.prefetch && stackOf f.line == stackOf l)).map (fun f => (f.line, f.wave))).eraseDups

/-- Waiting requests that `p` picks are served, in their order. [DESIGN CHOICE, log entry 56] -/
def serveWaiting (s : State) (p : WaitReq → Bool) : State :=
  if s.memory.waiting.any p then
    (s.memory.waiting.filter p).foldl serveWait
      { s with memory := { s.memory with waiting := s.memory.waiting.filter (fun w => !p w) } }
  else s

/-- A requester waits for room in the queue of 256 of a stack's controller: its oldest burst comes back first (R19, R230). [DESIGN CHOICE, log entry 56] -/
def awaitRoom (s : State) (l : Nat) : State :=
  if (ctrlQueue s l).length < 256 then s
  else match s.memory.fills.find? (fun f => stackOf f.line == stackOf l) with
    | none => s
    | some f => fillArrives s f.line

/-- What is ordered before an access to a line (R230, R231): the fills on their way, and the requests for the line that wait for a controller; for an
access that goes to the stack, every request that waits for its controller, and room in its queue. [DESIGN CHOICE, log entry 56] -/
def settleLine (s : State) (h : Hint) (l : Nat) : State :=
  let s := serveWaiting (settleFill s h l) (fun w => lineOf w.addr == l)
  if (findLine s l).isSome ∨ pageRetired s (pageOf l) then s
  else awaitRoom (serveWaiting s (fun w => stackOf (lineOf w.addr) == stackOf l)) l

/-- A read within one line; past the end of the stacks nothing answers (R8). [DEDUCED, log entry 24; DESIGN CHOICE, log entry 56] -/
def lineRead (s : State) (ch : Nat) (hint : Hint) (a n : Nat) : List Byte × State :=
  if a ≥ stackBytes then (List.replicate n 0, outsideMap s)
  else
    let h := effHint s hint
    readLine (settleLine s h (lineOf a)) ch h (lineOf a) (a % 2048) n

/-- A write within one line; past the end of the stacks it is discarded (R8). [DEDUCED, log entry 24; DESIGN CHOICE, log entry 56] -/
def lineWrite (s : State) (ch : Nat) (hint : Hint) (a : Nat) (bs : List Byte) : State :=
  if a ≥ stackBytes then outsideMap s
  else
    let h := writeHint s hint
    writeLine (settleLine s h (lineOf a)) ch h (lineOf a) (a % 2048) bs

/-- A read of stack memory, one piece for each line it touches (R233). `fuel` bounds the number of lines. -/
def stackReadGo (ch : Nat) (h : Hint) : Nat → State → Nat → Nat → List Byte × State
  | 0, s, _, _ => ([], s)
  | fuel + 1, s, a, n =>
    if n = 0 then ([], s)
    else
      let k := min n (2048 - a % 2048)
      let r := lineRead s ch h a k
      let q := stackReadGo ch h fuel r.2 (a + k) (n - k)
      (r.1 ++ q.1, q.2)

def stackRead (s : State) (ch : Nat) (h : Hint) (a n : Nat) : List Byte × State :=
  stackReadGo ch h (n / 2048 + 2) s a n

/-- A write of stack memory, one piece for each line it touches (R233). -/
def stackWriteGo (ch : Nat) (h : Hint) : Nat → State → Nat → List Byte → State
  | 0, s, _, _ => s
  | fuel + 1, s, a, bs =>
    if bs = [] then s
    else
      let k := 2048 - a % 2048
      stackWriteGo ch h fuel (lineWrite s ch h a (bs.take k)) (a + min k bs.length) (bs.drop k)

def stackWrite (s : State) (ch : Nat) (h : Hint) (a : Nat) (bs : List Byte) : State :=
  stackWriteGo ch h (bs.length / 2048 + 2) s a bs

end Sys2Proof.Machine
end

