-- ==== Sys2Proof/Machine/Tags.lean ====
section
/-!
DEFINITION. Machine/Tags.lean: the tag table, the translation and check of tag addresses, slots and their states, and
the synchronised accesses of an operation with their stalls and timeouts (06 R191 to R193, 07 R199 to R217).
-/

namespace Sys2Proof.Machine

open Reg

/-- A tag table entry (Table 7.1). -/
structure TagEntry where
  valid : Bool
  place : Nat
  rd : Bool
  wr : Bool
  zero : Bool
  init : Nat
  firstSlice : Nat
  span : Nat
  base : Nat
  size : Nat
  slots : Nat
  slotSize : Nat
  producer : Nat
  consumer : Nat
  nclose : Nat
  ndrain : Nat
  timeout : Nat
  deriving DecidableEq, Repr

/-- The entry that four words hold. -/
def TagEntry.ofWords (w0 w1 w2 w3 : Nat) : TagEntry :=
  { valid := bit w0 0, place := bits w0 1 2, rd := bit w0 3, wr := bit w0 4, zero := bit w0 5, init := bits w0 6 2
    firstSlice := bits w0 8 6, span := bits w0 14 3, base := bits w0 20 28
    size := bits w1 0 28, slots := bits w1 28 7, slotSize := bits w1 36 20
    producer := bits w2 0 8, consumer := bits w2 8 8, nclose := bits w2 16 16, ndrain := bits w2 32 16
    timeout := bits w3 0 24 }

/-- Entry `t` of the tag table. -/
def tagEntry (s : State) (t : Nat) : TagEntry :=
  TagEntry.ofWords (s.get (TAG_TABLE.WORD (4 * t))) (s.get (TAG_TABLE.WORD (4 * t + 1)))
    (s.get (TAG_TABLE.WORD (4 * t + 2))) (s.get (TAG_TABLE.WORD (4 * t + 3)))

/-- The bytes of a tag. -/
def TagEntry.bytes (e : TagEntry) : Nat := e.size * 4096

/-- The local address of byte `b` of a tag (R201). -/
def TagEntry.addr (e : TagEntry) (b : Nat) : Nat :=
  match e.place with
  | 0 =>
    let g := b / 2048
    let slice := e.firstSlice + g % 2 ^ e.span
    scratchBase + slice * 0x400000 + (e.base * 4096 + (g / 2 ^ e.span) * 2048 + b % 2048)
  | 1 => e.base * 4096 + b
  | _ => accBase + e.base * 4096 + b

/-- The check of R191: the tag is allocated, grants the direction, and holds the bytes. -/
def TagEntry.allows (e : TagEntry) (write : Bool) (off : Int) (n : Nat) : Bool :=
  e.valid && (if write then e.wr else e.rd) && decide (0 ≤ off) && decide (off + Int.ofNat n ≤ Int.ofNat e.bytes)

/-- How an access reaches a tag: the tag, whether it was validated when its descriptor was created (PROT 1), its hint,
and the channel it belongs to (one operand of one operation). -/
structure Chan where
  tag : Nat
  prot : Bool
  hint : Hint
  chan : Nat
  deriving DecidableEq, Repr

/-- A failed check (R192): counted, and logged once for the operation. -/
def protFail (s : State) : State :=
  (s.count TAG_PROT_ERR_CNT 1).logOnce 1 { region := regionTAG, event := 3, level := 1, action := 2 }

/-- Bytes of a tag that is not in the stacks. -/
def sramRead (m : List Host.Cell) (e : TagEntry) (b : Nat) : Nat → List Byte
  | 0 => []
  | n + 1 => cellAt m (e.addr b) :: sramRead m e (b + 1) n

def sramWrite (m : List Host.Cell) (e : TagEntry) (b : Nat) : List Byte → List Host.Cell
  | [] => m
  | x :: xs => sramWrite (putCell m (e.addr b) x) e (b + 1) xs

/-! Errors in the words of the scratchpad, the accumulator buffer and the merge buffer (R224). -/

/-- Words of one patrol reader's 4 MiB. -/
def patrolWords : Nat := 524288

/-- The local address of a word of a patrol reader: readers 0 to 63 the scratchpad slices, 64 to 71 the accumulator buffer,
72 to 75 the merge buffer. -/
def patrolAddr (reader w : Nat) : Nat :=
  if reader < 64 then scratchBase + reader * 0x400000 + 8 * w
  else if reader < 72 then accBase + (reader - 64) * 0x400000 + 8 * w
  else mergeBase + (reader - 72) * 0x400000 + 8 * w

/-- A tag covers an SRAM address. -/
def tagHolds (e : TagEntry) (a : Nat) : Bool :=
  e.valid
    && (match e.place with
        | 0 =>
          let off := a - scratchBase
          let slice := off / 0x400000
          let o := off % 0x400000
          decide (scratchBase ≤ a) && decide (e.firstSlice ≤ slice) && decide (slice < e.firstSlice + 2 ^ e.span)
            && decide (e.base * 4096 ≤ o)
            && decide (((o - e.base * 4096) / 2048 * 2 ^ e.span + (slice - e.firstSlice)) * 2048 + o % 2048 < e.bytes)
        | 2 => decide (accBase + e.base * 4096 ≤ a) && decide (a < accBase + e.base * 4096 + e.bytes)
        | _ => false)

/-- The array of an SRAM address (Table 7.13), its slice, and the index of its 64-bit word within the slice or buffer. -/
def wordPlace (a : Nat) : Nat × Nat × Nat :=
  if a < accBase then (0, (a - scratchBase) / 0x400000, (a - scratchBase) % 0x400000 / 8)
  else if a < mergeBase then (1, 0, (a - accBase) / 8)
  else (2, 0, (a - mergeBase) / 8)

/-- TAG_ECC_LAST records an error in a word. -/
def eccLast (s : State) (a : Nat) (ue : Bool) : State :=
  let p := wordPlace a
  ((((s.set TAG_ECC_LAST.ARRAY p.1).setFlag TAG_ECC_LAST.UE ue).set TAG_ECC_LAST.VALID 1).set TAG_ECC_LAST.SLICE p.2.1).set
    TAG_ECC_LAST.WORD p.2.2

/-- The value of TAG_ECC_LAST. -/
def eccLastVal (s : State) : Nat :=
  s.get TAG_ECC_LAST.ARRAY + s.get TAG_ECC_LAST.UE * 4 + 8 + s.get TAG_ECC_LAST.SLICE * 16 + s.get TAG_ECC_LAST.WORD * 2 ^ 10

/-- The bank of a slice in which a word lies: 32 banks of 128 KiB follow one another (R199). [DEDUCED, log entry 143] -/
def bankOf (a : Nat) : Nat := a / 0x20000 % 32

/-- An access meets the error in the word at an address (R224): a single-bit error is corrected; a double-bit error is read again, and where it
persists the word is lost, delivered as zero from then on, and the hooks of the tags that cover it are invoked. [DEDUCED, log entry 143] -/
def wordError (s : State) (a : Nat) (err : EccErr) : State :=
  match err with
  | .none => s
  | .single => (eccLast s a false).count TAG_ECC_CE_CNT 1
  | .double => (eccLast s a true).count TAG_ECC_UE_CNT 1
  | .persistent =>
    let s := (eccLast s a true).count TAG_ECC_UE_CNT 1
    let s := { s with mem := zeroCells s.mem (a / 8 * 8) 8 }
    let s := s.escalate { region := regionTAG, event := 2, level := 1, action := 1
                          block := (if (wordPlace a).1 = 0 then (wordPlace a).2.1 else (a - scratchBase) % 0x100000000 / 0x400000)
                          cell := bankOf a, detail := eccLastVal s }
    (hookTags s (fun t => tagHolds (tagEntry s t) a)).foldl (fun s t => queueHook s t 0xFFFFFFFF) s

/-- An access meets every error in the words that `p` picks. [DESIGN CHOICE, log entry 142] -/
def meetWords (s : State) (p : Nat → Bool) : State :=
  if s.upsets = [] then s
  else
    let picks : Upset → Bool := fun | .word a _ => p (a / 8 * 8) | _ => false
    (s.upsets.filter picks).foldl (fun s u => match u with | .word a e => wordError s a e | _ => s)
      { s with upsets := s.upsets.filter (fun u => !picks u) }

/-- Words written whole hold no error any more. -/
def freshWords (s : State) (p : Nat → Bool) : State :=
  if s.upsets = [] then s
  else { s with upsets := s.upsets.filter (fun | .word a _ => !p (a / 8 * 8) | _ => true) }

/-- Byte `a` of local memory is among bytes `b` to `b + n - 1` of a tag that is not in the stacks. -/
def TagEntry.spans (e : TagEntry) (b n a : Nat) : Bool := (List.range n).any (fun i => e.addr (b + i) == a)

/-- A read of `n` bytes of a tag: checked, translated and served; a read that fails its check delivers zeros (R192). -/
def tagRead (s : State) (c : Chan) (off : Int) (n : Nat) : List Byte × State :=
  let e := tagEntry s c.tag
  if (c.prot || e.allows false off n) && decide (0 ≤ off) then
    if e.place = 1 then stackRead s c.chan c.hint (e.base * 4096 + off.toNat) n
    else
      let s := meetWords s (fun a => (List.range 8).any (fun i => e.spans off.toNat n (a + i)))
      (sramRead s.mem e off.toNat n, s)
  else (List.replicate n 0, protFail s)

/-- A write of bytes of a tag: checked, translated and made; a write that fails its check is discarded (R192). -/
def tagWrite (s : State) (c : Chan) (off : Int) (bs : List Byte) : State :=
  let e := tagEntry s c.tag
  if (c.prot || e.allows true off bs.length) && decide (0 ≤ off) then
    if e.place = 1 then stackWrite s c.chan c.hint (e.base * 4096 + off.toNat) bs
    else
      let s := freshWords s (fun a => (List.range 8).all (fun i => e.spans off.toNat bs.length (a + i)))
      { s with mem := sramWrite s.mem e off.toNat bs }
  else protFail s

/-- The number of a requester channel (R244): operand `k` of the operation that acts as `ctx` and is the `n`-th of its kind.
[DESIGN CHOICE, log entry 145] -/
def channel (ctx n k : Nat) : Nat := (n * 2 ^ 64 + ctx) * 2 ^ 20 + k

/-- Channel `k` of the operation that acts. -/
def State.chanNo (s : State) (k : Nat) : Nat :=
  channel s.ctx (if s.ctx = 1 then s.dense.opTotal else if s.ctx = 2 then s.drv.opTotal else if s.ctx < 16 then s.opCount else 0) k

/-- A raw access of a kind that carries the NORMAL hint (Table 8.2), by the operation that acts; each tag is an operand of its own.
[DESIGN CHOICE, log entry 145] -/
def rawChan (s : State) (tag : Nat) : Chan := { tag := tag, prot := false, hint := .normal, chan := s.chanNo (2 ^ 19 + tag) }

/-- A raw access by window DMA, shuffle receipt, the sampler or another unit whose accesses carry the STREAM hint (Table 8.2).
[DESIGN CHOICE, log entry 145] -/
def streamChan (s : State) (tag : Nat) : Chan :=
  { tag := tag, prot := false, hint := .stream, chan := s.chanNo (2 ^ 19 + 4096 + tag) }

/-- A little-endian word read raw from a tag. -/
def tagWord (s : State) (tag : Nat) (off : Int) (n : Nat) : Nat × State :=
  let r := tagRead s (rawChan s tag) off n
  (ofBytes r.1, r.2)

/-! Slots (R205 to R211). -/

/-- The key of a slot in the slot table. -/
def slotKey (tag slot : Nat) : Nat := tag * 64 + slot

/-- The state of a slot and its counts. -/
def slotAt (s : State) (tag slot : Nat) : Slot :=
  (FMap.find s.slots (slotKey tag slot)).getD { st := .empty, closes := 0, drains := 0 }

def putSlot (s : State) (tag slot : Nat) (x : Slot) : State :=
  { s with slots :=
      if x = { st := .empty, closes := 0, drains := 0 } then FMap.del s.slots (slotKey tag slot)
      else FMap.put s.slots (slotKey tag slot) x }

/-- The code of a slot state (Table 7.11). -/
def SlotSt.code : SlotSt → Nat
  | .empty => 0
  | .filling => 1
  | .full => 2
  | .draining => 3

def SlotSt.ofCode (n : Nat) : SlotSt :=
  match n with
  | 0 => .empty
  | 1 => .filling
  | 2 => .full
  | _ => .draining

/-- A slot state admits a synchronised access (Table 7.3). -/
def SlotSt.admits (st : SlotSt) (write : Bool) : Bool :=
  match st with
  | .empty | .filling => write
  | .full | .draining => !write

/-- The slot after an admitted access (Table 7.3). -/
def Slot.accessed (x : Slot) (write : Bool) : Slot :=
  match x.st, write with
  | .empty, true => { st := .filling, closes := 0, drains := 0 }
  | .full, false => { x with st := .draining }
  | _, _ => x

/-- The slot after a close that its tag counts, and whether the close is extra (Table 7.3). -/
def Slot.close (x : Slot) (nclose : Nat) : Slot × Bool :=
  match x.st with
  | .empty => if nclose ≤ 1 then ({ st := .full, closes := 1, drains := 0 }, false)
              else ({ st := .filling, closes := 1, drains := 0 }, false)
  | .filling => if x.closes + 1 ≥ nclose then ({ x with st := .full, closes := x.closes + 1 }, false)
                else ({ x with closes := x.closes + 1 }, false)
  | _ => (x, true)

/-- The slot after a drain that its tag counts, and whether the drain is extra (Table 7.3). -/
def Slot.drain (x : Slot) (ndrain : Nat) : Slot × Bool :=
  match x.st with
  | .full => if x.drains + 1 ≥ ndrain then ({ st := .empty, closes := 0, drains := 0 }, false)
             else ({ x with st := .draining, drains := x.drains + 1 }, false)
  | .draining => if x.drains + 1 ≥ ndrain then ({ st := .empty, closes := 0, drains := 0 }, false)
                 else ({ x with drains := x.drains + 1 }, false)
  | _ => (x, true)

/-- An access, close or drain by a unit that the tag does not name (R207, R210). -/
def foreign (s : State) : State :=
  (s.count TAG_FOREIGN_CNT 1).logOnce 2 { region := regionTAG, event := 6, level := 2, action := 2 }

/-- A close counted on a slot, whoever makes it. -/
def countClose (s : State) (tag slot : Nat) : State :=
  let r := (slotAt s tag slot).close (tagEntry s tag).nclose
  if r.2 then s.count TAG_EXTRA_CLOSE_CNT 1 else putSlot s tag slot r.1

/-- A drain counted on a slot, whoever makes it. -/
def countDrain (s : State) (tag slot : Nat) : State :=
  let r := (slotAt s tag slot).drain (tagEntry s tag).ndrain
  if r.2 then s.count TAG_EXTRA_DRAIN_CNT 1 else putSlot s tag slot r.1

/-- A close by a unit (R207). -/
def closeSlot (s : State) (unit tag slot : Nat) : State :=
  let e := tagEntry s tag
  if e.producer = 0 ∨ e.producer = unit then countClose s tag slot else foreign s

/-- A drain by a unit (R207). -/
def drainSlot (s : State) (unit tag slot : Nat) : State :=
  let e := tagEntry s tag
  if e.consumer = 0 ∨ e.consumer = unit then countDrain s tag slot else foreign s

/-- A slot set to a state by a signal, its counts zero (R209). -/
def setSlot (s : State) (tag slot : Nat) (st : SlotSt) : State :=
  putSlot s tag slot { st := st, closes := 0, drains := 0 }

/-- The slots that bytes `lo` to `hi - 1` of a tag touch, in ascending order. -/
def slotsOf (e : TagEntry) (lo hi : Nat) : List Nat :=
  let b := e.slotSize * 4096
  if e.slots = 0 ∨ b = 0 ∨ hi ≤ lo then []
  else (List.range e.slots).filter (fun n => decide (n * b < hi) && decide (lo < (n + 1) * b))

/-! The synchronised accesses of an operation. -/

def Acq.none (unit : Nat) : Acq :=
  { unit := unit, needs := [], held := [], late := [], foreign := [], done := [], spared := [], stale := false, limit := 0 }

/-- A unit may make synchronised accesses to a tag in a direction (R210). -/
def unitMay (e : TagEntry) (unit : Nat) (write : Bool) : Bool :=
  let c := if write then e.producer else e.consumer
  c == 0 || c == unit

/-- The stall limit of an access that begins to stall, in ACLK cycles (R213, Table 7.9). -/
def stallLimit (s : State) (tag : Nat) : Nat :=
  let t := (tagEntry s tag).timeout
  1024 * (if t = 0 then max 1 (s.get TAG_SLOT_TIMEOUT.DEFAULT) else t)

/-- The operation has come to an access already: its slot is taken, passed late, or reached as by a raw access. -/
def Acq.has (a : Acq) (u : SlotUse) : Bool :=
  a.needs.contains u || a.held.contains u || a.late.contains u || a.foreign.contains u || a.done.contains u

/-- Accesses taken in order while their slots admit them; the first that does not stalls (R213), but for one to a slot on which the
operation has timed out (R217). `old` is the access that stalled before, whose limit stays. -/
def advanceGo (old : Option SlotUse) (a : Acq) (s : State) : List SlotUse → Acq × State
  | [] => ({ a with needs := [] }, s)
  | u :: us =>
    let x := slotAt s u.tag u.slot
    if x.st.admits u.write then
      advanceGo old { a with held := a.held ++ [u] } (putSlot s u.tag u.slot (x.accessed u.write)) us
    else if a.spared.contains (u.tag, u.slot) then advanceGo old { a with held := a.held ++ [u] } s us
    else ({ a with needs := u :: us, limit := if old = some u then a.limit else stallLimit s u.tag }, s)

def advanceAcq (s : State) (a : Acq) : Acq × State := advanceGo a.needs.head? a s a.needs

/-- The accesses of a unit that their tags do not name, which proceed as raw, are counted, each of them (R210). -/
def countForeign (s : State) (unit : Nat) (us : List SlotUse) : State :=
  (us.filter (fun u => !unitMay (tagEntry s u.tag) unit u.write)).foldl (fun s _ => foreign s) s

/-- An operation asks for the slots of accesses that it comes to (R207): each slot is taken once, and one of a tag that does not name the unit
is only noted, for its close or drain (R210). -/
def askSlots (s : State) (a : Acq) (us : List SlotUse) : Acq × State :=
  let new := us.eraseDups.filter (fun u => !a.has u)
  let mine := new.filter (fun u => unitMay (tagEntry s u.tag) a.unit u.write)
  let others := new.filter (fun u => !unitMay (tagEntry s u.tag) a.unit u.write)
  advanceGo a.needs.head? { a with foreign := a.foreign ++ others } s (a.needs ++ mine)

/-- An operation makes some accesses: their slots are taken, and once all are, those of a foreign unit are counted, each of them (R207, R210). -/
def acquire (s : State) (a : Acq) (us : List SlotUse) : Acq × State :=
  let r := askSlots s a us
  if r.1.needs ≠ [] then r else (r.1, countForeign r.2 a.unit us)

/-- The close or the drain with which a unit leaves a slot (R208). -/
def leaveSlot (unit : Nat) (s : State) (u : SlotUse) : State :=
  if u.write then closeSlot s unit u.tag u.slot else drainSlot s unit u.tag u.slot

/-- The last access of an operation to the slots that `p` picks has been accepted: each is closed or drained, once (R208); a read that timed
out drains nothing (R215); what a unit that the tag does not name does so is discarded and counted (R210). -/
def release (s : State) (a : Acq) (p : SlotUse → Bool) : Acq × State :=
  let due := (a.held ++ a.late.filter (·.write) ++ a.foreign).filter p
  ({ a with held := a.held.filter (fun u => !p u), late := a.late.filter (fun u => !(u.write && p u))
            foreign := a.foreign.filter (fun u => !p u), done := a.done ++ due }, due.foldl (leaveSlot a.unit) s)

/-- An operation asks for the slots of reads and then of writes. A slot that it has now read for the last time and is about to write is drained before
it asks to write it (R208). -/
def askUses (s : State) (a : Acq) (reads writes : List SlotUse) (last : SlotUse → Bool) : Acq × State :=
  let r := askSlots s a reads
  if r.1.needs ≠ [] then r
  else
    let f := release r.2 r.1 (fun u => !u.write && writes.any (fun w => w.tag == u.tag && w.slot == u.slot) && last u)
    askSlots f.2 f.1 writes

/-- An operation makes reads and then writes: once their slots are taken, those of a foreign unit are counted (R210). [DEDUCED, log entry 43] -/
def enterUses (s : State) (a : Acq) (reads writes : List SlotUse) (last : SlotUse → Bool) : Acq × State :=
  let r := askUses s a reads writes last
  if r.1.needs ≠ [] then r else (r.1, countForeign r.2 a.unit (reads ++ writes))

/-- An operation ends: it closes and drains what it has not left yet. -/
def finishAcq (s : State) (a : Acq) : State := (release s a (fun _ => true)).2

/-- Records written into a slot are STALE (R215, R216). -/
def Acq.staleAt (a : Acq) (tag : Nat) (slots : List Nat) : Bool :=
  a.stale || (a.late ++ a.done).any (fun u => u.write && u.tag == tag && slots.contains u.slot && a.spared.contains (u.tag, u.slot))

/-- What a timeout records (R217): the counter, TAG_LAST_TIMEOUT, and a log entry for the tag's first in the step. -/
def noteTimeout (s : State) (unit : Nat) (u : SlotUse) : State :=
  let s := s.count (if u.write then TAG_TIMEOUT_WR_CNT else TAG_TIMEOUT_RD_CNT) 1
  let s := ((((((s.set TAG_LAST_TIMEOUT.TAG u.tag).set TAG_LAST_TIMEOUT.SLOT u.slot).setFlag TAG_LAST_TIMEOUT.DIR
    u.write).set TAG_LAST_TIMEOUT.VALID 1).set TAG_LAST_TIMEOUT.UNIT unit).set TAG_LAST_TIMEOUT.TICK s.tick)
  if s.step.loggedTags.contains u.tag then s
  else
    let s := { s with step := { s.step with loggedTags := u.tag :: s.step.loggedTags } }
    s.log { region := regionTAG, event := if u.write then 5 else 4, level := 1, action := 2
            detail := u.tag + u.slot * 2 ^ 12 + b2n u.write * 2 ^ 18 + 2 ^ 19 + unit * 2 ^ 20
              + (s.tick % 2 ^ 32) * 2 ^ 32 }

/-- An operation has timed out on an access through another of its operands: none of its accesses to that slot stalls, and a read of it
drains nothing (R215, R217). -/
def Acq.spare (a : Acq) (u : SlotUse) : Acq :=
  { a with spared := (u.tag, u.slot) :: a.spared, stale := a.stale || !u.write
           late := if u.write then a.late else u :: a.late
           held := if u.write then a.held else a.held.filter (· != u)
           needs := if u.write then a.needs else a.needs.filter (· != u) }

/-- The stalled access of an operation times out (R214 to R217): when its slot admits it now it proceeds as if it had
not; otherwise it proceeds late. -/
def timeoutAcq (s : State) (a : Acq) : Acq × State :=
  match a.needs with
  | [] => (a, s)
  | u :: us =>
    if (slotAt s u.tag u.slot).st.admits u.write then advanceAcq s a
    else
      let s := noteTimeout s a.unit u
      let s := if u.write then setSlot s u.tag u.slot .filling else s
      advanceGo none { a with late := u :: a.late, spared := (u.tag, u.slot) :: a.spared, stale := a.stale || !u.write } s us

/-- The stalled access of an operation is a write. -/
def Acq.stalledWrite (a : Acq) : Option Bool := a.needs.head?.map (·.write)

end Sys2Proof.Machine
end

