-- ==== Sys2Proof/Machine/Desc.lean ====
section
/-!
DEFINITION. Machine/Desc.lean: tensor descriptors, where an element lies, the checks at creation, and the reading and
writing of tiles and records through descriptors (06; R47 to R50, R68 to R71, R80).
-/

namespace Sys2Proof.Machine

open Reg

/-- A dimension entry (Table 6.3). -/
structure Dim where
  size : Nat
  stride : Int
  bcast : Bool
  idx : Bool
  deriving DecidableEq, Repr

def Dim.ofWord (w : Nat) : Dim :=
  { size := bits w 0 32, stride := signed 28 (bits w 32 28), bcast := bit w 60, idx := bit w 61 }

/-- A tensor descriptor (Tables 6.2, 6.3). -/
structure Desc where
  offset : Nat
  tag : Nat
  idxTag : Nat
  fmt : Nat
  layout : Nat
  cls : Nat
  trans : Bool
  sax : Bool
  sync : Bool
  idxOffset : Nat
  auxTag : Nat
  auxOffset : Nat
  sparse : Nat
  prot : Bool
  reserved : Bool
  d0 : Dim
  d1 : Dim
  d2 : Dim
  d3 : Dim
  d4 : Dim
  d5 : Dim
  deriving DecidableEq, Repr

/-- The descriptor that eight words hold. -/
def Desc.ofWords (ws : List Nat) : Desc :=
  let w := fun n => ws.getD n 0
  { offset := bits (w 0) 0 28, tag := bits (w 0) 28 12, idxTag := bits (w 0) 40 12, fmt := bits (w 0) 52 4
    layout := bits (w 0) 56 2, cls := bits (w 0) 58 3, trans := bit (w 0) 61, sax := bit (w 0) 62
    sync := bit (w 0) 63
    idxOffset := bits (w 1) 0 24, auxTag := bits (w 1) 24 12, auxOffset := bits (w 1) 36 24
    sparse := bits (w 1) 60 2, prot := bit (w 1) 62
    reserved := bit (w 1) 63 || [2, 3, 4, 5, 6, 7].any (fun n => bits (w n) 62 2 != 0)
    d0 := Dim.ofWord (w 2), d1 := Dim.ofWord (w 3), d2 := Dim.ofWord (w 4), d3 := Dim.ofWord (w 5)
    d4 := Dim.ofWord (w 6), d5 := Dim.ofWord (w 7) }

namespace Desc

def dims (d : Desc) : List Dim := [d.d0, d.d1, d.d2, d.d3, d.d4, d.d5]

def format (d : Desc) : Fmt := Fmt.ofCode d.fmt

/-- Channel classes (Table 6.5). -/
def clsFeedAct : Nat := 0
def clsFeedWgt : Nat := 1
def clsDrain : Nat := 2
def clsDrvIn : Nat := 3
def clsResult : Nat := 4
def clsUpdate : Nat := 5
def clsXfer : Nat := 6
def clsLink : Nat := 7

/-- Values kept per group of a sparsity mode, and the group's length (Table 3.5). -/
def sparseKept (mode : Nat) : Nat := if mode = 2 then 1 else if mode = 3 then 4 else 2
def sparseGroup (mode : Nat) : Nat := if mode = 3 then 8 else 4

/-- Metadata bits of one column of a sparse tile (R110). -/
def sparseMeta (mode : Nat) : Nat := if mode = 1 then 32 else if mode = 2 then 16 else 64

/-- Rows of values of a compressed sparse tile (R110). -/
def sparseRows (mode : Nat) : Nat := if mode = 2 then 8 else 16

/-- Bytes of a structured-sparse tile (Table 3.6, from the parts of R110). -/
def sparseTileBytes (f : Fmt) (mode : Nat) : Nat :=
  sparseRows mode * 32 * f.elemBits / 8 + 32 * sparseMeta mode / 8 + (if f.isMx then 32 else 0)

/-- Formats with a sparse tile size (Table 3.6). -/
def sparseFormat (f : Fmt) : Bool :=
  match f with
  | .binary16 | .bf16 | .e4m3 | .e5m2 => true
  | f => f.isMx

/-- The tile unit (R177): the size of a sparse tile for SPARSE, but that of a dense tile under L3. -/
def unit (d : Desc) : Nat :=
  if d.sparse = 0 ∨ d.layout = 3 then d.format.tileBytes else sparseTileBytes d.format d.sparse

/-- Tiles along dimensions 0 and 1 (R181). -/
def t0 (d : Desc) : Nat := ceilDiv d.d0.size 32
def t1 (d : Desc) : Nat := ceilDiv d.d1.size 32

/-- The tensor's tile count. -/
def tiles (d : Desc) : Nat := d.t0 * d.t1 * d.d2.size * d.d3.size * d.d4.size * d.d5.size

/-- The place of a tile in the tensor: its tile column, its tile row and its upper indices. -/
structure Pos where
  t0 : Nat
  t1 : Nat
  i2 : Nat
  i3 : Nat
  i4 : Nat
  i5 : Nat
  deriving DecidableEq, Repr

/-- The place of tile number `k` (R181). -/
def posOf (d : Desc) (k : Nat) : Pos :=
  let k1 := k / d.t0
  let k2 := k1 / d.t1
  let k3 := k2 / d.d2.size
  let k4 := k3 / d.d3.size
  { t0 := k % d.t0, t1 := k1 % d.t1, i2 := k2 % d.d2.size, i3 := k3 % d.d3.size, i4 := k4 % d.d4.size
    i5 := k4 / d.d4.size }

/-- The number of the tile at a place (R181). -/
def numOf (d : Desc) (p : Pos) : Nat :=
  p.t0 + d.t0 * (p.t1 + d.t1 * (p.i2 + d.d2.size * (p.i3 + d.d3.size * (p.i4 + d.d4.size * p.i5))))

/-- The distance of a tile from the tensor's start, in tile units (R178). -/
def tileDist (d : Desc) (p : Pos) : Int :=
  let low : Int :=
    if d.layout = 2 then
      Int.ofNat (p.t0 / 6) * d.d0.stride + Int.ofNat (p.t1 / 6) * d.d1.stride
        + Int.ofNat ((p.t1 % 6) * 6 + p.t0 % 6)
    else Int.ofNat p.t0 * d.d0.stride + Int.ofNat p.t1 * d.d1.stride
  low + Int.ofNat p.i2 * d.d2.stride + Int.ofNat p.i3 * d.d3.stride + Int.ofNat p.i4 * d.d4.stride
    + Int.ofNat p.i5 * d.d5.stride

/-- A place lies in a tensor. -/
def has (d : Desc) (p : Pos) : Bool :=
  decide (p.t0 < d.t0) && decide (p.t1 < d.t1) && decide (p.i2 < d.d2.size) && decide (p.i3 < d.d3.size)
    && decide (p.i4 < d.d4.size) && decide (p.i5 < d.d5.size)

/-- The byte offset of a tile within its tag (R178). -/
def tileOff (d : Desc) (p : Pos) : Int := Int.ofNat (d.offset * 4096) + d.tileDist p * Int.ofNat d.unit

/-- The byte offset of tally record `k` within AUX_TAG (R181). -/
def tallyOff (d : Desc) (k : Nat) : Nat :=
  d.auxOffset * 4096 + 8 * (if d.layout = 3 then d.tiles + k else k)

/-- The byte offset of directory entry `k` within AUX_TAG (R181). -/
def dirOff (d : Desc) (k : Nat) : Nat := d.auxOffset * 4096 + 8 * k

/-- The byte offset of an element of an L0 tensor (R179). -/
def linearOff (d : Desc) (i0 i1 i2 i3 i4 i5 : Nat) : Nat :=
  d.offset * 4096
    + (i0 + d.d0.size * (i1 + d.d1.size * (i2 + d.d2.size * (i3 + d.d3.size * (i4 + d.d4.size * i5)))))
      * (d.format.elemBits / 8)

/-! Creation (R193, R196). -/

/-- The formats a class accepts (Table 6.5), code 11 apart. -/
def clsFormat (cls fmt : Nat) : Bool :=
  match cls with
  | 0 | 1 => decide (1 ≤ fmt) && decide (fmt ≤ 9)
  | 2 => decide (fmt ≤ 10)
  | 3 | 4 | 6 => decide (fmt ≤ 10) || fmt == 12
  | 5 => fmt == 0 || fmt == 2 || fmt == 10 || fmt == 11
  | _ => fmt == 2

/-- The layouts a class accepts (Table 6.5). -/
def clsLayout (cls layout : Nat) : Bool :=
  match cls with
  | 3 | 4 => layout == 1 || layout == 2 || layout == 3
  | 6 => true
  | _ => layout == 1 || layout == 2

/-- The formats of L0 (R179) and of L3 (R135). -/
def linearFormat (fmt : Nat) : Bool := decide (fmt ≤ 4) || fmt == 10 || fmt == 12
def l3Format (fmt : Nat) : Bool := decide (fmt ≤ 4) || fmt == 12

/-- Steps of the walk along a dimension (R193). -/
def steps (d : Desc) (n : Nat) (x : Dim) : Nat :=
  if n ≤ 1 then ceilDiv x.size (if d.layout = 2 then 192 else 32) else x.size

/-- The extent of the walk, in tile units: its lowest tile and the tile after its highest (R193). -/
def extent (d : Desc) : Int × Int :=
  let r := d.dims.zipIdx.map (fun p => Int.ofNat (d.steps p.2 p.1 - 1) * p.1.stride)
  let lo := r.foldl (fun a x => a + min 0 x) 0
  let hi := r.foldl (fun a x => a + max 0 x) (if d.layout = 2 then 35 else 0)
  (lo, hi + 1)

/-- The extent lies in the tag (R193). -/
def fits (d : Desc) (e : TagEntry) : Bool :=
  let x := d.extent
  let base : Int := Int.ofNat (d.offset * 4096)
  decide (0 ≤ base + x.1 * Int.ofNat d.unit) && decide (base + x.2 * Int.ofNat d.unit ≤ Int.ofNat e.bytes)

/-- The checking mode of a class (Table 6.5). -/
def clsProt (cls : Nat) : Bool := cls == 0 || cls == 1 || cls == 7

/-- The refusal code of a descriptor at creation: the first cause of Table 6.7 in code order, 0 when accepted. [DESIGN CHOICE, log entry 168] -/
def refusal (d : Desc) (tag : Nat → TagEntry) : Nat :=
  let e := tag d.tag
  let f := d.format
  let wgtOrXfer := d.cls == clsFeedWgt || d.cls == clsXfer
  let indexed := d.dims.filter (·.idx)
  if d.fmt = 13 ∨ d.fmt = 14 ∨ d.fmt = 15 then 1
  else if d.fmt ≠ 11 ∧ !clsFormat d.cls d.fmt then 2
  else if !clsLayout d.cls d.layout
      ∨ (d.layout = 0 ∧ (!linearFormat d.fmt || d.dims.any (fun x => x.stride != 0 || x.bcast || x.idx)
          || d.sparse != 0 || d.trans || d.sax))
      ∨ (d.layout = 3 ∧ !l3Format d.fmt) then 3
  else if d.fmt = 11 ∧ d.cls ≠ clsUpdate then 4
  else if d.trans ∧ ((d.cls ≠ clsFeedAct ∧ d.cls ≠ clsFeedWgt) ∨ (e.valid ∧ e.place = 1) ∨ d.layout = 3) then 5
  else if (d.sax ∧ !f.isMx)
      ∨ (f.isMx ∧ d.cls = clsFeedAct ∧ d.sax ≠ d.trans)
      ∨ (f.isMx ∧ d.cls = clsFeedWgt ∧ d.sax = d.trans) then 6
  else if d.sparse ≠ 0 ∧ (!wgtOrXfer ∨ !sparseFormat f) then 7
  else if d.dims.any (fun x => x.size == 0) then 8
  else if indexed.length > 1 ∨ (indexed ≠ [] ∧ d.cls ≠ clsDrvIn ∧ d.cls ≠ clsResult)
      ∨ d.dims.any (fun x => x.bcast && (x.stride != 0 || x.idx))
      ∨ [d.d2, d.d3, d.d4, d.d5].any (·.bcast)
      ∨ (d.dims.any (·.bcast) ∧ (d.cls = clsDrain ∨ d.cls = clsResult ∨ d.cls = clsUpdate ∨ d.cls = clsLink)) then 9
  else if !e.valid ∨ (indexed ≠ [] ∧ !(tag d.idxTag).valid)
      ∨ ((d.cls = clsDrain ∨ d.cls = clsResult ∨ d.layout = 3) ∧ !(tag d.auxTag).valid) then 10
  else if d.prot ∧ !d.fits e then 11
  else if d.layout = 2 ∧ (d.d0.stride % 36 ≠ 0 ∨ d.d1.stride % 36 ≠ 0) then 12
  else if d.prot ≠ clsProt d.cls then 13
  else if d.reserved then 14
  else 0

end Desc

/-- The words of descriptor `n`, if the store holds one (R194). -/
def descWords (s : State) (n : Nat) : Option (List Nat) := FMap.find s.descs n

/-- Descriptor `n`, if the store holds one (R194). [DEDUCED, log entry 54] -/
def descAt (s : State) (n : Nat) : Option Desc := (descWords s n).map Desc.ofWords

/-! Reading tiles. -/

/-- The channel by which an operand of an operation reaches its tag. -/
def Desc.chan (d : Desc) (h : Hint) (ch : Nat) : Chan := { tag := d.tag, prot := d.prot, hint := h, chan := ch }

/-- `n` bits from bit `lo` of a byte string, least significant first (R47). -/
def bitsOf (bs : List Byte) (lo n : Nat) : Nat :=
  bits (ofBytes ((bs.drop (lo / 8)).take ((lo % 8 + n + 7) / 8))) (lo % 8) n

/-- The bits of element `e` of a dense tile's bytes (R47, R173). -/
def elemBitsOf (f : Fmt) (bs : List Byte) (e : Nat) : Nat := bitsOf bs (e * f.elemBits) f.elemBits

/-- The scale byte that covers an element of an MX tile, blocks along columns when `sax` (R48). -/
def scaleOf (f : Fmt) (sax : Bool) (bs : List Byte) (e1 e0 : Nat) : Nat :=
  if f.isMx then (bs.getD (128 * f.elemBits + (if sax then e0 else e1)) 0).toNat else 0

/-- The value of an element of a dense tile (R42, R49). -/
def elemVal (f : Fmt) (sax : Bool) (bs : List Byte) (e1 e0 : Nat) : Val :=
  f.decode (scaleOf f sax bs e1 e0) (elemBitsOf f bs (32 * e1 + e0))

/-- Column metadata of a sparse tile (R110): the kept indices of group `g` of column `c`. -/
def sparseKeptIdx (mode : Nat) (f : Fmt) (bs : List Byte) (c g : Nat) : List Nat :=
  let base := Desc.sparseRows mode * 32 * f.elemBits + c * Desc.sparseMeta mode
  match mode with
  | 1 => let w := bitsOf bs (base + 4 * g) 4; [bits w 0 2, bits w 2 2]
  | 2 => [bitsOf bs (base + 2 * g) 2]
  | _ => let w := bitsOf bs (base + 16 * g) 16; [bits w 0 3, bits w 3 3, bits w 6 3, bits w 9 3]

/-- The metadata of a group obeys Table 3.5. -/
def sparseMetaOk (mode : Nat) (f : Fmt) (bs : List Byte) (c g : Nat) : Bool :=
  let base := Desc.sparseRows mode * 32 * f.elemBits + c * Desc.sparseMeta mode
  match sparseKeptIdx mode f bs c g with
  | [a, b] => decide (a < b)
  | [a, b, x, y] => decide (a < b) && decide (b < x) && decide (x < y) && bitsOf bs (base + 16 * g + 12) 4 == 0
  | _ => true

/-- Kept value `i` of group `g` of column `c` of a structured-sparse tile (R110), under the scale of element (`e1`, `c`). -/
def sparseStored (mode : Nat) (f : Fmt) (sax : Bool) (bs : List Byte) (g i e1 c : Nat) : Val :=
  let base := Desc.sparseRows mode * 32 * f.elemBits / 8 + 32 * Desc.sparseMeta mode / 8
  f.decode (if f.isMx then (bs.getD (base + (if sax then c else e1)) 0).toNat else 0)
    (bitsOf bs ((32 * (g * Desc.sparseKept mode + i) + c) * f.elemBits) f.elemBits)

/-- The place within its tile that a broadcast dimension gives (R178, R182). -/
def Desc.bcastAt (d : Desc) (e1 e0 : Nat) : Nat × Nat := (if d.d1.bcast then 0 else e1, if d.d0.bcast then 0 else e0)

/-- The value of element (`e1`, `e0`) of a dense tile of a descriptor from the tile's bytes, broadcast (R178, R182). -/
def Desc.valIn (d : Desc) (bs : List Byte) (e1 e0 : Nat) : Val :=
  let p := d.bcastAt e1 e0
  elemVal d.format d.sax bs p.1 p.2

/-- The bytes of the tile at a place, read through its channel. -/
def readTile (s : State) (d : Desc) (c : Chan) (p : Desc.Pos) : List Byte × State :=
  tagRead s c (d.tileOff p) d.unit

/-- A byte of stack memory as a read would deliver it, with none of a read's effects. -/
def stackPeek (s : State) (a : Nat) : Byte :=
  if pageRetired s (pageOf (lineOf a)) then 0
  else match (findLine s (lineOf a)).bind (fun x => FMap.find x.bytes (a % 2048)) with
    | some b => b
    | none => cellAt s.mem a

/-- Bytes of a tag as a read would deliver them, with none of a read's effects. -/
def tagPeek (s : State) (c : Chan) (off : Int) (n : Nat) : List Byte :=
  let e := tagEntry s c.tag
  if (c.prot || e.allows false off n) && decide (0 ≤ off) then
    (List.range n).map (fun i =>
      if e.place = 1 then stackPeek s (e.base * 4096 + off.toNat + i) else cellAt s.mem (e.addr (off.toNat + i)))
  else List.replicate n 0

/-! The compressed sparse tile (R133 to R138). -/

/-- A multiple of 8 not below `n`. -/
def pad8 (n : Nat) : Nat := ceilDiv n 8 * 8

/-- The body of a compressed tile of `z` kept elements (R134). -/
def l3Body (f : Fmt) (z : Nat) : Nat := 64 + pad8 z + pad8 (z * (f.elemBits / 8))

/-- A directory entry is well formed for a format (R138). -/
def dirOk (f : Fmt) (w : Nat) : Bool :=
  let form := bits w 0 8
  let nnz := bits w 16 11
  decide (form ≤ 2) && bits w 8 4 == f.code && decide (nnz ≤ 1024)
    && (match form with
        | 0 => bits w 32 13 == 0
        | 1 => bits w 32 13 == l3Body f nnz && decide (l3Body f nnz ≤ f.tileBytes)
        | _ => bits w 32 13 == f.tileBytes)

/-- Row ends of a compressed body. -/
def rowEnd (bs : List Byte) (r : Nat) : Nat := ofBytes ((bs.drop (2 * r)).take 2)

/-- The first kept element of row `r`. -/
def rowStart (bs : List Byte) (r : Nat) : Nat := if r = 0 then 0 else rowEnd bs (r - 1)

/-- The column byte of kept element `i`. -/
def colByte (bs : List Byte) (i : Nat) : Nat := (bs.getD (64 + i) 0).toNat

/-- The structure of a compressed body is sound (R138). -/
def bodyOk (bs : List Byte) (nnz : Nat) : Bool :=
  (List.range 32).all (fun r => decide (rowStart bs r ≤ rowEnd bs r)) && rowEnd bs 31 == nnz
    && (List.range nnz).all (fun i => decide (colByte bs i < 32))
    && (List.range 32).all (fun r =>
        (List.range (rowEnd bs r - rowStart bs r - 1)).all (fun j =>
          decide (colByte bs (rowStart bs r + j) < colByte bs (rowStart bs r + j + 1))))

/-- The value of element (`e1`, `e0`) of a compressed body. -/
def bodyVal (f : Fmt) (bs : List Byte) (nnz e1 e0 : Nat) : Val :=
  let lo := rowStart bs e1
  match (List.range (rowEnd bs e1 - lo)).find? (fun j => colByte bs (lo + j) == e0) with
  | none => Val.zero
  | some j => f.decode 0 (bitsOf bs ((64 + pad8 nnz) * 8 + (lo + j) * f.elemBits) f.elemBits)

/-- The values of an L3 tile as its reader takes them (R137, R138): the 1,024 values, whether the tile is malformed, and
which elements are kept. -/
structure L3Tile where
  vals : List Val
  bad : Bool
  deriving DecidableEq, Repr

def zeroTile : List Val := List.replicate 1024 Val.zero

def l3Decode (f : Fmt) (w : Nat) (body : List Byte) : L3Tile :=
  if !dirOk f w then { vals := zeroTile, bad := true }
  else match bits w 0 8 with
    | 0 => { vals := zeroTile, bad := false }
    | 1 =>
      let nnz := bits w 16 11
      if bodyOk body nnz then
        { vals := (List.range 1024).map (fun e => bodyVal f body nnz (e / 32) (e % 32)), bad := false }
      else { vals := zeroTile, bad := true }
    | _ => { vals := (List.range 1024).map (fun e => elemVal f false body (e / 32) (e % 32)), bad := false }

/-- Whether element `e` of the tile at place `p` lies within SIZE (R180). -/
def Desc.inSize (d : Desc) (p : Desc.Pos) (e : Nat) : Bool :=
  decide (32 * p.t0 + e % 32 < d.d0.size) && decide (32 * p.t1 + e / 32 < d.d1.size)

/-- The values of a tile at a place from what its bytes hold at each row and column: +0 beyond SIZE of dimensions 0 and 1, broadcast as they
say (R178, R180, R182). -/
def Desc.clip (d : Desc) (p : Desc.Pos) (v : Nat → Nat → Val) : List Val :=
  (List.range 1024).map (fun e =>
    if d.inSize p e then let q := d.bcastAt (e / 32) (e % 32); v q.1 q.2 else Val.zero)

/-- The bytes of an L3 tile's body that its reader fetches (R137). -/
def l3Fetch (w : Nat) : Nat := ceilDiv (bits w 32 13) 64 * 64

/-! Writing tiles. -/

/-- Bit strings of `w` bits joined, first lowest. -/
def packBits (w : Nat) : List Nat → Nat
  | [] => 0
  | x :: xs => x % 2 ^ w + 2 ^ w * packBits w xs

/-- The elements of one row or column of a tile, as element numbers. -/
def blockElems (sax : Bool) (j : Nat) : List Nat :=
  (List.range 32).map (fun i => if sax then 32 * i + j else 32 * j + i)

/-- A tile converted for writing: for each element its bits, and the scale bytes of an MX tile. -/
structure OutTile where
  elems : List Nat
  scales : List Nat
  conv : Conv
  deriving DecidableEq, Repr

/-- Scatter the elements of one MX block into their places. -/
def placeBlock (acc : FMap Nat) : List (Nat × Nat) → FMap Nat
  | [] => acc
  | (e, v) :: r => placeBlock (FMap.put acc e v) r

/-- The blocks of an MX tile converted one after another (R50, R180): only elements within SIZE choose a scale or count;
the others are +0. -/
def convBlocks (f : Fmt) (sax : Bool) (c : Cvt) (lane : Nat → Nat) (inside : Nat → Bool) (vals : List Val) :
    List Nat → FMap Nat → List Nat → Conv → FMap Nat × List Nat × Conv
  | [], acc, scales, k => (acc, scales, k)
  | j :: js, acc, scales, k =>
    let es := (blockElems sax j).filter inside
    let r := k.mxBlock f c (es.map (fun e => (lane e, vals.getD e Val.zero)))
    let s := if es = [] then 0 else r.1
    let k' := if es = [] then k else r.2.2
    convBlocks f sax c lane inside vals js (placeBlock acc (es.zip r.2.1)) (scales ++ [s]) k'

/-- The elements within SIZE of a tile converted into the format of its descriptor (R58 to R64). -/
def convTile (d : Desc) (p : Desc.Pos) (c : Cvt) (lane : Nat → Nat) (vals : List Val) (only : Nat → Bool) (k : Conv) :
    OutTile :=
  let inside := fun e => d.inSize p e && only e
  if d.format.isMx then
    let r := convBlocks d.format d.sax c lane inside vals (List.range 32) [] [] k
    { elems := (List.range 1024).map (fun e => (FMap.find r.1 e).getD 0), scales := r.2.1, conv := r.2.2 }
  else
    let es := (List.range 1024).filter inside
    let r := k.elems d.format c (es.map (fun e => (lane e, vals.getD e Val.zero)))
    let m := placeBlock [] (es.zip r.1)
    { elems := (List.range 1024).map (fun e => (FMap.find m e).getD 0), scales := [], conv := r.2 }

/-- The bytes of a whole tile. -/
def OutTile.bytes (f : Fmt) (o : OutTile) : List Byte :=
  toBytes (128 * f.elemBits) (packBits f.elemBits o.elems) ++ o.scales.map (fun x => BitVec.ofNat 8 x)

/-- Rising element numbers as stretches of neighbours: the first and how many. -/
def stretches : List Nat → List (Nat × Nat)
  | [] => []
  | e :: es =>
    match stretches es with
    | [] => [(e, 1)]
    | (f, n) :: rest => if f = e + 1 then (e, n + 1) :: rest else (e, 1) :: (f, n) :: rest

/-- The stretches of elements that are written of a tile that is not written whole, row by row. -/
def rowRuns (inside : Nat → Bool) : List (Nat × Nat) :=
  (List.range 32).flatMap (fun r => stretches (((List.range 32).map (fun i => 32 * r + i)).filter inside))

/-- A run of elements of a tile is one stretch of a row. -/
def writeRuns (c : Chan) (f : Fmt) (off : Int) (o : OutTile) (s : State) : List (Nat × Nat) → State
  | [] => s
  | (e, n) :: r =>
    let w := packBits f.elemBits ((o.elems.drop e).take n)
    writeRuns c f off o (tagWrite s c (off + Int.ofNat (e * f.elemBits / 8)) (toBytes (n * f.elemBits / 8) w)) r

/-- A converted tile written (R180): an MX tile whole, another format only where `inside` holds. -/
def writeTile (s : State) (d : Desc) (c : Chan) (p : Desc.Pos) (o : OutTile) (inside : Nat → Bool) : State :=
  let off := d.tileOff p
  if d.format.isMx ∨ (List.range 1024).all inside then tagWrite s c off (o.bytes d.format)
  else writeRuns c d.format off o s (rowRuns inside)

/-- A tally record written at its place (R68, R181). -/
def writeTally (s : State) (d : Desc) (k : Nat) (t : Tally) : State :=
  tagWrite s (rawChan s d.auxTag) (Int.ofNat (d.tallyOff k)) (toBytes 8 t.encode)

/-- The exact values of a tile that count for its record: those within SIZE (R69, R180). -/
def insideVals (inside : Nat → Bool) (vals : List Val) : List Val :=
  ((List.range 1024).filter inside).map (fun e => vals.getD e Val.zero)

/-- The classes whose written tiles have a tally array (Table 6.7, note). -/
def Desc.hasTally (d : Desc) : Bool := d.cls == Desc.clsDrain || d.cls == Desc.clsResult

/-- The earlier tiles of a tensor that lie where tile `k` lies (R183). -/
def Desc.aliases (d : Desc) (k : Nat) : List Nat :=
  (List.range k).filter (fun j => d.tileDist (d.posOf j) == d.tileDist (d.posOf k))

/-- Which elements of tile `k` are written over those that tiles `js` wrote at the same place: all where there is none, a free choice where there is
one (R183). An MX tile is kept or lost whole. [DESIGN CHOICE, log entry 42] -/
def survivesOver (s : State) (d : Desc) (js : List Nat) (only : Nat → Nat → Bool) : (Nat → Bool) × State :=
  if js = [] then (fun _ => true, s)
  else
    let f := s.fresh
    let twice := fun e => js.any (fun j => d.inSize (d.posOf j) e && only j e)
    (fun e => !twice e || Config.survivor (f.1 * 1024 + (if d.format.isMx then 0 else e)), f.2)

/-- Which elements of tile `k` are written over those that earlier tiles of the operation wrote at the same place. -/
def survives (s : State) (d : Desc) (k : Nat) (only : Nat → Nat → Bool) : (Nat → Bool) × State := survivesOver s d (d.aliases k) only

/-- An output tile delivered over those that tiles `js` of the operation have written (R68 to R70, R180, R183): converted, written, its record written
after it, its events counted in its region. `only` narrows the elements written, by tile and element. -/
def deliverOver (s : State) (region : Nat) (d : Desc) (c : Chan) (k : Nat) (js : List Nat) (cvt : Nat) (lane : Nat → Nat)
    (vals : List Val) (stale : Bool) (only : Nat → Nat → Bool) : State :=
  let p := d.posOf k
  let inside := fun e => d.inSize p e && only k e
  let cv := s.cvt region cvt
  let o := convTile d p cv lane vals (only k) (s.conv region)
  let v := survivesOver (s.commitConv region o.conv) d js only
  let s := if d.format.isMx && !v.1 0 then v.2 else writeTile v.2 d c p o (fun e => inside e && v.1 e)
  if d.hasTally then
    writeTally s d k (Tally.ofTile d.format cv stale (insideVals inside vals) o.conv.events)
  else s

/-- An output tile delivered by an operation that delivers its tiles in order. -/
def deliverTile (s : State) (region : Nat) (d : Desc) (c : Chan) (k : Nat) (cvt : Nat) (lane : Nat → Nat)
    (vals : List Val) (stale : Bool) (only : Nat → Nat → Bool) : State :=
  deliverOver s region d c k (d.aliases k) cvt lane vals stale only

/-! Overlap of what an operation reads and writes (R186). -/

/-- The stretches of local memory that `n` bytes of a tag occupy: one for each 2 KiB of the tag. -/
def tagPieces (e : TagEntry) : Nat → Nat → Nat → List (Nat × Nat)
  | 0, _, _ => []
  | fuel + 1, b, n =>
    if n = 0 then []
    else
      let k := min n (2048 - b % 2048)
      (e.addr b, e.addr b + k) :: tagPieces e fuel (b + k) (n - k)

/-- The stretches of local memory that a tensor's tiles occupy; a tile outside its tag is neither read nor written (R192). -/
def descPieces (s : State) (d : Desc) : List (Nat × Nat) :=
  if d.layout = 0 then
    tagPieces (tagEntry s d.tag) (d.dims.foldl (fun n x => n * x.size) (d.format.elemBits / 8) / 2048 + 2) (d.offset * 4096)
      (d.dims.foldl (fun n x => n * x.size) (d.format.elemBits / 8))
  else
  (List.range d.tiles).flatMap (fun k =>
    let off := d.tileOff (d.posOf k)
    let e := tagEntry s d.tag
    if 0 ≤ off ∧ off + Int.ofNat d.unit ≤ Int.ofNat e.bytes then tagPieces e (d.unit / 2048 + 2) off.toNat d.unit else [])

/-- Two tensors share memory. -/
def descsMeet (s : State) (a b : Desc) : Bool :=
  (tagEntry s a.tag).place == (tagEntry s b.tag).place
    && (let q := descPieces s b
        (descPieces s a).any (fun x => q.any (fun y => decide (x.1 < y.2) && decide (y.1 < x.2))))

/-- Two descriptors name the same tiles in the same way (R186). -/
def Desc.sameTiles (a b : Desc) : Bool :=
  a.tag == b.tag && a.offset == b.offset && a.layout == b.layout && a.unit == b.unit && a.dims == b.dims

/-- Values that the spec leaves unspecified. [DESIGN CHOICE, log entry 41] -/
def openVals (seed n : Nat) : List Val :=
  (List.range n).map (fun e => FpFmt.w48.decode (Config.openVal (seed * 1024 + e)).toNat)

/-- The bytes of an L0 tensor. -/
def Desc.linearBytes (d : Desc) : Nat := d.dims.foldl (fun n x => n * x.size) (d.format.elemBits / 8)

/-- The slots of its tag that a tensor's tiles touch, in the order of the tiles, each once. -/
def Desc.slotsTouched (d : Desc) (e : TagEntry) : List Nat :=
  if d.layout = 0 then slotsOf e (d.offset * 4096) (d.offset * 4096 + d.linearBytes)
  else
    let offs := (List.range d.tiles).map (fun k => d.tileOff (d.posOf k))
    (offs.flatMap (fun o => slotsOf e o.toNat (o + Int.ofNat d.unit).toNat)).eraseDups

/-- The slots an access to a tensor touches, in the order of its tiles, each once (R206 to R208). -/
def Desc.slotUses (d : Desc) (e : TagEntry) (write : Bool) : List SlotUse :=
  if d.sync ∧ e.slots ≠ 0 then (d.slotsTouched e).map (fun n => { tag := d.tag, slot := n, write := write })
  else []

def descUses (s : State) (d : Desc) (write : Bool) : List SlotUse := d.slotUses (tagEntry s d.tag) write

/-- The slots that accesses to some tiles of a tensor touch, tile by tile (R206 to R208, R210). -/
def placeUses (s : State) (d : Desc) (ps : List Desc.Pos) (write : Bool) : List SlotUse :=
  if d.sync then
    let e := tagEntry s d.tag
    ((ps.filter d.has).flatMap (fun p =>
      let o := d.tileOff p
      (slotsOf e o.toNat (o + Int.ofNat d.unit).toNat).map (fun n => ({ tag := d.tag, slot := n, write := write } : SlotUse))))
  else []

end Sys2Proof.Machine
end

