-- ==== Sys2Proof/Machine/ImageCheck.lean ====
section
/-!
DEFINITION. Machine/ImageCheck.lean: shape images as byte strings: their header, section table and sections, and the codes with
which a defective one is rejected (16 R463 to R470, R556, Table 16.10).
-/

namespace Sys2Proof.Machine

open Reg

/-- A little-endian field of `n` bytes at byte `off`. -/
def fieldAt (bs : List Byte) (off n : Nat) : Nat := ofBytes ((bs.drop off).take n)

/-- `n` bytes at byte `off` are zero. -/
def zeroAt (bs : List Byte) (off n : Nat) : Bool := fieldAt bs off n == 0

/-- The bytes of an ASCII string. -/
def ascii (cs : List Char) : List Byte := cs.map (fun c => BitVec.ofNat 8 c.toNat)

/-- A code of Table 16.10 with its DETAIL; code 0 accepts. -/
structure Verdict where
  code : Nat
  detail : Nat
  deriving DecidableEq, Repr

def accepted : Verdict := { code := 0, detail := 0 }

/-- The first verdict of a list that rejects. -/
def firstBad : List Verdict → Verdict
  | [] => accepted
  | v :: vs => if v.code ≠ 0 then v else firstBad vs

/-- A verdict that rejects unless a condition holds. -/
def need (ok : Bool) (code detail : Nat) : Verdict := if ok then accepted else { code := code, detail := detail }

/-! Header and section table (R463, R464). -/

namespace ImageFile

def signedSize (b : List Byte) : Nat := fieldAt b 0x10 4
def minFw (b : List Byte) : Nat := fieldAt b 0x14 4
def tenant (b : List Byte) : Nat := fieldAt b 0x18 8
def ownerKey (b : List Byte) : List Byte := (b.drop 0x40).take 64
def count (b : List Byte) : Nat := fieldAt b 0x0A 2
def signed (b : List Byte) : List Byte := b.take (signedSize b)
def signature (b : List Byte) : List Byte := (b.drop (signedSize b)).take 64

/-- The full digest (R469). -/
def digest (b : List Byte) : List Byte := sha256 (signed b)

/-- The short digest (R469). -/
def short (b : List Byte) : Nat := ofBytes ((digest b).take 8)

/-- Code 1. -/
def headerOk (b : List Byte) : Bool :=
  b.take 8 == ascii ['G', 'L', 'S', 'H', 'A', 'P', 'E', '1'] && fieldAt b 8 2 == 1 && decide (b.length ≥ 256)
    && zeroAt b 0x0C 4 && zeroAt b 0x28 24 && zeroAt b 0xA0 96

/-- Code 2. -/
def sizeOk (b : List Byte) : Bool :=
  signedSize b % 64 == 0 && decide (signedSize b ≤ 0x200000) && decide (signedSize b + 64 ≤ b.length)

/-- A section-table entry. -/
structure Sect where
  typ : Nat
  optional : Bool
  off : Nat
  size : Nat
  deriving DecidableEq, Repr

def sect (b : List Byte) (i : Nat) : Sect :=
  let o := 0x100 + 16 * i
  { typ := fieldAt b o 2, optional := bit (fieldAt b (o + 2) 2) 0, off := fieldAt b (o + 4) 4, size := fieldAt b (o + 8) 4 }

def sects (b : List Byte) : List Sect := (List.range (count b)).map (sect b)

/-- A type of Table 16.2. -/
def known (typ : Nat) : Bool := decide (1 ≤ typ) && decide (typ ≤ 12)

/-- Code 6: the first entry at fault. -/
def tableVerdict (b : List Byte) : Verdict :=
  let n := count b
  if n = 0 ∨ n > 16 then { code := 6, detail := 0 }
  else
    let ss := sects b
    let bad := (List.range n).find? (fun i =>
      let x := sect b i
      let before := ss.take i
      x.off % 64 != 0 || decide (x.off < 0x100 + 16 * n) || decide (x.off + x.size > signedSize b)
        || before.any (fun y => decide (x.off < y.off + y.size) && decide (y.off < x.off + x.size))
        || before.any (fun y => y.typ == x.typ) || (!known x.typ && !x.optional))
    match bad with
    | some i => { code := 6, detail := i }
    | none => accepted

/-- The bytes of a section, if the image has it. -/
def sectBytes (b : List Byte) (typ : Nat) : Option (List Byte) :=
  ((sects b).find? (fun x => x.typ == typ)).map (fun x => (b.drop x.off).take x.size)

def body (b : List Byte) (typ : Nat) : List Byte := (sectBytes b typ).getD []

def has (b : List Byte) (typ : Nat) : Bool := (sectBytes b typ).isSome

/-- Code 7. -/
def requiredVerdict (b : List Byte) : Verdict :=
  firstBad ([1, 2, 5, 6].map (fun t => need (has b t) 7 t))

/-! Sections. -/

/-- The image's own tag table. -/
def tag (b : List Byte) (t : Nat) : TagEntry :=
  let x := (body b 2).drop (32 * t)
  TagEntry.ofWords (fieldAt x 0 8) (fieldAt x 8 8) (fieldAt x 16 8) (fieldAt x 24 8)

/-- A tag that a section names is allocated (R468). -/
def tagOk (b : List Byte) (t : Nat) : Bool := decide (t < 4096) && (tag b t).valid

/-- The same for a field in which 0xFFFF names none. -/
def tagOrNone (b : List Byte) (t : Nat) : Bool := t == 0xFFFF || tagOk b t

/-- The RUN registers by their offsets, in the order of Table 16.3. -/
def runRegs : List Nat := [0x200100, 0x200160, 0x600008, 0x600018, 0x700008, 0x800020, 0x800028, 0x800030]

/-- The bits of a register that its fields cover. -/
def regMask (off : Nat) : Nat := (regFields groups off).foldl (fun m f => m ||| ((2 ^ f.width - 1) <<< f.lsb)) 0

/-- A value sets no reserved bit of a register. -/
def regOk (off v : Nat) : Bool := (v ||| regMask off) == regMask off

def runOk (b : List Byte) : Bool :=
  let r := body b 1
  r.length == 128 && fieldAt r 0 4 != 0 && zeroAt r 0x0E 2 && tagOrNone b (fieldAt r 0x10 2)
    && tagOrNone b (fieldAt r 0x12 2) && zeroAt r 0x14 12 && zeroAt r 0x60 32
    && runRegs.zipIdx.all (fun p => regOk p.1 (fieldAt r (0x20 + 8 * p.2) 8))

/-- Entry `n` of a section of entries of `size` bytes. -/
def entry (bs : List Byte) (size n : Nat) : Nat := fieldAt bs (size * n) size

/-- A section is a whole number of entries, from one to a limit (R556). -/
def wholeEntries (bs : List Byte) (size limit : Nat) : Bool :=
  bs.length % size == 0 && decide (size ≤ bs.length) && decide (bs.length ≤ size * limit)

/-- No value of a list stands in it twice. -/
def noRepeat : List Nat → Bool
  | [] => true
  | x :: xs => !xs.contains x && noRepeat xs

def accumOk (b : List Byte) : Bool :=
  let a := body b 4
  let es := (List.range (a.length / 8)).map (entry a 8)
  wholeEntries a 8 256
    && es.all (fun e => (tag b (bits e 0 12)).valid && (tag b (bits e 0 12)).place == 2
        && (bits e 12 4 == 0 || bits e 12 4 == 10) && bits e 17 15 == 0 && bits e 48 16 == 0)
    && noRepeat ((es.filter (fun e => bit e 16)).map (fun e => bits e 32 16))

/-- The instruction counts of the four sequencers, and the hooks. -/
def progLens (p : List Byte) : List Nat := [fieldAt p 0 2, fieldAt p 2 2, fieldAt p 4 2, fieldAt p 6 2]
def progInsns (p : List Byte) : Nat := (progLens p).foldl (· + ·) 0
def progHooks (p : List Byte) : Nat := fieldAt p 8 2

/-- Hook entry `n`. -/
def hook (p : List Byte) (n : Nat) : Nat := fieldAt p (64 + 16 * progInsns p + 8 * n) 8

def programsOk (b : List Byte) : Bool :=
  let p := body b 5
  let hs := (List.range (progHooks p)).map (hook p)
  decide (64 ≤ p.length) && (progLens p).all (fun n => decide (n ≤ 4096)) && decide (progHooks p ≤ 256) && zeroAt p 10 54
    && p.length == 64 + 16 * progInsns p + 8 * progHooks p + 256
    && hs.all (fun h => tagOk b (bits h 0 12) && bits h 14 2 == 0 && bits h 28 36 == 0)
    && noRepeat (hs.map (fun h => bits h 0 12))

/-- A tag entry against R202. -/
def tagEntryOk (w0 w1 w2 w3 : Nat) : Bool :=
  let e := TagEntry.ofWords w0 w1 w2 w3
  if !e.valid then w0 == 0 && w1 == 0 && w2 == 0 && w3 == 0
  else
    e.place != 3 && (e.init == 0 || e.init == 2)
      && (match e.place with
          | 0 => e.firstSlice % 2 ^ e.span == 0 && decide (e.firstSlice + 2 ^ e.span ≤ 64)
              && decide (e.base * 4096 + ceilDiv (e.size * 2) (2 ^ e.span) * 2048 ≤ 0x400000)
          | 1 => decide ((e.base + e.size) * 4096 ≤ 0xC000000000)
          | _ => decide ((e.base + e.size) * 4096 ≤ 0x2000000))
      && (e.slots == 0 || (e.slots * e.slotSize == e.size && e.nclose != 0 && e.ndrain != 0))
      && decide (e.slots ≤ 64) && e.size != 0
      && decide (e.producer ≤ 0x0D) && decide (e.consumer ≤ 0x0D)
      && bits w0 17 3 == 0 && bits w0 48 16 == 0 && bits w1 35 1 == 0 && bits w1 56 8 == 0 && bits w2 48 16 == 0
      && bits w3 24 40 == 0

/-- The first index below `n` that fails; else the entry of a wrong size, if there is one. -/
def entriesVerdict (code size limit : Nat) (bs : List Byte) (ok : Nat → Bool) : Verdict :=
  let n := min limit (bs.length / size)
  match (List.range n).find? (fun i => !ok i) with
  | some i => { code := code, detail := i }
  | none => need (wholeEntries bs size limit) code n

def tagsVerdict (b : List Byte) : Verdict :=
  let t := body b 2
  entriesVerdict 9 32 4096 t (fun i =>
    let x := t.drop (32 * i)
    tagEntryOk (fieldAt x 0 8) (fieldAt x 8 8) (fieldAt x 16 8) (fieldAt x 24 8))

/-- The eight words of descriptor `i`. -/
def descWordsAt (d : List Byte) (i : Nat) : List Nat := (List.range 8).map (fun w => fieldAt d (64 * i + 8 * w) 8)

def descsVerdict (b : List Byte) : Verdict :=
  let d := body b 3
  entriesVerdict 10 64 4096 d (fun i =>
    let ws := descWordsAt d i
    ws.all (· == 0) || (Desc.ofWords ws).refusal (tag b) == 0)

def axisSizes (t : List Byte) : List Nat := [fieldAt t 1 1, fieldAt t 2 1, fieldAt t 3 1, fieldAt t 4 1]

def placeCount (t : List Byte) : Nat := (axisSizes t).foldl (· * ·) 1

/-- The identifiers of the position table. -/
def places (t : List Byte) : List Nat := (List.range (placeCount t)).map (fun p => fieldAt t (64 + 2 * p) 2)

def topologyOk (b : List Byte) : Bool :=
  let t := body b 6
  let ks := [bits (fieldAt t 6 2) 0 4, bits (fieldAt t 6 2) 4 4, bits (fieldAt t 6 2) 8 4, bits (fieldAt t 6 2) 12 4]
  let n := placeCount t
  decide (64 ≤ t.length) && (fieldAt t 0 1 == 1 || fieldAt t 0 1 == 2)
    && decide (1 ≤ fieldAt t 1 1) && decide (fieldAt t 1 1 ≤ 4)
    && [2, 3, 4].all (fun o => decide (1 ≤ fieldAt t o 1) && decide (fieldAt t o 1 ≤ 16))
    && decide (n ≤ (if fieldAt t 0 1 = 1 then 64 else 16384))
    && zeroAt t 5 1 && zeroAt t 0x0A 2 && zeroAt t 0x0F 1 && zeroAt t 0x10 48
    && (List.range 4).all (fun a => decide ((ks.filter (fun k => bit k a)).length ≤ 1))
    && decide (fieldAt t 8 2 < n) && t.length == 64 + 2 * n
    && noRepeat ((places t).filter (fun i => i != 0xFFFF))

def reductionOk (b : List Byte) : Bool :=
  let r := body b 7
  let c := fieldAt r 2 2
  r.length == 32 && (c == 0xFFFF || (tagOk b c && (tag b c).place == 2)) && zeroAt r 4 4 && zeroAt r 0x18 8
    && (List.range 4).all (fun g => decide (fieldAt r (8 + 4 * g) 4 < 2 ^ 31))

def windowsOk (b : List Byte) : Bool :=
  let w := body b 8
  wholeEntries w 16 256 && (List.range (w.length / 16)).all (fun n =>
    let w0 := fieldAt w (16 * n) 8
    let w1 := fieldAt w (16 * n + 8) 8
    bits w0 16 48 == 0 && (fieldAt (body b 6) 0 1 != 2 || bits w1 8 56 == 0) && (!bit w0 15 || tagOk b (bits w0 0 12)))

def recoveryOk (b : List Byte) : Bool :=
  let r := body b 12
  wholeEntries r 4 4096 && (List.range (r.length / 4)).all (fun n =>
    let e := entry r 4 n
    tagOk b (bits e 0 12) && bits e 20 12 == 0)

/-- The patch size of a recipe (Table 13.4). -/
def patchSize (w0 : Nat) : Nat :=
  match bits w0 0 2 with
  | 0 => 8
  | 1 => 14
  | 2 => 16
  | _ => 32

/-- The rules of R392. -/
def recipeOk (w0 w2 : Nat) : Bool :=
  let p := patchSize w0
  let ow := bits w0 16 16
  let oh := bits w0 32 16
  ow % p == 0 && oh % p == 0 && decide (ow ≤ 4096) && decide (oh ≤ 4096) && bits w0 48 8 != 0 && bits w2 0 16 != 0
    && decide (bits w2 0 16 * (ow / p) * (oh / p) ≤ 2 ^ 20)

/-- The tags of an INGEST section: each allocated, the manifest and the fetch tag in stack memory (R382, R384, R468). -/
def ingestTagsOk (b : List Byte) : Bool :=
  let at_ := fun o => fieldAt (body b 9) o 2
  [0x24, 0x26, 0x2C, 0x2E, 0x30, 0x32].all (fun o => tagOrNone b (at_ o))
    && [0x24, 0x26].all (fun o => at_ o == 0xFFFF || (tag b (at_ o)).place == 1)

/-- The tag of a SHUFFLE section. -/
def shuffleTagOk (b : List Byte) : Bool := tagOrNone b (fieldAt (body b 10) 0x28 2)

/-- A port's address: of an IPv4 one the rest is zero (Table 16.6). -/
def addressOk (g : List Byte) (port : Nat) : Bool := bit (fieldAt g 0x20 1) port || zeroAt g (16 * port + 4) 12

def ingestOk (b : List Byte) : Bool :=
  let g := body b 9
  decide (0x440 ≤ g.length) && decide (fieldAt g 0x22 2 ≤ 4096) && g.length == 0x440 + 64 * fieldAt g 0x22 2
    && bits (fieldAt g 0x20 1) 2 6 == 0 && (decide (fieldAt g 0x21 1 ≤ 7) || fieldAt g 0x21 1 == 0xFF)
    && addressOk g 0 && addressOk g 1 && zeroAt g 0x34 12
    && (List.range 16).all (fun i => recipeOk (fieldAt g (0x40 + 64 * i) 8) (fieldAt g (0x40 + 64 * i + 16) 8))

def shuffleOk (b : List Byte) : Bool :=
  let h := body b 10
  let n := fieldAt h 0 8
  let bb := fieldAt h 8 4
  let gs := fieldAt h 0x0C 4
  let groups := fieldAt h 0x30 4
  decide (0x40 ≤ h.length) && decide (1 ≤ n) && decide (n ≤ 2 ^ 32) && gs != 0 && bb % gs == 0 && groups == bb / gs
    && decide (fieldAt h 0x12 2 < fieldAt h 0x10 2) && zeroAt h 0x34 12
    && h.length == 0x40 + 2 * groups * fieldAt h 0x2A 2

def cadenceVerdict (b : List Byte) : Verdict :=
  let c := body b 11
  entriesVerdict 14 16 64 c (fun i =>
    let w := fieldAt c (16 * i + 8) 8
    bits w 1 2 != 3 && bits w 3 5 == 0 && bits w 27 37 == 0)

/-- A check of an optional section. -/
def ifHas (b : List Byte) (typ : Nat) (v : Verdict) : Verdict := if has b typ then v else accepted

/-- Codes 6 to 14: what the sections say (R464 to R468, R556). -/
def sectionsVerdict (b : List Byte) : Verdict :=
  let v := firstBad [tableVerdict b, requiredVerdict b]
  if v.code ≠ 0 then v
  else firstBad
    [need (runOk b) 8 1, ifHas b 4 (need (accumOk b) 8 4), need (programsOk b) 8 5, tagsVerdict b,
     ifHas b 3 (descsVerdict b), need (topologyOk b) 11 0, ifHas b 7 (need (reductionOk b) 12 7),
     ifHas b 8 (need (windowsOk b) 12 8), ifHas b 9 (need (ingestTagsOk b) 12 9), ifHas b 10 (need (shuffleTagOk b) 12 10),
     ifHas b 12 (need (recoveryOk b) 12 12),
     ifHas b 9 (need (ingestOk b) 13 9), ifHas b 10 (need (shuffleOk b) 13 10), ifHas b 11 (cadenceVerdict b)]

end ImageFile

/-! Owner keys (R470). -/

/-- The digest in an owner-key slot of the fuses and whether it is revoked; slot 0 is written at manufacture. -/
def ownerSlot (s : State) (n : Nat) : Option (List Byte × Bool) :=
  match FMap.find s.ctl.owners n with
  | some o => some o
  | none => if n = 0 then some (Config.ownerKey, false) else none

/-- A public key is that of a live slot. -/
def liveKey (s : State) (key : List Byte) : Bool :=
  (List.range 4).any (fun n =>
    match ownerSlot s n with
    | some (d, revoked) => !revoked && d == sha256 key
    | none => false)

/-- The version of the running firmware. -/
def fwVersion (s : State) : Nat := (s.ctl.firmware.map (·.version)).getD 0

/-- An image verified and validated: the first code in numerical order (R475). -/
def judgeImage (s : State) (b : List Byte) : Verdict :=
  if !ImageFile.headerOk b then { code := 1, detail := 0 }
  else if !ImageFile.sizeOk b then { code := 2, detail := 0 }
  else if !liveKey s (ImageFile.ownerKey b) then { code := 3, detail := 0 }
  else if !ecdsaOk (ImageFile.ownerKey b) (sha256 (ImageFile.signed b)) (ImageFile.signature b) then { code := 4, detail := 0 }
  else if ImageFile.minFw b > fwVersion s then { code := 5, detail := 0 }
  else ImageFile.sectionsVerdict b

/-- A verified image in its parts. -/
def parseImage (b : List Byte) : Image :=
  { digest := ImageFile.digest b, tenant := ImageFile.tenant b, minFw := ImageFile.minFw b
    sections := ((List.range 12).map (· + 1)).filterMap (fun t => (ImageFile.sectBytes b t).map (fun x => (t, x))) }

/-- The image record of a slot. -/
def slotImage (s : State) (slot : Nat) : Option (List Byte) := journalGet s.ctl.journal recIMAGE slot

/-- The lowest slot that holds an image of a short digest. -/
def slotOf (s : State) (short : Nat) : Option Nat :=
  (List.range 64).find? (fun n =>
    match slotImage s n with
    | some b => ImageFile.short b == short
    | none => false)

end Sys2Proof.Machine
end

