-- ==== Sys2Proof/Machine/Container.lean ====
section
/-!
DEFINITION. Machine/Container.lean: what the demultiplexer finds in the bytes fetched for a sample (13 R385, R386, R397): the coded units of its
video, in the order of the stream, its errors, and its audio. The forms of ISO/IEC 13818-1 and of ISO/IEC 14496-12 stand in those standards and
not in the spec.
-/

namespace Sys2Proof.Machine

/-- A PES packet or a sample of the video: whether it is errored, and its presentation time in units of 90 kHz where it has one. -/
structure CodedUnit where
  errored : Bool
  pts : Option Nat
  deriving DecidableEq, Repr

/-- What has been found in a container: its errors (ING_PARSE_ERR_CNT), whether decoding may start, the codec of the video (Table 13.5; none where no
video that Table 13.3 knows has been found), whether it is encrypted, its coded units, and the payload of its first audio stream. -/
structure Demux where
  errors : Nat
  ready : Bool
  codec : Option Nat
  encrypted : Bool
  units : List CodedUnit
  audio : List Byte
  deriving DecidableEq, Repr

/-- The `n` bytes at `at_`, most significant first. -/
def beAt (b : List Byte) (at_ n : Nat) : Nat := ofBytesBE ((b.drop at_).take n)

/-- Units of audio in the order of their presentation times; one without a time follows the one before it. -/
def inPresentation : Nat → List (Option Nat × List Byte) → List (Nat × List Byte)
  | _, [] => []
  | t, (p, b) :: rest =>
    let t := p.getD t
    let later := inPresentation t rest
    later.takeWhile (fun e => decide (e.1 < t)) ++ (t, b) :: later.dropWhile (fun e => decide (e.1 < t))

/-! Transport streams (R385). -/

/-- The packets of a stream. Sync is declared after three sync bytes at the spacing of 188, and is lost at a packet that does not begin with
one. The first number exceeds the bytes. [DESIGN CHOICE, log entry 165] -/
def tsPackets : Nat → Bool → List Byte → List (List Byte)
  | 0, _, _ => []
  | n + 1, true, b =>
    if b.length < 188 then []
    else if beAt b 0 1 = 0x47 then b.take 188 :: tsPackets n true (b.drop 188)
    else tsPackets n false (b.drop 1)
  | n + 1, false, b =>
    if b.length < 377 then []
    else if beAt b 0 1 = 0x47 ∧ beAt b 188 1 = 0x47 ∧ beAt b 376 1 = 0x47 then b.take 188 :: tsPackets n true (b.drop 188)
    else tsPackets n false (b.drop 1)

/-- The CRC of a section taken over all of its bytes: 0 where it holds. -/
def sectionCrc (b : List Byte) : Nat :=
  b.foldl (fun c x => iter (fun c => if c < 2 ^ 31 then 2 * c else (2 * c) % 2 ^ 32 ^^^ 0x04C11DB7) 8 (c ^^^ (x.toNat * 2 ^ 24))) 0xFFFFFFFF

/-- An elementary stream listed in a PMT: its type, its PID, whether it has the AV1 registration, and whether it is declared scrambled. -/
structure TsStream where
  typ : Nat
  pid : Nat
  av1 : Bool
  ca : Bool
  deriving DecidableEq, Repr

/-- The codec of a video stream that Table 13.3 knows (R385). -/
def TsStream.codec (e : TsStream) : Option Nat :=
  match e.typ with
  | 0x02 => some 0
  | 0x1B => some 1
  | 0x24 => some 2
  | _ => if e.av1 then some 3 else none

def TsStream.isAudio (e : TsStream) : Bool := [0x03, 0x04, 0x0F, 0x11].contains e.typ

/-- A descriptor of a tag, and with the given first bytes, stands in a loop of descriptors. -/
def hasDescriptor (tag : Nat) (start : List Byte) : Nat → List Byte → Bool
  | 0, _ => false
  | n + 1, b =>
    if b.length < 2 then false
    else (beAt b 0 1 == tag && (b.drop 2).take start.length == start) || hasDescriptor tag start n (b.drop (2 + beAt b 1 1))

def hasCa (b : List Byte) : Bool := hasDescriptor 9 [] b.length b

/-- The streams of a PMT. -/
def pmtStreams (ca : Bool) : Nat → List Byte → List TsStream
  | 0, _ => []
  | n + 1, b =>
    if b.length < 5 then []
    else
      let ds := (b.drop 5).take (beAt b 3 2 % 4096)
      { typ := beAt b 0 1, pid := beAt b 1 2 % 8192, av1 := hasDescriptor 5 [0x41, 0x56, 0x30, 0x31] ds.length ds, ca := ca || hasCa ds }
        :: pmtStreams ca n (b.drop (5 + ds.length))

/-- The PIDs of the PMTs that a PAT lists. -/
def patPids : Nat → List Byte → List Nat
  | 0, _ => []
  | n + 1, b => if b.length < 4 then [] else (if beAt b 0 2 = 0 then [] else [beAt b 2 2 % 8192]) ++ patPids n (b.drop 4)

/-- The demultiplexer of a transport stream: the PMT PIDs of the PAT, the PMTs found, the sections in progress; the video and the audio chosen; the last
continuity counter of the video; the PES packets, newest first: of the video whether each is errored and its first bytes, of the audio its bytes; and
the errors. -/
structure TsDemux where
  pat : List Nat
  pmts : FMap (List TsStream)
  open_ : FMap (List Byte)
  video : Option TsStream
  audio : Option Nat
  cc : Option Nat
  pes : List (Bool × List Byte)
  apes : List (List Byte)
  errors : Nat
  deriving DecidableEq, Repr

/-- The first program, in the order of the PAT, that carries the PID asked for, or a video stream where none is asked for; none while a PMT before it
has not been found. [DESIGN CHOICE, log entry 165] -/
def chooseProgram (m : FMap (List TsStream)) (select : Nat) : List Nat → Option (TsStream × List TsStream)
  | [] => none
  | p :: ps =>
    match FMap.find m p with
    | none => none
    | some es =>
      match es.find? (fun e => if select = 0 then e.codec.isSome else e.pid == select) with
      | some e => some (e, es)
      | none => chooseProgram m select ps

/-- A section of a table. One whose CRC_32 fails is counted and discarded. -/
def takeSection (select pid : Nat) (t : TsDemux) (b : List Byte) : TsDemux :=
  let body := b.take (b.length - 4)
  if sectionCrc b ≠ 0 then { t with errors := t.errors + 1 }
  else
    let t :=
      if pid = 0 then (if beAt b 0 1 = 0 then { t with pat := patPids b.length (body.drop 8) } else t)
      else if beAt b 0 1 = 2 then
        let n := beAt b 10 2 % 4096
        { t with pmts := FMap.put t.pmts pid (pmtStreams (hasCa ((body.drop 12).take n)) b.length (body.drop (12 + n))) }
      else t
    if t.video.isSome then t
    else match chooseProgram t.pmts select t.pat with
      | none => t
      | some (e, es) => { t with video := some e, audio := (es.find? (·.isAudio)).map (·.pid) }

/-- The whole sections at the head of the bytes of a PID, and the bytes of the one that has begun. -/
def cutSections : Nat → List Byte → List (List Byte) × List Byte
  | 0, b => ([], b)
  | n + 1, b =>
    let len := 3 + beAt b 1 2 % 4096
    if b = [] ∨ beAt b 0 1 = 0xFF then ([], [])
    else if b.length < 3 ∨ b.length < len then ([], b)
    else
      let r := cutSections n (b.drop len)
      (b.take len :: r.1, r.2)

/-- The payload of a packet that carries tables. -/
def takeTables (select pid : Nat) (start : Bool) (payload : List Byte) (t : TsDemux) : TsDemux :=
  let feed := fun (t : TsDemux) (b : List Byte) =>
    let r := cutSections b.length b
    r.1.foldl (takeSection select pid) { t with open_ := if r.2 = [] then FMap.del t.open_ pid else FMap.put t.open_ pid r.2 }
  let old := (FMap.find t.open_ pid).getD []
  if !start then (if old = [] then t else feed t (old ++ payload))
  else
    let p := beAt payload 0 1
    let t := if old = [] then t else feed t (old ++ (payload.drop 1).take p)
    feed { t with open_ := FMap.del t.open_ pid } (payload.drop (1 + p))

/-- The PES packet of the video in progress is errored. -/
def TsDemux.spoil (t : TsDemux) : TsDemux :=
  match t.pes with
  | [] => t
  | p :: ps => { t with pes := (true, p.2) :: ps }

/-- A packet: scrambled ones are dropped and counted, and so are gaps of the video's continuity counter; a packet sent twice is taken once. -/
def takeTsPacket (select : Nat) (t : TsDemux) (p : List Byte) : TsDemux :=
  let pid := beAt p 1 2 % 8192
  let start := bit (beAt p 1 1) 6
  let flags := beAt p 3 1
  let cc := flags % 16
  let isVideo := t.video.map (·.pid) = some pid
  if bits flags 6 2 ≠ 0 then
    let t := { t with errors := t.errors + 1 }
    if isVideo then { t.spoil with cc := some cc } else t
  else if !bit flags 4 then t
  else
    let payload := p.drop (if bit flags 5 then 5 + beAt p 4 1 else 4)
    if pid = 0 ∨ t.pat.contains pid then takeTables select pid start payload t
    else if isVideo then
      if t.cc = some cc then t
      else
        let gap := t.cc.isSome && t.cc != some ((cc + 15) % 16) && !(bit flags 5 && decide (0 < beAt p 4 1) && bit (beAt p 5 1) 7)
        let t := { (if gap then { t.spoil with errors := t.errors + 1 } else t) with cc := some cc }
        if start then { t with pes := (false, payload.take 19) :: t.pes }
        else match t.pes with
          | [] => t
          | e :: es => { t with pes := (e.1, (e.2 ++ payload).take 19) :: es }
    else if t.audio = some pid then
      if start then { t with apes := payload :: t.apes }
      else match t.apes with
        | [] => t
        | e :: es => { t with apes := (e ++ payload) :: es }
    else t

/-- The presentation time of a PES header. -/
def pesTime (b : List Byte) : Option Nat :=
  if bit (beAt b 7 1) 7 ∧ 14 ≤ b.length then
    some (bits (beAt b 9 1) 1 3 * 2 ^ 30 + beAt b 10 2 / 2 * 2 ^ 15 + beAt b 12 2 / 2)
  else none

def demuxTs (select : Nat) (b : List Byte) : Demux :=
  let t := (tsPackets b.length false b).foldl (takeTsPacket select)
    { pat := [], pmts := [], open_ := [], video := none, audio := none, cc := none, pes := [], apes := [], errors := 0 }
  { errors := t.errors, ready := t.video.isSome, codec := t.video.bind (·.codec), encrypted := (t.video.map (·.ca)).getD false
    units := t.pes.reverse.map (fun p => { errored := p.1, pts := pesTime p.2 })
    audio := (inPresentation 0 (t.apes.reverse.map (fun p => (pesTime p, p.drop (9 + beAt p 8 1))))).flatMap (·.2) }

/-! ISO base media files (R386). -/

/-- A box: its type, and the range of its payload. -/
structure IsoBox where
  typ : Nat
  lo : Nat
  hi : Nat
  deriving DecidableEq, Repr

/-- The boxes from `lo` to `hi` whose headers have arrived, and whether one overruns its parent, which ends them. The first number exceeds the
bytes. -/
def isoBoxes (b : List Byte) (hi : Nat) : Nat → Nat → List IsoBox × Bool
  | 0, _ => ([], false)
  | n + 1, lo =>
    let size32 := beAt b lo 4
    let head := if size32 = 1 then 16 else 8
    if hi < lo + 8 ∨ b.length < lo + head then ([], false)
    else
      let size := if size32 = 1 then beAt b (lo + 8) 8 else if size32 = 0 then hi - lo else size32
      if size < head ∨ hi < lo + size then ([], true)
      else
        let r := isoBoxes b hi n (lo + size)
        ({ typ := beAt b (lo + 4) 4, lo := lo + head, hi := lo + size } :: r.1, r.2)

/-- The boxes of a box. -/
def IsoBox.kids (b : List Byte) (x : IsoBox) : List IsoBox × Bool := isoBoxes b x.hi b.length x.lo

/-- The types of the boxes that hold boxes: moov, trak, mdia, minf, stbl, mvex, moof, traf. -/
def isoParents : List Nat :=
  [0x6D6F6F76, 0x7472616B, 0x6D646961, 0x6D696E66, 0x7374626C, 0x6D766578, 0x6D6F6F66, 0x74726166]

/-- The boxes of a box, and theirs, as deep as `n` levels of boxes that hold boxes. -/
def IsoBox.overruns (b : List Byte) : Nat → IsoBox → Nat
  | 0, _ => 0
  | n + 1, x =>
    let r := x.kids b
    b2n r.2 + ((r.1.filter (fun k => isoParents.contains k.typ)).map (IsoBox.overruns b n)).sum

/-- The first box of a type among boxes, and the boxes down a path of types. -/
def isoFind (typ : Nat) (xs : List IsoBox) : Option IsoBox := xs.find? (fun x => x.typ == typ)

def isoPath (b : List Byte) : List Nat → IsoBox → Option IsoBox
  | [], x => some x
  | t :: ts, x => (isoFind t (x.kids b).1).bind (isoPath b ts)

/-- Runs of a number of equal values (stts, ctts), at most `n` of them spelled out. -/
def isoRuns (b : List Byte) (x : IsoBox) : List Nat :=
  (List.range (min (beAt b (x.lo + 4) 4) ((x.hi - x.lo) / 8))).flatMap (fun i =>
    List.replicate (beAt b (x.lo + 8 + 8 * i) 4) (beAt b (x.lo + 12 + 8 * i) 4))

/-- A sample of a track: its place and size, its duration, and what its presentation lies after its decoding. -/
structure IsoSample where
  off : Nat
  size : Nat
  time : Nat
  shift : Int
  deriving DecidableEq, Repr

/-- The samples of chunk after chunk: each takes as many of the sizes as the sample-to-chunk table gives it. -/
def isoChunks (per : Nat → Nat) : Nat → List Nat → List Nat → List (Nat × Nat)
  | _, [], _ => []
  | c, o :: os, sizes =>
    let mine := sizes.take (per c)
    (mine.foldl (fun (a : List (Nat × Nat) × Nat) n => (a.1 ++ [(a.2, n)], a.2 + n)) ([], o)).1
      ++ isoChunks per (c + 1) os (sizes.drop (per c))

/-- The samples that a track's tables list, in decoding order. -/
def isoTable (b : List Byte) (stbl : IsoBox) : List IsoSample :=
  let kids := (stbl.kids b).1
  let rows := fun (x : IsoBox) n at_ => (List.range (min (beAt b (x.lo + 4) 4) ((x.hi - x.lo) / n))).map (fun i => beAt b (x.lo + 8 + n * i + at_) 4)
  let offsets := match isoFind 0x7374636F kids, isoFind 0x636F3634 kids with
    | some x, _ => rows x 4 0
    | none, some x => (List.range (min (beAt b (x.lo + 4) 4) ((x.hi - x.lo) / 8))).map (fun i => beAt b (x.lo + 8 + 8 * i) 8)
    | none, none => []
  let sizes := match isoFind 0x7374737A kids with
    | none => []
    | some x =>
      let one := beAt b (x.lo + 4) 4
      (List.range (min (beAt b (x.lo + 8) 4) (if one = 0 then (x.hi - x.lo) / 4 else b.length))).map (fun i =>
        if one = 0 then beAt b (x.lo + 12 + 4 * i) 4 else one)
  let stsc := match isoFind 0x73747363 kids with
    | none => []
    | some x => (rows x 12 0).zip (rows x 12 4)
  let per := fun c => ((stsc.filter (fun e => decide (e.1 ≤ c))).getLast?.map (·.2)).getD 0
  let deltas := ((isoFind 0x73747473 kids).map (isoRuns b)).getD []
  let shifts := ((isoFind 0x63747473 kids).map (isoRuns b)).getD []
  (isoChunks per 1 offsets sizes).zipIdx.map (fun e =>
    { off := e.1.1, size := e.1.2, time := (deltas.take e.2).sum, shift := signed 32 (shifts.getD e.2 0) })

/-- A track of a movie: its identifier, its handler, its time scale, its sample entry, and the samples that its tables list. -/
structure IsoTrack where
  id : Nat
  handler : Nat
  scale : Nat
  entry : Nat
  table : List IsoSample
  deriving DecidableEq, Repr

def isoTrack (b : List Byte) (trak : IsoBox) : Option IsoTrack :=
  match isoPath b [0x746B6864] trak, isoPath b [0x6D646961, 0x6D646864] trak, isoPath b [0x6D646961, 0x68646C72] trak,
      isoPath b [0x6D646961, 0x6D696E66, 0x7374626C] trak with
  | some tkhd, some mdhd, some hdlr, some stbl =>
    let at_ := fun (x : IsoBox) => x.lo + (if beAt b x.lo 1 = 1 then 20 else 12)
    some { id := beAt b (at_ tkhd) 4, handler := beAt b (hdlr.lo + 8) 4, scale := beAt b (at_ mdhd) 4
           entry := ((isoPath b [0x73747364] stbl).map (fun x => beAt b (x.lo + 12) 4)).getD 0, table := isoTable b stbl }
  | _, _, _, _ => none

/-- The fields of a track run: which of them are there, and their bytes before one of them. -/
def flagBytes (flags : Nat) (fs : List (Nat × Nat)) : Nat := (fs.map (fun f => if bit flags f.1 then f.2 else 0)).sum

/-- The samples of a track run. `base` and `next` are where its data lie with and without an offset of its own, `time` its decoding time. -/
def isoRun (b : List Byte) (trun : IsoBox) (base next time dur size : Nat) : List IsoSample :=
  let flags := beAt b (trun.lo + 1) 3
  let first := trun.lo + 8 + flagBytes flags [(0, 4), (2, 4)]
  let row := flagBytes flags [(8, 4), (9, 4), (10, 4), (11, 4)]
  let start := if bit flags 0 then (Int.ofNat base + signed 32 (beAt b (trun.lo + 8) 4)).toNat else next
  let count := min (beAt b (trun.lo + 4) 4) b.length
  ((List.range count).foldl (fun (a : List IsoSample × Nat × Nat) i =>
    let p := first + row * i
    let d := if bit flags 8 then beAt b p 4 else dur
    let n := if bit flags 9 then beAt b (p + flagBytes flags [(8, 4)]) 4 else size
    let c := if bit flags 11 then signed 32 (beAt b (p + flagBytes flags [(8, 4), (9, 4), (10, 4)]) 4) else 0
    (a.1 ++ [{ off := a.2.1, size := n, time := a.2.2, shift := c }], a.2.1 + n, a.2.2 + d)) ([], start, time)).1

/-- The samples of the fragments of a track, after those of its tables. `fallback` are the duration and size of its trex box. -/
def isoFragment (b : List Byte) (id : Nat) (fallback : Nat × Nat) (moof : IsoBox) (got : List IsoSample) : List IsoSample :=
  ((moof.kids b).1.filter (fun x => x.typ == 0x74726166)).foldl (fun got traf =>
    match isoPath b [0x74666864] traf with
    | none => got
    | some h =>
      if beAt b (h.lo + 4) 4 ≠ id then got
      else
        let flags := beAt b (h.lo + 1) 3
        let at_ := fun fs => h.lo + 8 + flagBytes flags fs
        let base := if bit flags 0 then beAt b (h.lo + 8) 8 else moof.lo - 8
        let dur := if bit flags 3 then beAt b (at_ [(0, 8), (1, 4)]) 4 else fallback.1
        let size := if bit flags 4 then beAt b (at_ [(0, 8), (1, 4), (3, 4)]) 4 else fallback.2
        let time := match isoPath b [0x74666474] traf with
          | some x => beAt b (x.lo + 4) (if beAt b x.lo 1 = 1 then 8 else 4)
          | none => (got.getLast?.map (fun x => x.time + dur)).getD 0
        got ++ (((traf.kids b).1.filter (fun x => x.typ == 0x7472756E)).foldl (fun (a : List IsoSample) trun =>
          let next := (a.getLast?.map (fun x => x.off + x.size)).getD base
          let t := (a.getLast?.map (fun x => x.time + dur)).getD time
          a ++ isoRun b trun base next t dur size) [])) got

/-- The codec that a sample entry names: mp4v, avc1, avc3, hvc1, hev1, av01. -/
def isoCodec (entry : Nat) : Option Nat :=
  if entry = 0x6D703476 then some 0
  else if entry = 0x61766331 ∨ entry = 0x61766333 then some 1
  else if entry = 0x68766331 ∨ entry = 0x68657631 then some 2
  else if entry = 0x61763031 then some 3
  else none

/-- The presentation time of a sample in units of 90 kHz. -/
def isoTime (t : IsoTrack) (x : IsoSample) : Nat := ((Int.ofNat x.time + x.shift).toNat * 90000) / max 1 t.scale

/-- A file of `len` bytes of which `b` have arrived. [PRESUMED, log entry 164] -/
def demuxIso (select len : Nat) (b : List Byte) : Demux :=
  let top := isoBoxes b len b.length 0
  let whole := top.1.filter (fun x => decide (x.hi ≤ b.length))
  let errors := b2n top.2 + ((whole.filter (fun x => isoParents.contains x.typ)).map (IsoBox.overruns b 5)).sum
  match isoFind 0x6D6F6F76 whole with
  | none => { errors := errors, ready := false, codec := none, encrypted := false, units := [], audio := [] }
  | some moov =>
    let tracks := ((moov.kids b).1.filter (fun x => x.typ == 0x7472616B)).filterMap (isoTrack b)
    let trex := fun id => match isoPath b [0x6D766578] moov with
      | none => (0, 0)
      | some m => match (m.kids b).1.find? (fun x => x.typ == 0x74726578 && beAt b (x.lo + 4) 4 == id) with
        | some x => (beAt b (x.lo + 12) 4, beAt b (x.lo + 16) 4)
        | none => (0, 0)
    let samples := fun (t : IsoTrack) => (whole.filter (fun x => x.typ == 0x6D6F6F66)).foldl (fun got m => isoFragment b t.id (trex t.id) m got) t.table
    let video := tracks.find? (fun t => if select = 0 then t.handler == 0x76696465 else t.id == select)
    let late := (top.1.takeWhile (fun x => x.typ != 0x6D6F6F76)).any (fun x => x.typ == 0x6D646174)
    { errors := errors, ready := video.isSome && (!late || b.length == len)
      codec := video.bind (fun t => isoCodec t.entry), encrypted := (video.map (fun t => t.entry == 0x656E6376)).getD false
      units := (video.map (fun t => (samples t).map (fun x =>
        { errored := decide (len < x.off + x.size), pts := some (isoTime t x) }))).getD []
      audio := match tracks.find? (fun t => t.handler == 0x736F756E) with
        | none => []
        | some t => (inPresentation 0 (((samples t).filter (fun x => decide (x.off + x.size ≤ b.length))).map (fun x =>
            (some (isoTime t x), (b.drop x.off).take x.size)))).flatMap (·.2) }

/-- The container of a sample of `len` bytes of which `b` have arrived (Table 13.2). [PRESUMED, log entry 164] -/
def demux (container select len : Nat) (b : List Byte) : Demux := if container = 1 then demuxIso select len b else demuxTs select b

end Sys2Proof.Machine
end

