-- ==== Sys2Proof/Machine/Attention.lean ====
section
/-!
DEFINITION. Machine/Attention.lean: the attention bits and what is raised with them: the MSI-X summary and the ALERT_L condition (17 R503, R505;
18 R526, R527, R531).
-/

namespace Sys2Proof.Machine

open Reg

/-- The value that a register's fields hold. -/
def regValue (s : State) (off : Nat) : Nat :=
  (regFields groups off).foldl (fun v f => v + s.get f * 2 ^ f.lsb) 0

/-- A write of a field under its access code (Table 0.7): a value, or ones that clear. -/
def writeField (s : State) (f : Field) (v : Nat) : State :=
  match f.acc with
  | .rw => s.set f v
  | .w1c => s.set f (s.get f &&& (2 ^ f.width - 1 - v % 2 ^ f.width))
  | .ro | .wo | .rc => s

/-- A write of the register at a control-space offset, field by field (R11, R16). -/
def writeFields (s : State) (off v : Nat) : State :=
  (regFields groups off).foldl (fun s f => writeField s f (bits v f.lsb f.width)) s

/-- Release step 4 has been reached since the last reset that resumes before it (Table 17.8). -/
def configured (s : State) : Bool := s.pwr.on && (s.get PWR_STATUS.RELEASE == 0 || decide (4 ≤ s.get PWR_STATUS.RELEASE))

/-- The ALERT_L condition. -/
def alertCond (s : State) : Bool := configured s && s.flag PWR_ALERT_CFG.ENABLE && regValue s 0xC00040 != 0

/-- The demand of a SELECT_SEND waits for its allocation (R165). -/
def demandPosted (s : State) : Bool := s.drv.posted.isSome && s.drv.alloc.isNone

/-- Bit 11: an operation that the host began runs, or a load or a switch awaits its boundary. -/
def opBusy (s : State) : Bool :=
  s.commitNow.isSome || s.flag CTL_IMG_STATUS.BUSY || s.flag CTL_FW_STATUS.BUSY || s.flag CTL_ATT_STATUS.BUSY
    || s.flag CTL_IMG_STATUS.PENDING || s.flag CTL_FW_STATUS.SWITCH_PENDING

/-- The attention bits (Table 18.4). -/
def attnBits (s : State) : Nat :=
  (s.get HST_ATTN.ATTN &&& 0b1110011011)
    ||| b2n (demandPosted s) * 2 ^ 2
    ||| b2n (regValue s 0xA00008 &&& regValue s 0xA00010 != 0) * 2 ^ 5
    ||| b2n (alertCond s) * 2 ^ 6
    ||| b2n (s.flag FLT_STATUS.WITHDRAWN) * 2 ^ 10
    ||| b2n (opBusy s) * 2 ^ 11

/-- The MSI-X summary. -/
def summary (s : State) : Bool := attnBits s &&& s.get HST_ATTN_EN.EN &&& 0b11111111111 != 0

/-- After what may lower the summary or the ALERT_L condition: a later rise is a rise again. -/
def noteFall (s : State) : State :=
  { s with host := { s.host with summary := s.host.summary && summary s, alert := s.host.alert && alertCond s } }

end Sys2Proof.Machine
end

