-- ==== Sys2Proof/Machine/Packet.lean ====
section
/-!
DEFINITION. Machine/Packet.lean: places in the torus, routes and trees, packets and the sending of them, notices to the
ringmaster, and the stopping of a step, which sends one (10 R295 to R307, R320; 15 R437, R441, R446).
-/

namespace Sys2Proof.Machine

open Reg

/-! The image in force. -/

/-- The bytes of a section of the loaded image; none where it is absent. -/
def imgSection (s : State) (typ : Nat) : List Byte :=
  match s.image with
  | none => []
  | some i => (FMap.find i.sections typ).getD []

/-- A field of a section of the loaded image. -/
def imgField (s : State) (typ off n : Nat) : Nat := ofBytes (((imgSection s typ).drop off).take n)

/-! Places (R298 to R302). -/

namespace Topology

def size (t : Topology) (a : Nat) : Nat := max 1 (t.sizes.getD a 1)

/-- The number of positions. -/
def count (t : Topology) : Nat := t.size 0 * t.size 1 * t.size 2 * t.size 3

/-- The coordinate of a position on an axis (R299). -/
def coord (t : Topology) (p a : Nat) : Nat :=
  match a with
  | 0 => p % t.size 0
  | 1 => p / t.size 0 % t.size 1
  | 2 => p / (t.size 0 * t.size 1) % t.size 2
  | _ => p / (t.size 0 * t.size 1 * t.size 2) % t.size 3

/-- The weight of a coordinate in a position's number. -/
def weight (t : Topology) (a : Nat) : Nat :=
  match a with
  | 0 => 1
  | 1 => t.size 0
  | 2 => t.size 0 * t.size 1
  | _ => t.size 0 * t.size 1 * t.size 2

/-- The position with coordinate `c` on an axis and `p`'s on the others. -/
def withCoord (t : Topology) (p a c : Nat) : Nat := p - t.coord p a * t.weight a + c * t.weight a

/-- The position one step along a direction (R300): even directions are +, odd ones −. -/
def neighbour (t : Topology) (p d : Nat) : Nat :=
  let a := d / 2
  let n := t.size a
  let c := t.coord p a
  t.withCoord p a (if d % 2 = 0 then (c + 1) % n else (c + n - 1) % n)

/-- The identifier at a position; 0xFFFF where it is vacant. -/
def idAt (t : Topology) (p : Nat) : Nat := t.ids.getD p 0xFFFF

/-- The position that holds an identifier (R299). -/
def posOf (t : Topology) (i : Nat) : Option Nat :=
  if i = 0xFFFF then none else t.ids.findIdx? (· == i)

/-- Steps from `c` to `c'` going up. -/
def upDist (t : Topology) (a c c' : Nat) : Nat := (c' + t.size a - c) % t.size a

/-- The direction of the shorter way from `c` to `c'` along an axis; `tiePlus` says which way a tie goes. -/
def shortDir (t : Topology) (a c c' : Nat) (tiePlus : Bool) : Nat :=
  let u := t.upDist a c c'
  let d := t.size a - u
  if u < d ∨ (u = d ∧ tiePlus) then 2 * a else 2 * a + 1

/-- Ring distance along an axis. -/
def ringDist (t : Topology) (a c c' : Nat) : Nat := min (t.upDist a c c') (t.size a - t.upDist a c c')

/-- The direction in which a packet leaves position `p` for position `q` (R303). -/
def hop (t : Topology) (p q : Nat) : Option Nat :=
  ([0, 1, 2, 3].find? (fun a => t.coord p a != t.coord q a)).map
    (fun a => t.shortDir a (t.coord p a) (t.coord q a) true)

/-- A position belongs to the group of `p` with an axis mask (R301). -/
def inGroup (t : Topology) (mask p q : Nat) : Bool :=
  [0, 1, 2, 3].all (fun a => bit mask a || t.coord p a == t.coord q a)

/-- The positions of the group of `p`. -/
def groupOf (t : Topology) (mask p : Nat) : List Nat := (List.range t.count).filter (t.inGroup mask p)

/-- The axis mask of a parallel kind: 0 tensor, 1 pipeline, 2 sequence, 3 replica (Table 16.4). -/
def kindMask (t : Topology) (k : Nat) : Nat := bits t.kinds (4 * k) 4

/-- The axis mask of reduction group `g` (Table 16.5). -/
def redMask (t : Topology) (g : Nat) : Nat := bits t.groups (4 * g) 4

/-- The ringmaster position of the group of `p`: its lowest position that holds an identifier (R320). -/
def ringmaster (t : Topology) (mask p : Nat) : Option Nat :=
  (t.groupOf mask p).find? (fun q => t.idAt q != 0xFFFF)

/-- The step toward the root `r` that corrects the first axis of `order` on which `p` differs, ties going − (R302). -/
def treeStep (t : Topology) (order : List Nat) (p r : Nat) : Option Nat :=
  (order.find? (fun a => t.coord p a != t.coord r a)).map
    (fun a => t.shortDir a (t.coord p a) (t.coord r a) false)

/-- The axes of a mask, in the order W, Z, Y, X or X, Y, Z, W. -/
def axesDown (mask : Nat) : List Nat := [3, 2, 1, 0].filter (bit mask)
def axesUp (mask : Nat) : List Nat := [0, 1, 2, 3].filter (bit mask)

/-- The path from `p` to `r` passes a vacant position (R446). -/
def pathVacant (t : Topology) (order : List Nat) (r : Nat) : Nat → Nat → Bool
  | 0, _ => false
  | fuel + 1, p =>
    match t.treeStep order p r with
    | none => false
    | some d =>
      let q := t.neighbour p d
      if q = r then false else t.idAt q == 0xFFFF || t.pathVacant order r fuel q

/-- The direction from a member to its parent in the tree of its group (R302, R446); none at the root, and where the
member is cut off. -/
def parentDir (t : Topology) (mask p : Nat) : Option Nat :=
  match t.ringmaster mask p with
  | none => none
  | some r =>
    if p = r then none
    else if (t.groupOf mask p).all (fun q => t.idAt q != 0xFFFF) then t.treeStep (axesDown mask) p r
    else if !t.pathVacant (axesDown mask) r t.count p then t.treeStep (axesDown mask) p r
    else if !t.pathVacant (axesUp mask) r t.count p then t.treeStep (axesUp mask) p r
    else match (axesUp mask).filter (fun a => t.coord p a != t.coord r a) with
      | [a] =>
        (match (axesUp mask).find? (fun b => b != a && decide (t.size b > 1)) with
         | some b => if t.idAt (t.neighbour p (2 * b)) = 0xFFFF then none else some (2 * b)
         | none => none)
      | _ => none

/-- The topology as a group sees it whose ringmaster's duties the module at a position has: the positions below it that should have them are
lost, and its trees go around them (R320, R446). [DEDUCED, log entry 153] -/
def under (t : Topology) (root : Nat) : Topology :=
  { t with ids := t.ids.zipIdx.map (fun x => if x.2 < root then 0xFFFF else x.1) }

/-- The parent of a member (R302, R446). -/
def parent (t : Topology) (mask p : Nat) : Option Nat := (t.parentDir mask p).map (t.neighbour p)

/-- The children of a member, with the direction from the member to each: the opposite of the child's to it (R333). -/
def children (t : Topology) (mask p : Nat) : List (Nat × Nat) :=
  ((t.groupOf mask p).filter (fun q => q != p && t.idAt q != 0xFFFF && t.parent mask q == some p)).filterMap
    (fun q => (t.parentDir mask q).map (fun d => (q, d + 1 - 2 * (d % 2))))

/-- The depth of a member: the sum of its ring distances from the root (R302). -/
def depth (t : Topology) (mask p : Nat) : Nat :=
  match t.ringmaster mask p with
  | none => 0
  | some r => (axesUp mask).foldl (fun n a => n + t.ringDist a (t.coord p a) (t.coord r a)) 0

/-- The height of the tree of a group. -/
def height (t : Topology) (mask p : Nat) : Nat := (t.groupOf mask p).foldl (fun n q => max n (t.depth mask q)) 0

end Topology

/-- The module's position; 0xFFFF when it has none (R299). -/
def ownPos (s : State) : Nat := s.get LNK_ID.POSITION

/-- The mask of the system group (R301). -/
def systemMask : Nat := 15

/-! Packets. -/

namespace Packet
def dest (p : Packet) : Nat := bits p.hdr0 0 16
def src (p : Packet) : Nat := bits p.hdr0 16 16
def typ (p : Packet) : Nat := bits p.hdr0 32 4
def close (p : Packet) : Bool := bit p.hdr0 36
def last (p : Packet) : Bool := bit p.hdr0 37
def len (p : Packet) : Nat := bits p.hdr0 40 9

/-- A packet from its header fields and payload (Table 10.5); LEN counts 16-byte units. -/
def make (dest src typ : Nat) (close last : Bool) (hdr1 : Nat) (data : List Byte) : Packet :=
  { hdr0 := dest % 2 ^ 16 + (src % 2 ^ 16) * 2 ^ 16 + (typ % 16) * 2 ^ 32 + b2n close * 2 ^ 36 + b2n last * 2 ^ 37
      + ceilDiv data.length 16 * 2 ^ 40
    hdr1 := hdr1
    data := data ++ List.replicate (ceilDiv data.length 16 * 16 - data.length) 0 }

/-- The bytes of a packet in its channel's stream (R295). -/
def bytes (p : Packet) : List Byte := toBytes 8 p.hdr0 ++ toBytes 8 p.hdr1 ++ p.data

/-- The TRANSFER of a packet, 0 for types without one (Table 10.6). -/
def transfer (p : Packet) : Nat := if 3 ≤ p.typ ∧ p.typ ≤ 6 then bits p.hdr1 48 16 else 0

/-- The index of the port a forwarded or window packet takes of a pair (R304). -/
def portIndex (p : Packet) : Nat := ((p.src ^^^ p.dest) ^^^ p.transfer) % 2
end Packet

/-- The channel of a packet type (Table 10.6); G16 packets name their group's. -/
def typeVc (typ : Nat) : Option Nat :=
  match typ with
  | 0 => some 0
  | 1 | 2 => some 1
  | 3 | 4 | 5 | 6 | 7 => some 6
  | 8 | 9 | 10 => some 7
  | _ => none

/-- A packet type may travel on a channel (R296). -/
def typeOnVc (typ vc : Nat) : Bool :=
  if typ = 11 then decide (2 ≤ vc) && decide (vc ≤ 5) else typeVc typ == some vc

namespace State

def port (s : State) (n : Fin 16) : PortState := s.lnk.ports.get n

def setPort (s : State) (n : Fin 16) (p : PortState) : State :=
  { s with lnk := { s.lnk with ports := s.lnk.ports.set n p } }

end State

def portNo (n : Nat) : Fin 16 := ⟨n % 16, Nat.mod_lt _ (by decide)⟩

/-! Receive buffers and credits (R293). -/

/-- The key of a channel and buffer class in a port's credit and stream tables. -/
def vcKey (vc cls : Nat) : Nat := 2 * vc + cls

/-- What a table of counts holds at a key. -/
def countAt (m : FMap Nat) (k : Nat) : Nat := (FMap.find m k).getD 0

/-- The buffer space, in flits, that stored bytes take. -/
def occupied (p : PortState) (key : Nat) : Nat := ceilDiv (countAt p.stored key) 240

/-- Bytes leave a receive buffer: their credits become due (R293). -/
def PortState.free (p : PortState) (key n : Nat) : PortState :=
  let before := occupied p key
  let q := { p with stored := FMap.put p.stored key (countAt p.stored key - n) }
  { q with owed := FMap.put q.owed key (countAt q.owed key + (before - occupied q key)) }

/-- A port may send on a channel (R304, R318, R441): up, in a direction whose neighbour is not lost, and for the data
channels not held. -/
def portUsable (s : State) (n vc : Nat) : Bool :=
  s.get (LNK_P_STATUS.STATE n) == 2 && !s.lnk.lost.contains (n / 2)
    && (decide (vc ≤ 1) || s.get (LNK_P_STATUS.HELD n) == 0)

/-- A packet put at the end of a port's transmit queue. -/
def pushTx (s : State) (n : Nat) (x : TxPkt) : State :=
  let i := portNo n
  s.setPort i { s.port i with txq := (s.port i).txq ++ [x] }

/-- The direction in which blocks of a group go that are to go in direction `d`: on an axis of size 2 the other one serves when both ports of
this one are unusable (R333). -/
def redDir (s : State) (t : Topology) (g d : Nat) : Nat :=
  let near := fun (d : Nat) => portUsable s (2 * d) (2 + g) || portUsable s (2 * d + 1) (2 + g)
  let o := d + 1 - 2 * (d % 2)
  if !near d && t.size (d / 2) == 2 && near o then o else d

/-- A packet sent in a direction, on the port of the pair with an index, on the other when that one is unusable, and kept
waiting when both are (R304). -/
def sendDir (s : State) (d idx : Nat) (x : TxPkt) : State :=
  let a := 2 * d + idx % 2
  let b := 2 * d + (idx + 1) % 2
  if portUsable s a x.vc then pushTx s a x
  else if portUsable s b x.vc then pushTx s b x
  else { s with lnk := { s.lnk with waitq := s.lnk.waitq ++ [(d, x)] } }

/-- LNK_LAST_ERR records an event (Table 10.19). -/
def setLnkLastErr (s : State) (code port modul : Nat) : State :=
  ((((s.set LNK_LAST_ERR.CODE code).set LNK_LAST_ERR.VALID 1).set LNK_LAST_ERR.PORT port).set
    LNK_LAST_ERR.MODULE modul).set LNK_LAST_ERR.TICK s.tick

def lnkLastErr (s : State) (code port modul : Nat) : Nat :=
  code + 2 ^ 4 + (port % 16) * 2 ^ 8 + (modul % 2 ^ 16) * 2 ^ 12 + (s.tick % 2 ^ 32) * 2 ^ 32

/-- A packet or a transfer with no route (R306, R310, R441). -/
def noRoute (s : State) (port modul : Nat) : State := (setLnkLastErr s 10 port modul).count LNK_NOROUTE_CNT 1

/-- The buffer class in which a packet leaves along a direction (R305): it starts each axis in class 0 and moves to class 1
with the crossing between the ends of the ring. `cls` is the class it arrived in along the same axis. -/
def hopClass (t : Topology) (p d cls : Nat) : Nat :=
  let a := d / 2
  let c := t.coord p a
  if (d % 2 = 0 ∧ c + 1 = t.size a) ∨ (d % 2 = 1 ∧ c = 0) then 1 else cls

/-- The direction in which a packet leaves this module for another; none where it has no route (R303, R306, R441). -/
def wayTo (s : State) (dest : Nat) : Option Nat :=
  (s.lnk.topo.bind (fun t => (t.posOf dest).bind (t.hop (ownPos s)))).filter (fun d => !s.lnk.lost.contains d)

/-- A packet on its way from this module to its destination (R303, R306). `axis` and `cls` are those it arrived by. [DEDUCED, log entry 72] -/
def routePacket (s : State) (vc : Nat) (pkt : Packet) (axis : Option Nat) (cls : Nat) (xfer : Option SentFor) : State :=
  match s.lnk.topo, wayTo s pkt.dest with
  | some t, some d =>
    let c := hopClass t (ownPos s) d (if axis = some (d / 2) then cls else 0)
    sendDir s d pkt.portIndex { vc := vc, cls := c, pkt := pkt, sent := 0, lastSeq := 0, xfer := xfer }
  | _, _ => noRoute s 0 pkt.dest

/-- A packet that this module originates. -/
def sendPacket (s : State) (vc : Nat) (pkt : Packet) : State := routePacket s vc pkt none 0 none

/-- A packet that this module originates and for whose acceptance something waits. -/
def sendFor (s : State) (vc : Nat) (pkt : Packet) (x : SentFor) : State := routePacket s vc pkt none 0 (some x)

/-- Packets of a kind are still with this module: queued, or sent and not acknowledged. -/
def stillQueued (s : State) (x : SentFor) : Bool :=
  s.lnk.waitq.any (fun p => p.2.xfer == some x) || s.lnk.ports.toList.any (fun p => p.txq.any (fun q => q.xfer == some x))

/-- What waited for the acceptance of packets that have now all been accepted is done (R159, R398): the next module on their way has acknowledged
them. [DEDUCED, log entry 72] -/
def settleSent (s : State) : State :=
  (s.lnk.after.filter (fun e => !stillQueued s e.1)).foldl (fun s e => match e.2 with
    | .close dest tag => sendPacket s 7 (Packet.make dest s.lnk.ownId 9 true true (tag % 2 ^ 12) [])
    | .drain unit tag slot => drainSlot s unit tag slot)
    { s with lnk := { s.lnk with after := s.lnk.after.filter (fun e => stillQueued s e.1) } }

/-- Something is to be done once every packet of a kind has been accepted. -/
def afterSent (s : State) (x : SentFor) (a : AfterSent) : State :=
  settleSent { s with lnk := { s.lnk with after := s.lnk.after ++ [(x, a)] } }

/-- A packet sent on one named port, whatever its destination; VC1 has one buffer class (Table 10.3, R305). -/
def sendOnPort (s : State) (n vc : Nat) (pkt : Packet) : State :=
  let cls := match s.lnk.topo with
    | none => 0
    | some t => if vc = 1 ∨ ownPos s = 0xFFFF then 0 else hopClass t (ownPos s) (n / 2) 0
  pushTx s n { vc := vc, cls := cls, pkt := pkt, sent := 0, lastSeq := 0, xfer := none }

/-- A control message to a module, with the next message number (R297). -/
def sendControl (s : State) (dest subtype : Nat) (data : List Byte) : State :=
  let m := s.lnk.mseq
  sendPacket { s with lnk := { s.lnk with mseq := (m + 1) % 2 ^ 16 } } 0
    (Packet.make dest s.lnk.ownId 0 false true (subtype + m * 2 ^ 8) data)

/-- The payload of a NOTIFY (Table 10.7). -/
def notifyData (s : State) (code port modul : Nat) : List Byte :=
  toBytes 1 code ++ toBytes 1 port ++ toBytes 2 modul ++ toBytes 4 0 ++ toBytes 8 s.tick

/-- The position to which this module's notices go: the lowest that holds an identifier and that this module has not
judged lost (R320). -/
def sysRm (s : State) : Option Nat :=
  match s.lnk.topo with
  | none => none
  | some t => (List.range t.count).find? (fun q => t.idAt q != 0xFFFF && !s.lnk.lostPos.contains q)

/-- A NOTIFY sent to a module; to this module itself it is firmware work at once. -/
def notifyTo (s : State) (id code port modul : Nat) : State :=
  if id = s.lnk.ownId then fwAsk s (.notice id code port modul)
  else sendControl s id 5 (notifyData s code port modul)

/-- A NOTIFY to the system ringmaster; a module without a position sends none. -/
def notifyRm (s : State) (code port modul : Nat) : State :=
  match s.lnk.topo, sysRm s with
  | some t, some q => if ownPos s = 0xFFFF then s else notifyTo s (t.idAt q) code port modul
  | _, _ => s

/-! Received packets. -/

/-- The packets that a port has received, without the one at place `i`. -/
def dropAt {α : Type} : List α → Nat → List α
  | [], _ => []
  | _ :: xs, 0 => xs
  | x :: xs, n + 1 => x :: dropAt xs n

/-- The place of the first packet of a type in a port's receive buffers that no packet of its own channel and class stands
before. -/
def headPlace (inbox : List RxPkt) (p : RxPkt → Bool) : Option Nat :=
  (List.range inbox.length).find? (fun i =>
    match inbox[i]? with
    | none => false
    | some x => p x && (inbox.take i).all (fun y => !(y.vc == x.vc && y.cls == x.cls)))

/-- The packet at the head of its channel that satisfies `p`, still in its buffer. [DESIGN CHOICE, log entry 71] -/
def peekRx (s : State) (n : Fin 16) (p : RxPkt → Bool) : Option RxPkt :=
  (headPlace (s.port n).inbox p).bind (fun i => (s.port n).inbox[i]?)

/-- That packet leaves its buffer. [DESIGN CHOICE, log entry 71] -/
def takeRx (s : State) (n : Fin 16) (p : RxPkt → Bool) : State :=
  let q := s.port n
  match headPlace q.inbox p with
  | none => s
  | some i =>
    match q.inbox[i]? with
    | none => s
    | some x => s.setPort n (({ q with inbox := dropAt q.inbox i }).free (vcKey x.vc x.cls) x.pkt.bytes.length)

/-- A packet of a type and, for control messages, of a subtype. -/
def isType (typ : Nat) (x : RxPkt) : Bool := x.pkt.typ == typ
def isControl (sub : Nat) (x : RxPkt) : Bool := x.pkt.typ == 0 && bits x.pkt.hdr1 0 8 == sub

/-! Timecodes and epoch changes that have arrived (R39, R415). -/

/-- A position table with amendments. -/
def Topology.amended (t : Topology) (l : List (Nat × Nat)) : Topology :=
  l.foldl (fun t a => { t with ids := t.ids.zipIdx.map (fun e =>
    if e.2 = a.1 then a.2 else if a.2 ≠ 0xFFFF ∧ e.1 = a.2 then 0xFFFF else e.1) }) t

/-- The changes that this module holds pending: the one that awaits its boundary, and the one under which an image awaits installation or is being
installed. -/
def heldChanges (s : State) : List EpochChange :=
  s.lnk.change.toList ++ (s.ctl.load.bind (·.change)).toList ++ (s.ctl.installing.bind (fun x => x.load.change)).toList

/-- An identifier that holds the bellwether's position now or in a change held pending (R415). -/
def fromBellwether (s : State) (src : Nat) : Bool :=
  src != 0xFFFF && s.lnk.topo.any (fun t => t.idAt t.bellwether == src
    || (heldChanges s).any (fun c => (t.amended c.amend).idAt t.bellwether == src))

/-- A packet holds a timecode that will be applied (R414, R415). -/
def freshTimecode (s : State) (p : Packet) : Bool :=
  fromBellwether s p.src && p.src != s.lnk.ownId && !s.cad.applied.contains (bits p.hdr1 0 32)

/-- A control message has not been taken yet (R297). -/
def freshControl (s : State) (p : Packet) : Bool := !s.lnk.seen.contains (p.src, bits p.hdr1 8 16)

/-- A timecode or an epoch change has arrived and stands at the head of its channel: it comes before whatever else falls on this tick (R39).
[DEDUCED, log entry 10] -/
def messageDue (s : State) : Bool :=
  (List.finRange 16).any (fun n => (peekRx s n (isType 2)).any (fun x => freshTimecode s x.pkt)
    || (peekRx s n (isControl 1)).any (fun x => freshControl s x.pkt))

/-! Stopping (R436, R437). -/

/-- Every sequencer halts at once (R437). -/
def haltAll (s : State) : State :=
  { s with seqs := s.seqs.map (fun x => { x with running := false, stall := .none, frames := [], startDue := false }) }

/-- Blocks that wait for a combine leave the receive buffers that hold them (R334). -/
def freeBlocks (s : State) (group : Nat) (xs : List RedInput) : State :=
  xs.foldl (fun s x =>
    match x.port with
    | none => s
    | some n => s.setPort (portNo n) ((s.port (portNo n)).free (vcKey (2 + group) 0) 136)) s

def freeInputs (s : State) (op : ReduceOp) : State := op.inputs.foldl (fun s e => freeBlocks s op.group e.2) s

/-- Cycles frozen for the feeder alone, for the drain alone and for both (R88). -/
def countFreeze (s : State) (feed drain both : Nat) : State :=
  ((s.count DNS_FREEZE_CNT (feed + drain + both)).count DNS_FREEZE_FEED_CNT (feed + both)).count DNS_FREEZE_DRAIN_CNT (drain + both)

/-- The drain has no room for outputs of a panel in service, for want of a slot (R87, R89). -/
def DenseOp.drainHeld (op : DenseOp) : Bool := op.acqY.needs != [] && op.holder.isSome

/-- The engine cannot advance: a synchronised access of its feeder or of its drain is stalled (R87). -/
def DenseOp.frozen (op : DenseOp) : Bool := op.acqX.needs != [] || op.drainHeld

/-- Some synchronised access is stalled (R213). -/
def stalledAny (s : State) : Bool :=
  let on := fun (a : Acq) => a.needs != []
  s.dense.op.any (fun o => on o.acqW || on o.acqX || on o.acqY) || s.dense.pre.any (fun o => on o.acqW) || s.drv.run.any (fun o => on o.acq)
    || s.xfers.any (fun x => on x.acq) || s.lnk.nbrs.any (fun e => on e.2.acq)
    || (s.reduces ++ s.red.forming).any (fun o => on o.acq || on o.acqW)

/-- Stalls that are cut short have lasted a free number of cycles, which count as those of stalls that end (R88, R213). [DESIGN CHOICE, log entry 147] -/
def countCut (s : State) : State :=
  if !stalledAny s then s
  else
    let f := s.fresh
    let h := fun (on : Bool) (k : Fin 4) => if on then Config.heldCycles f.1 k else 0
    let x := s.dense.op.any (fun o => o.acqX.needs != [])
    let y := s.dense.op.any DenseOp.drainHeld
    countFreeze (f.2.count TAG_STALL_CNT (Config.heldCycles f.1 3)) (h x 0) (h y 1) (h (x && y) 2)

/-- A tile of a neighbour send that is stalled on its slots is abandoned with its packet; the tiles written before it stay (R219). -/
def abandonTiles (s : State) : State :=
  let stalled := fun (x : RxPkt) => isType 7 x
    && ((FMap.find s.lnk.nbrs (bits x.pkt.hdr1 0 12)).map (fun r => decide (r.acq.needs ≠ []))).getD false
  let s := (List.range 16).foldl (fun s k => takeRx s (portNo k) stalled) s
  { s with lnk := { s.lnk with nbrs := s.lnk.nbrs.map (fun e => (e.1, { e.2 with acq := { e.2.acq with needs := [] } })) } }

/-- Operations in progress end with their stalled accesses abandoned; what they have already written stays (R219, R437). [DEDUCED, log entry 104] -/
def abandonOps (s : State) : State :=
  let s := abandonTiles (s.reduces.foldl freeInputs (countCut s))
  noteFall { s with
    dense := { s.dense with op := none, pre := none, tiles := [], pendW := none, pendX := none, void := false }
    drv := { s.drv with run := none, wait := none, posted := none, alloc := none }
    xfers := []
    unwaited := []
    reduces := []
    lnk := { s.lnk with after := s.lnk.after.filter (fun e => !(e.2 matches .close ..)) }
    red := { s.red with forming := [] }
    cad := { s.cad with held := [], admitted := [] } }

/-- The module withdraws (R437): it starts no further step until the next image load, and says so. -/
def withdraw (s : State) : State := notifyRm (s.set FLT_STATUS.WITHDRAWN 1) 12 0xFF s.lnk.ownId

/-- The step stops for a cause of Table 15.2 other than 4 (R437). While no step runs nothing is stopped or recorded: the
module abandons and withdraws. The event that is the cause has its own entry. [DEDUCED, log entry 104] -/
def stopStep (s : State) (cause : Nat) : State :=
  let t := abandonOps (haltAll s)
  if s.step.running then
    let t := { t with step := { t.step with running := false } }
    let t := (((((t.set FLT_LAST_STOP.CAUSE cause).set FLT_LAST_STOP.VALID 1).set FLT_LAST_STOP.STEP s.step.number).set
      FLT_FLAGS.STOPPED 1).count FLT_STOP_CNT 1)
    withdraw (t.log { region := regionFLT, event := 4, level := 3, action := 4
                      detail := cause + 2 ^ 4 + (s.step.number % 2 ^ 32) * 2 ^ 8 })
  else withdraw t

end Sys2Proof.Machine
end

