-- ==== Sys2Proof/Machine/Special.lean ====
section
/-!
DEFINITION. Machine/Special.lean: the special functions of Table 4.5 and division. A result that the spec bounds but does
not fix is a free value within the bound; the exact result is computed to far more bits than binary32 holds.
-/

namespace Sys2Proof.Machine

/-- The binary32 pattern nearest a value. -/
def bits32 (v : Val) : Nat := (FpFmt.binary32.encode .rne 0 v).1

/-- The value of a binary32 pattern. -/
def val32 (w : Nat) : Val := FpFmt.binary32.decode w

/-- The integer square root by bits: the `n` lowest result bits tried from the highest. -/
def isqrtGo (x : Nat) : Nat → Nat → Nat
  | 0, r => r
  | n + 1, r => isqrtGo x n (if (r + 2 ^ n) * (r + 2 ^ n) ≤ x then r + 2 ^ n else r)

/-- The largest integer whose square does not exceed `x`. -/
def isqrt (x : Nat) : Nat := isqrtGo x (Nat.log2 x / 2 + 1) 0

namespace Val

/-- The quotient of finite nonzero values, to more than 300 bits. -/
def quot : Val → Val → Val
  | .fin s m e, .fin t n f =>
    let k := 320 + Nat.log2 n
    .fin (s != t) ((m <<< k) / n) (e - f - Int.ofNat k)
  | _, _ => .nan

/-- The square root of a positive finite value, to more than 100 bits, with a sticky last bit. -/
def root : Val → Val
  | .fin s m e =>
    let k := 240 + (if e % 2 = 0 then 0 else 1)
    let x := m <<< k
    let r := isqrt x
    .fin s (2 * r + b2n (r * r != x)) ((e - Int.ofNat k) / 2 - 1)
  | v => v

/-- A finite value as an integer number of units of 2^-320, toward zero. -/
def fixed : Val → Int
  | .fin s m e =>
    let q : Nat := if e + 320 ≥ 0 then m <<< (e + 320).toNat else m >>> (-(e + 320)).toNat
    if s then - Int.ofNat q else Int.ofNat q
  | _ => 0

def fixOne : Nat := 2 ^ 320

/-- The odd powers of `t` with their reciprocals, summed: the inverse hyperbolic tangent in units of 2^-320. -/
def atanhGo (t2 : Nat) : Nat → Nat → Nat → Nat → Nat
  | 0, _, _, acc => acc
  | n + 1, k, p, acc => atanhGo t2 n (k + 2) (p * t2 / fixOne) (acc + p / k)

def atanhFix (t : Nat) : Nat := atanhGo (t * t / fixOne) 110 1 t 0

/-- ln 2 in units of 2^-320. -/
def ln2Fix : Nat := 2 * atanhFix (fixOne / 3)

/-- The exponential series of `r` in units of 2^-320. -/
def expGo (r : Nat) : Nat → Nat → Nat → Nat → Nat
  | 0, _, _, acc => acc
  | n + 1, k, p, acc => expGo r n (k + 1) (p * r / fixOne / k) (acc + p)

/-- The exponential of a finite value; beyond 2048 in magnitude, where the result lies outside every format, that of 2048. -/
def exp (x : Val) : Val :=
  let c := Int.ofNat (2048 * fixOne)
  let i := Max.max (-c) (Min.min c x.fixed)
  let n := i / Int.ofNat ln2Fix
  let r := (i - n * Int.ofNat ln2Fix).toNat
  .fin false (expGo r 90 1 fixOne 0) (n - 320)

/-- The natural logarithm of a positive finite value. -/
def log : Val → Val
  | .fin _ m e =>
    let k := Nat.log2 m
    let y := (m <<< 320) >>> k
    let l := Int.ofNat (2 * atanhFix ((y - fixOne) * fixOne / (y + fixOne)))
      + (Int.ofNat k + e) * Int.ofNat ln2Fix
    .fin (decide (l < 0)) l.natAbs (-320)
  | v => v

/-- 1 / (1 + exp(-x)). -/
def sigmoid (x : Val) : Val :=
  if x.sign then
    let z := exp x
    quot z (add one z)
  else quot one (add one (exp x.neg))

/-- The hyperbolic tangent of a finite value. -/
def tanh (x : Val) : Val :=
  if x.isZero then x
  else
    let z := exp ((x.abs.scale 1).neg)
    let t := quot (sub one z) (add one z)
    if x.sign then t.neg else t

/-- sqrt(2 / pi) * 2^60 and 0.044715 * 2^60, rounded. -/
def geluRoot : Val := .fin false 919898268343412807 (-60)
def geluCube : Val := .fin false 51552885078495163 (-60)

/-- GELU in its tanh form: `x * sigmoid(2 * sqrt(2/pi) * (x + 0.044715 * x^3))`. -/
def gelu (x : Val) : Val :=
  mul x (sigmoid (mul (geluRoot.scale 1) (add x (mul geluCube (mul x (mul x x))))))

def silu (x : Val) : Val := mul x (sigmoid x)

end Val

/-- `r` lies within `k` units in the last place of binary32 of `y`, to within 2^-30 of a unit. [DESIGN CHOICE, log entry 44] -/
def withinUlp (k : Nat) (y r : Val) : Bool :=
  r.isFin && Val.le (Val.sub r y).abs (.fin false (k * 2 ^ 30 + 1) (y.exponent - 53))

/-- A result that the spec bounds: exact `y`, within `k` units in the last place where `y` is normal, free otherwise (R143).
[DESIGN CHOICE, log entry 44] -/
def bounded (code k : Nat) (x y : Val) : Val :=
  let r := val32 (Config.specialFn code (BitVec.ofNat 32 (bits32 x))).toNat
  let normal := decide (y.exponent ≥ -126) && !y.isZero && (round32 y).isFin
  if !normal || withinUlp k y r then r else round32 y

/-- The reciprocal of a finite nonzero value: exact for a power of two (as the worked update of chapter 12 takes it). -/
def recip (x : Val) : Val :=
  match x with
  | .fin s m e =>
    let y := Val.quot .one (.fin s m e)
    if m = 2 ^ Nat.log2 m ∧ Val.eqv (round32 y) y then y else bounded 0x10 1 x y
  | v => v

/-- The special function of a function code, on a binary32 value (Table 4.5). [DEDUCED, log entry 45; DESIGN CHOICE, log entry 44] -/
def special (code : Nat) (x : Val) : Val :=
  match code, x with
  | _, .nan => .nan
  | 0x10, .inf s => .fin s 0 0
  | 0x10, .fin s m e => if m = 0 then .inf s else recip (.fin s m e)
  | 0x11, .inf s => if s then .nan else bounded code 1 x .zero
  | 0x11, .fin s m e =>
    if m = 0 then .inf s else if s then .nan else bounded code 1 x (Val.quot .one (Val.root (.fin s m e)))
  | 0x12, .inf s => if s then .nan else .inf false
  | 0x12, .fin s m e => if m = 0 then x else if s then .nan else round32 (Val.root (.fin s m e))
  | 0x13, .inf s => if s then .zero else .inf false
  | 0x13, .fin s m e =>
    let y := Val.exp (.fin s m e)
    if !(round32 y).isFin then .inf false else bounded code 2 x y
  | 0x14, .inf s => if s then .nan else .inf false
  | 0x14, .fin s m e =>
    if m = 0 then .inf true else if s then .nan else bounded code 2 x (Val.log (.fin s m e))
  | 0x15, .inf s => .fin s 1 0
  | 0x15, .fin .. => bounded code 3 x (Val.tanh x)
  | 0x16, .inf s => if s then .zero else .one
  | 0x16, .fin .. => bounded code 3 x (Val.sigmoid x)
  | 0x17, .inf s => if s then .fin true 0 0 else .inf false
  | 0x17, .fin .. => bounded code 4 x (Val.gelu x)
  | 0x18, .inf s => if s then .fin true 0 0 else .inf false
  | 0x18, .fin .. => bounded code 4 x (Val.silu x)
  | _, v => v

/-- The reciprocal and the exponential as every unit of the drover forms them. -/
def rcp (x : Val) : Val := special 0x10 x
def expOf (x : Val) : Val := special 0x13 x

/-- A correctly rounded division of binary32 values by a nonzero finite value. -/
def div32 (a b : Val) : Val :=
  match a, b with
  | .fin s m e, .fin t n f => if n = 0 then .nan else if m = 0 then .fin (s != t) 0 0
                              else round32 (Val.quot (.fin s m e) (.fin t n f))
  | .inf s, .fin t _ _ => .inf (s != t)
  | .fin s _ _, .inf t => .fin (s != t) 0 0
  | _, _ => .nan

end Sys2Proof.Machine
end

