-- ==== Sys2Proof/Machine/Tokenise.lean ====
section
/-!
DEFINITION. Machine/Tokenise.lean: from a decoded picture to the tokens of a kept frame (13 R392 to R394). Each of the stages of R393 gives
binary32 values, each the exact result of the stage rounded once; the two operations of normalisation round each. The constants of the
colour matrices are those of the ITU-R recommendations that Table 13.4 names.
-/

namespace Sys2Proof.Machine

/-- A tokeniser recipe (Table 13.4). -/
structure Recipe where
  patch : Nat
  bilinear : Bool
  deint : Nat
  matrix : Nat
  rangeOvr : Bool
  fullRange : Bool
  skipNonref : Bool
  cvt : Nat
  outW : Nat
  outH : Nat
  stride : Nat
  cropX : Nat
  cropY : Nat
  cropW : Nat
  cropH : Nat
  frames : Nat
  audioMax : Nat
  mean : List Nat
  scale : List Nat
  deriving DecidableEq, Repr

/-- Recipe `n` of the loaded image. -/
def recipeAt (s : State) (n : Nat) : Recipe :=
  let w := fun i => imgField s 9 (0x40 + 64 * n + 8 * i) 8
  { patch := match bits (w 0) 0 2 with | 0 => 8 | 1 => 14 | 2 => 16 | _ => 32
    bilinear := bit (w 0) 2, deint := bits (w 0) 3 2, matrix := bits (w 0) 5 2, rangeOvr := bit (w 0) 7, fullRange := bit (w 0) 8
    skipNonref := bit (w 0) 9, cvt := bits (w 0) 10 4, outW := bits (w 0) 16 16, outH := bits (w 0) 32 16, stride := bits (w 0) 48 8
    cropX := bits (w 1) 0 16, cropY := bits (w 1) 16 16, cropW := bits (w 1) 32 16, cropH := bits (w 1) 48 16
    frames := bits (w 2) 0 16, audioMax := bits (w 2) 16 16
    mean := [bits (w 3) 0 32, bits (w 3) 32 32, bits (w 4) 0 32]
    scale := [bits (w 4) 32 32, bits (w 5) 0 32, bits (w 5) 32 32] }

/-- The tokens of one kept frame, and the elements of a token (R394). -/
def Recipe.frameTokens (r : Recipe) : Nat := (r.outW / r.patch) * (r.outH / r.patch)
def Recipe.width (r : Recipe) : Nat := 3 * r.patch * r.patch

/-- A quotient as the nearest binary32 value. -/
def ratio32 (num : Int) (den : Nat) : Val :=
  let k := 64 + Nat.log2 den
  let m := num.natAbs <<< k
  if num = 0 then Val.zero
  else round32 (.fin (decide (num < 0)) (2 * (m / den) + b2n (m % den != 0)) (-(Int.ofNat k + 1)))

/-! Deinterlacing. -/

/-- The field that an interlaced frame is rebuilt from; none when the frame is kept as coded. -/
def fieldOf (r : Recipe) (p : Picture) : Option Nat :=
  let d := if r.deint = 3 then Config.reservedDeint.val else r.deint
  if p.interlaced ∧ d ≠ 0 then some (d - 1) else none

/-- A sample of a plane after deinterlacing, in halves. -/
def planeAt (plane : List Nat) (w h : Nat) (field : Option Nat) (x y : Nat) : Nat :=
  let line := fun yy => plane.getD (yy * w + x) 0
  match field with
  | none => 2 * line y
  | some f =>
    if y % 2 = f then 2 * line y
    else if y = 0 then 2 * line 1
    else if y + 1 ≥ h then 2 * line (y - 1)
    else line (y - 1) + line (y + 1)

/-! Colour. -/

/-- A chroma sample at luma place (`x`, `y`), in sixteenths: chroma lies on even luma columns, halfway between two luma lines. [DEDUCED, log entry 100] -/
def chromaAt (plane : List Nat) (w h : Nat) (field : Option Nat) (x y : Nat) : Nat :=
  let at_ := fun cx cy => planeAt plane w h field (min cx (w - 1)) (min cy (h - 1))
  let row := fun cy => at_ (x / 2) cy + at_ ((x + 1) / 2) cy
  if y % 2 = 0 then row (y / 2 - 1) + 3 * row (y / 2) else 3 * row (y / 2) + row (y / 2 + 1)

/-- The luma weights of red and blue, in ten-thousandths: BT.601, BT.709, BT.2020. [PRESUMED, log entry 98] -/
def lumaWeights (m : Nat) : Nat × Nat :=
  match m with
  | 0 => (2990, 1140)
  | 1 => (2126, 722)
  | _ => (2627, 593)

/-- The matrix and whether the range is full (stage 3 of R393). -/
def matrixOf (r : Recipe) (p : Picture) : Nat :=
  match r.matrix with
  | 0 => (match p.matrix with
          | some m => m.val
          | none => if p.height > 576 then 1 else 0)
  | m => m - 1

def fullRangeOf (r : Recipe) (p : Picture) : Bool := if r.rangeOvr then r.fullRange else p.fullRange.getD false

/-- A quotient clamped to [0, 1]. -/
def clamp01 (num : Int) (den : Nat) : Val :=
  if num ≤ 0 then Val.zero else if num ≥ Int.ofNat den then Val.one else ratio32 num den

/-- The red, green or blue of a picture's pixel. -/
def pixelRgb (r : Recipe) (p : Picture) (x y c : Nat) : Val :=
  let field := fieldOf r p
  let n := p.depth
  let unit := 2 ^ (n - 8)
  let cw := (p.width + 1) / 2
  let ch := (p.height + 1) / 2
  let full := fullRangeOf r p
  let mid := 16 * (if full then 2 ^ (n - 1) else 128 * unit)
  let chroma := fun plane => if p.mono then (0 : Int) else Int.ofNat (chromaAt plane cw ch field x y) - Int.ofNat mid
  let yn := Int.ofNat (planeAt p.luma p.width p.height field x y) - (if full then 0 else Int.ofNat (32 * unit))
  let yd := 2 * (if full then 2 ^ n - 1 else 219 * unit)
  let u := chroma p.cb
  let v := chroma p.cr
  let cd := 16 * (if full then 2 ^ n - 1 else 224 * unit)
  let (kr, kb) := lumaWeights (matrixOf r p)
  let kg := 10000 - kr - kb
  match c with
  | 0 => clamp01 (yn * Int.ofNat (10000 * cd) + Int.ofNat (2 * (10000 - kr) * yd) * v) (yd * 10000 * cd)
  | 1 =>
    clamp01 (yn * Int.ofNat (10000 * kg * cd)
        - (Int.ofNat (2 * kb * (10000 - kb)) * u + Int.ofNat (2 * kr * (10000 - kr)) * v) * Int.ofNat yd)
      (yd * 10000 * kg * cd)
  | _ => clamp01 (yn * Int.ofNat (10000 * cd) + Int.ofNat (2 * (10000 - kb) * yd) * u) (yd * 10000 * cd)

/-! Crop. -/

/-- The crop: its left, top, width and height. CROP_W 0 takes the largest centred region of the output's aspect. [DEDUCED, log entry 100] -/
def cropOf (r : Recipe) (p : Picture) : Nat × Nat × Nat × Nat :=
  if r.cropW ≠ 0 then (r.cropX, r.cropY, r.cropW, r.cropH)
  else if p.width * r.outH ≥ p.height * r.outW then
    let w := p.height * r.outW / r.outH
    ((p.width - w) / 2, 0, w, p.height)
  else
    let h := p.width * r.outH / r.outW
    (0, (p.height - h) / 2, p.width, h)

/-- The red, green or blue of a place in the crop: black outside the picture. [DEDUCED, log entry 100; DESIGN CHOICE, log entry 101] -/
def cropRgb (r : Recipe) (p : Picture) (x y c : Nat) : Val :=
  if x < p.width ∧ y < p.height then pixelRgb r p x y c else Val.zero

/-! Resizing. -/

/-- The source places that output place `i` of `len` covers among `n`, each with its weight; their sum is `n`. -/
def areaSpans (n len i : Nat) : List (Nat × Nat) :=
  let lo := i * n
  let hi := (i + 1) * n
  (List.range (ceilDiv hi len - lo / len)).map (fun k =>
    let j := lo / len + k
    (j, min ((j + 1) * len) hi - max (j * len) lo))

/-- The two source places between which output place `i` of `len` lies among `n`, each with its weight; their sum is twice `len`. -/
def linearSpans (n len i : Nat) : List (Nat × Nat) :=
  let at2 : Int := Int.ofNat ((2 * i + 1) * n) - Int.ofNat len
  let d : Int := Int.ofNat (2 * len)
  let place := fun (j : Int) => min j.toNat (n - 1)
  [(place (at2 / d), 2 * len - (at2 % d).toNat), (place (at2 / d + 1), (at2 % d).toNat)]

/-- A binary32 value in [0, 1] in units of 2^-149. -/
def fix149 : Val → Nat
  | .fin _ m e => m <<< (e + 149).toNat
  | _ => 0

/-- A channel of an output pixel (stage 4 of R393); a crop without area has no value that the spec states. [DEDUCED, log entry 99] -/
def resized (r : Recipe) (p : Picture) (i j c : Nat) : Val :=
  let (x0, y0, w, h) := cropOf r p
  if w = 0 ∨ h = 0 then round32 (FpFmt.w48.decode (Config.openVal (3 * (j * r.outW + i) + c)).toNat)
  else
    let spans := if r.bilinear then linearSpans else areaSpans
    let num := (spans h r.outH j).foldl (fun n sy =>
      (spans w r.outW i).foldl (fun n sx => n + sx.2 * sy.2 * fix149 (cropRgb r p (x0 + sx.1) (y0 + sy.1) c)) n) 0
    ratio32 (Int.ofNat num) ((if r.bilinear then 4 * r.outW * r.outH else w * h) * 2 ^ 149)

/-- A channel of an output pixel normalised (stage 5 of R393). [DEDUCED, log entry 99] -/
def normalised (r : Recipe) (p : Picture) (i j c : Nat) : Val :=
  round32 (Val.mul (round32 (Val.sub (resized r p i j c) (val32 (r.mean.getD c 0)))) (val32 (r.scale.getD c 0)))

/-- The elements of a kept frame's tokens in order (stage 6 of R393; R394). [DEDUCED, log entry 99] -/
def frameElems (r : Recipe) (p : Picture) : List Val :=
  (List.range (r.outH / r.patch)).flatMap (fun tr => (List.range (r.outW / r.patch)).flatMap (fun tk =>
    (List.range r.patch).flatMap (fun y => (List.range r.patch).flatMap (fun x =>
      (List.range 3).map (fun c => normalised r p (tk * r.patch + x) (tr * r.patch + y) c)))))

/-- Elements converted in order, each on its lane, with the events of each. -/
def tokenElems (c : Cvt) : List (Nat × Val) → Conv → List TokenElem × Conv
  | [], k => ([], k)
  | (lane, v) :: vs, k =>
    let a := Conv.elem { k with events := .none } .bf16 c lane v
    let b := tokenElems c vs { a.2 with events := k.events.plus a.2.events }
    ({ bits := a.1, exact := (FpFmt.binary32.encode .rne 0 v).1, events := a.2.events } :: b.1, b.2)

/-- The bf16 elements of a kept frame, converted on the tokeniser's 64 lanes, element `e` of the frame on lane `e` mod 64, and the state after their
numeric events. [DESIGN CHOICE, log entry 140] -/
def tokenise (s : State) (r : Recipe) (p : Picture) : List TokenElem × State :=
  let vals := (frameElems r p).zipIdx.map (fun e => (8192 + e.2 % 64, e.1))
  let k := tokenElems (s.cvt regionING r.cvt) vals (s.conv regionING)
  (k.1, s.commitConv regionING k.2)

end Sys2Proof.Machine
end

