-- ==== Sys2Proof/Machine/Governor.lean ====
section
/-!
DEFINITION. Machine/Governor.lean: what a launch is predicted to cost, and whether the governor lets it go (14 R422 to
R427).
-/

namespace Sys2Proof.Machine

open Reg

/-- The work of a launch, by the terms of R426: operations of density factor 1, 2 and 4, drover element operations, stack
bytes, scratchpad and buffer bytes, link bytes. -/
structure Work where
  ops1 : Nat := 0
  ops2 : Nat := 0
  ops4 : Nat := 0
  elems : Nat := 0
  stack : Nat := 0
  sram : Nat := 0
  link : Nat := 0
  deriving DecidableEq, Repr

/-- Its energy under the calibration record's typical or worst coefficients, in femtojoules. [DESIGN CHOICE, log entry 83] -/
def Work.energy (w : Work) (worst : Bool) : Nat :=
  Config.calibration worst 0 * w.ops1 + Config.calibration worst 1 * w.ops2 + Config.calibration worst 2 * w.ops4
    + Config.calibration worst 3 * w.elems + Config.calibration worst 4 * w.stack + Config.calibration worst 5 * w.sram
    + Config.calibration worst 6 * w.link

/-- The bytes that a descriptor names, added to those of its memory. -/
def Work.plusDesc (w : Work) (s : State) (n : Nat) : Work :=
  match descAt s n with
  | none => w
  | some d =>
    let b := d.tiles * d.unit
    if (tagEntry s d.tag).place = 1 then { w with stack := w.stack + b } else { w with sram := w.sram + b }

def Work.ofDescs (s : State) (w : Work) (ns : List Nat) : Work := ns.foldl (fun w n => w.plusDesc s n) w

/-- The predicted energy of a launch (R426, R427). -/
def predicted (s : State) (w : Work) : Nat :=
  if s.get CAD_PRED.E_SAMPLES < 64 then w.energy true else s.get CAD_PRED.K * w.energy false / 4096

/-- The bucket's capacity in femtojoules (Table 14.11), as the last edge took it up. -/
def bucketCap (s : State) : Int := Int.ofNat (max 1 s.cad.cap) * 10 ^ 12

/-- A launch can be paid (R424). -/
def payable (s : State) (e : Nat) : Bool := decide (s.cad.bucket ≥ min (Int.ofNat e) (bucketCap s))

/-- The headroom in degrees (R425, R428). -/
def headroom (s : State) : Int :=
  if s.get CAD_PRED.T_SAMPLES < 64 then 0
  else Int.ofNat (s.get CAD_THERM_CFG.T_LIMIT) - Int.ofNat (s.get CAD_PRED.T_EST)

/-- A governed operation of some sequencer is running, or has been let go. -/
def governedRunning (s : State) : Bool :=
  !s.cad.admitted.isEmpty || s.dense.op.isSome || s.drv.run.isSome || s.drv.wait.isSome || !s.xfers.isEmpty || !s.reduces.isEmpty

/-- The headroom forbids a launch in veto mode (R425); a cold predictor lets one governed operation run at a time
(Table 14.6). -/
def headroomHolds (s : State) : Bool :=
  decide (headroom s ≤ Int.ofNat (s.get CAD_THERM_CFG.HR_LOW))
    && (decide (s.get CAD_PRED.T_SAMPLES = 64) || governedRunning s)

/-- A launch's energy leaves the bucket (R424). -/
def charge (s : State) (e : Nat) : State := { s with cad := { s.cad with bucket := s.cad.bucket - Int.ofNat e } }

/-- The timing mode in force (R422). -/
def timingMode (s : State) : Nat := if s.held CAD_CFG.MODE = 3 then 0 else s.held CAD_CFG.MODE

/-- The limit of a hold in CCLK cycles (R425). -/
def vetoMax (s : State) : Nat := max 1 (s.get CAD_CFG.VETO_MAX) * 1024

/-- Supply stage 4 or a temperature of 115 °C holds every governed launch and every step (R493, R504). -/
def supplyHolds (s : State) : Bool := s.get PWR_STATUS.STAGE == 4 || s.flag PWR_STATUS.HOT

/-- A launch put among those held; in veto mode it counts (R425), whatever holds it. [DEDUCED, log entry 84] -/
def hold (s : State) (l : HeldLaunch) : State :=
  let s := if timingMode s = 2 then s.count CAD_VETO_CNT 1 else s
  { s with cad := { s.cad with held := s.cad.held ++ [l] } }

/-- A sequencer's launch reaches the governor (R422 to R425): its typical energy when it may go, none when it is held. One that has been let go and
charged stays so while the supply or the die holds it back (R493, R504). -/
def gate (s : State) (q : Fin 4) (w : Work) : Option Nat × State :=
  let e := predicted s w
  let typ := w.energy false
  let new : HeldLaunch := { seqr := q, energy := e, typical := typ, cycles := 0 }
  if s.cad.admitted.any (fun l => l.seqr == q.val) then
    if supplyHolds s then (none, s)
    else (some typ, { s with cad := { s.cad with admitted := s.cad.admitted.filter (fun l => l.seqr != q.val) } })
  else if s.cad.held.any (fun l => l.seqr == q.val) then (none, s)
  else if supplyHolds s then (none, hold s new)
  else match timingMode s with
    | 1 => (none, hold s new)
    | 2 => if payable s e && !headroomHolds s then (some typ, charge s e) else (none, hold s new)
    | _ => (some typ, charge s e)

/-- A launched operation is complete: its typical energy joins the next sample (R427). -/
def noteDone (s : State) (typ : Nat) : State := { s with cad := { s.cad with done := s.cad.done + typ } }

end Sys2Proof.Machine
end

