-- ==== Sys2Proof/Machine/Operands.lean ====
section
/-!
DEFINITION. Machine/Operands.lean: the sequencer instruction words of Table 9.3, decoded and encoded, and the operand
forms of instructions: counters, offset descriptor numbers, indexed slots (R264, R265).
-/

namespace Sys2Proof.Machine

open Reg

/-- The fields of GSM and VEC (Table 9.3). -/
structure DrvFields where
  doff : Nat
  a : Nat
  b : Nat
  c : Nat
  d : Nat
  func : Nat
  cvt : Nat
  hints : Nat
  s1 : Nat
  s2 : Nat
  mode : Nat
  init : Bool
  rowout : Bool
  deriving DecidableEq, Repr

/-- The fields of ROUTE (Table 9.3). -/
structure RouteFields where
  doff : Nat
  a : Nat
  b : Nat
  c : Nat
  d : Nat
  subop : Nat
  k : Nat
  cvt : Nat
  hints : Nat
  gate : Nat
  scale : Bool
  deriving DecidableEq, Repr

/-- The fields common to every XFER (Table 9.3). -/
structure XferFields where
  doff : Nat
  src : Nat
  dst : Nat
  hsrc : Nat
  hdst : Nat
  close : Bool
  deriving DecidableEq, Repr

/-- A sequencer instruction (Table 9.3). -/
inductive SeqInsn where
  | halt
  | waitTick (base : Bool) (offset : Nat)
  | waitSlot (cen : Bool) (cidx tag slot states : Nat)
  | waitDone
  | signal (fence : Bool) (action state : Nat) (cen : Bool) (cidx tag first count : Nat)
  | setc (cnt : Nat) (add : Bool) (imm : Nat)
  | loop (cnt target : Nat)
  | br (cnt cond imm target : Nat)
  | call (target : Nat)
  | ret
  | lds (tag offset first count : Nat)
  | loadw (doff w sparse hint : Nat)
  | stream (doff x hint : Nat) (accen : Bool) (acc : Nat)
  | drain (doff y hint cvt : Nat) (tied : Bool) (wid : Nat)
  | gsm (f : DrvFields)
  | vec (f : DrvFields)
  | route (f : RouteFields)
  | tally (doff a tag offset first count : Nat)
  | check (tag offset cond imm : Nat) (attn : Bool)
  | xferLocal (f : XferFields)
  | xferWindow (read : Bool) (f : XferFields) (modul window roff : Nat)
  | xferNeighbour (f : XferFields) (dir : Nat)
  | reduce (doff src dst group : Nat) (late : Bool) (tid deadline : Nat)
  deriving DecidableEq, Repr

namespace SeqInsn

/-- The opcode of an instruction word. -/
def opcode (w : Nat) : Nat := bits w 120 8

/-- The bits of a word that Table 9.3 names for its opcode and mode, as (lowest bit, width), the opcode apart. -/
def named (w : Nat) : List (Nat × Nat) :=
  match opcode w with
  | 0x01 =>
    (match bits w 118 2 with
     | 0 => [(118, 2), (117, 1), (0, 48)]
     | 1 => [(118, 2), (90, 27)]
     | _ => [(118, 2)])
  | 0x02 => [(85, 35)]
  | 0x03 => [(115, 5), (0, 32)]
  | 0x04 => [(116, 4), (0, 12)]
  | 0x05 => [(112, 8), (0, 44)]
  | 0x06 => [(0, 12)]
  | 0x08 => [(63, 49)]
  | 0x10 => [(96, 24)]
  | 0x11 => [(85, 35)]
  | 0x12 => [(77, 20), (98, 22)]
  | 0x20 => [(52, 3), (56, 64), (28, 24)]
  | 0x21 => [(52, 3), (56, 64), (28, 24)]
  | 0x22 => [(41, 14), (56, 64)]
  | 0x28 => [(0, 120)]
  | 0x29 => [(63, 49)]
  | 0x30 =>
    (match bits w 86 2 with
     | 0 => [(81, 39)]
     | 2 => [(81, 39), (77, 3)]
     | _ => [(81, 39), (16, 64)])
  | 0x38 => [(29, 91)]
  | _ => []

/-- The number whose named bits are all ones. -/
def mask : List (Nat × Nat) → Nat
  | [] => 0
  | (lo, n) :: r => (2 ^ n - 1) * 2 ^ lo ||| mask r

/-- A bit that Table 9.3 does not name is set (refusal code 3); HALT ignores the other bits. -/
def reservedSet (w : Nat) : Bool :=
  opcode w != 0 && (w % 2 ^ 120) != ((w % 2 ^ 120) &&& mask (named w))

/-- The fields of a GSM or VEC word. -/
def drvFields (w : Nat) : DrvFields :=
  { doff := bits w 112 8, a := bits w 100 12, b := bits w 88 12, c := bits w 76 12, d := bits w 64 12
    func := bits w 56 8, cvt := bits w 52 4, hints := bits w 44 8, s1 := bits w 38 6, s2 := bits w 32 6
    mode := bits w 30 2, init := bit w 29, rowout := bit w 28 }

/-- The common fields of an XFER word. -/
def xferFields (w : Nat) : XferFields :=
  { doff := bits w 112 8, src := bits w 100 12, dst := bits w 88 12, hsrc := bits w 84 2, hdst := bits w 82 2
    close := bit w 81 }

/-- The instruction whose fields a word holds; none where its opcode or a field's value is reserved. -/
def parse (w : Nat) : Option SeqInsn :=
  match opcode w with
  | 0x00 => some .halt
  | 0x01 =>
    (match bits w 118 2 with
     | 0 => some (.waitTick (bit w 117) (bits w 0 48))
     | 1 => some (.waitSlot (bit w 116) (bits w 112 4) (bits w 100 12) (bits w 94 6) (bits w 90 4))
     | 2 => some .waitDone
     | _ => none)
  | 0x02 =>
    if bits w 117 2 = 3 ∨ bits w 85 7 = 0 ∨ bits w 85 7 > 64 then none
    else some (.signal (bit w 119) (bits w 117 2) (bits w 115 2) (bit w 114) (bits w 110 4) (bits w 98 12)
      (bits w 92 6) (bits w 85 7))
  | 0x03 => some (.setc (bits w 116 4) (bit w 115) (bits w 0 32))
  | 0x04 => some (.loop (bits w 116 4) (bits w 0 12))
  | 0x05 => if bits w 112 4 > 6 then none
            else some (.br (bits w 116 4) (bits w 112 4) (bits w 12 32) (bits w 0 12))
  | 0x06 => some (.call (bits w 0 12))
  | 0x07 => some .ret
  | 0x08 => if bits w 63 7 = 0 ∨ bits w 63 7 > 64 then none
            else some (.lds (bits w 100 12) (bits w 76 24) (bits w 70 6) (bits w 63 7))
  | 0x10 => some (.loadw (bits w 112 8) (bits w 100 12) (bits w 98 2) (bits w 96 2))
  | 0x11 => some (.stream (bits w 112 8) (bits w 100 12) (bits w 98 2) (bit w 97) (bits w 85 12))
  | 0x12 => some (.drain (bits w 112 8) (bits w 100 12) (bits w 98 2) (bits w 94 4) (bit w 93) (bits w 77 16))
  | 0x20 => some (.gsm (drvFields w))
  | 0x21 => some (.vec (drvFields w))
  | 0x22 => some (.route
      { doff := bits w 112 8, a := bits w 100 12, b := bits w 88 12, c := bits w 76 12, d := bits w 64 12
        subop := bits w 60 4, k := bits w 56 4, cvt := bits w 52 4, hints := bits w 44 8, gate := bits w 42 2
        scale := bit w 41 })
  | 0x28 => some (.tally (bits w 112 8) (bits w 100 12) (bits w 88 12) (bits w 64 24) (bits w 32 32) (bits w 0 32))
  | 0x29 => if bits w 72 4 > 5 then none
            else some (.check (bits w 100 12) (bits w 76 24) (bits w 72 4) (bits w 64 8) (bit w 63))
  | 0x30 =>
    (match bits w 86 2 with
     | 0 => some (.xferLocal (xferFields w))
     | 2 => some (.xferNeighbour (xferFields w) (bits w 77 3))
     | m => some (.xferWindow (m == 3) (xferFields w) (bits w 64 16) (bits w 56 8) (bits w 16 40)))
  | 0x38 => some (.reduce (bits w 112 8) (bits w 100 12) (bits w 88 12) (bits w 86 2) (bit w 85) (bits w 69 16)
      (bits w 29 40))
  | _ => none

/-- The instruction a word holds, or the refusal code of its form: 1 for a reserved opcode or field value, 3 for a
reserved bit (Table 9.6). -/
def decode (w : Nat) : Except Nat SeqInsn :=
  match parse w with
  | none => .error 1
  | some i => if reservedSet w then .error 3 else .ok i

/-- The common fields of GSM and VEC in their places. -/
def encodeDrv (op : Nat) (f : DrvFields) : Nat :=
  op * 2 ^ 120 + f.doff * 2 ^ 112 + f.a * 2 ^ 100 + f.b * 2 ^ 88 + f.c * 2 ^ 76 + f.d * 2 ^ 64 + f.func * 2 ^ 56
    + f.cvt * 2 ^ 52 + f.hints * 2 ^ 44 + f.s1 * 2 ^ 38 + f.s2 * 2 ^ 32 + f.mode * 2 ^ 30 + b2n f.init * 2 ^ 29
    + b2n f.rowout * 2 ^ 28

/-- The common fields of XFER in their places. -/
def encodeXfer (mode : Nat) (f : XferFields) : Nat :=
  0x30 * 2 ^ 120 + f.doff * 2 ^ 112 + f.src * 2 ^ 100 + f.dst * 2 ^ 88 + mode * 2 ^ 86 + f.hsrc * 2 ^ 84
    + f.hdst * 2 ^ 82 + b2n f.close * 2 ^ 81

/-- The word of an instruction (R264, Table 9.3). -/
def encode : SeqInsn → Nat
  | .halt => 0
  | .waitTick base offset => 0x01 * 2 ^ 120 + b2n base * 2 ^ 117 + offset
  | .waitSlot cen cidx tag slot states =>
    0x01 * 2 ^ 120 + 1 * 2 ^ 118 + b2n cen * 2 ^ 116 + cidx * 2 ^ 112 + tag * 2 ^ 100 + slot * 2 ^ 94
      + states * 2 ^ 90
  | .waitDone => 0x01 * 2 ^ 120 + 2 * 2 ^ 118
  | .signal fence action state cen cidx tag first count =>
    0x02 * 2 ^ 120 + b2n fence * 2 ^ 119 + action * 2 ^ 117 + state * 2 ^ 115 + b2n cen * 2 ^ 114 + cidx * 2 ^ 110
      + tag * 2 ^ 98 + first * 2 ^ 92 + count * 2 ^ 85
  | .setc cnt add imm => 0x03 * 2 ^ 120 + cnt * 2 ^ 116 + b2n add * 2 ^ 115 + imm
  | .loop cnt target => 0x04 * 2 ^ 120 + cnt * 2 ^ 116 + target
  | .br cnt cond imm target => 0x05 * 2 ^ 120 + cnt * 2 ^ 116 + cond * 2 ^ 112 + imm * 2 ^ 12 + target
  | .call target => 0x06 * 2 ^ 120 + target
  | .ret => 0x07 * 2 ^ 120
  | .lds tag offset first count =>
    0x08 * 2 ^ 120 + tag * 2 ^ 100 + offset * 2 ^ 76 + first * 2 ^ 70 + count * 2 ^ 63
  | .loadw doff w sparse hint => 0x10 * 2 ^ 120 + doff * 2 ^ 112 + w * 2 ^ 100 + sparse * 2 ^ 98 + hint * 2 ^ 96
  | .stream doff x hint accen acc =>
    0x11 * 2 ^ 120 + doff * 2 ^ 112 + x * 2 ^ 100 + hint * 2 ^ 98 + b2n accen * 2 ^ 97 + acc * 2 ^ 85
  | .drain doff y hint cvt tied wid =>
    0x12 * 2 ^ 120 + doff * 2 ^ 112 + y * 2 ^ 100 + hint * 2 ^ 98 + cvt * 2 ^ 94 + b2n tied * 2 ^ 93 + wid * 2 ^ 77
  | .gsm f => encodeDrv 0x20 f
  | .vec f => encodeDrv 0x21 f
  | .route f =>
    0x22 * 2 ^ 120 + f.doff * 2 ^ 112 + f.a * 2 ^ 100 + f.b * 2 ^ 88 + f.c * 2 ^ 76 + f.d * 2 ^ 64
      + f.subop * 2 ^ 60 + f.k * 2 ^ 56 + f.cvt * 2 ^ 52 + f.hints * 2 ^ 44 + f.gate * 2 ^ 42 + b2n f.scale * 2 ^ 41
  | .tally doff a tag offset first count =>
    0x28 * 2 ^ 120 + doff * 2 ^ 112 + a * 2 ^ 100 + tag * 2 ^ 88 + offset * 2 ^ 64 + first * 2 ^ 32 + count
  | .check tag offset cond imm attn =>
    0x29 * 2 ^ 120 + tag * 2 ^ 100 + offset * 2 ^ 76 + cond * 2 ^ 72 + imm * 2 ^ 64 + b2n attn * 2 ^ 63
  | .xferLocal f => encodeXfer 0 f
  | .xferWindow read f modul window roff =>
    encodeXfer (if read then 3 else 1) f + modul * 2 ^ 64 + window * 2 ^ 56 + roff * 2 ^ 16
  | .xferNeighbour f dir => encodeXfer 2 f + dir * 2 ^ 77
  | .reduce doff src dst group late tid deadline =>
    0x38 * 2 ^ 120 + doff * 2 ^ 112 + src * 2 ^ 100 + dst * 2 ^ 88 + group * 2 ^ 86 + b2n late * 2 ^ 85
      + tid * 2 ^ 69 + deadline * 2 ^ 29

/-- GSM and VEC fields fit their bits, with bit 3 of CVT zero (R58). -/
def wfDrv (f : DrvFields) : Bool :=
  decide (f.doff < 2 ^ 8) && decide (f.a < 2 ^ 12) && decide (f.b < 2 ^ 12) && decide (f.c < 2 ^ 12)
    && decide (f.d < 2 ^ 12) && decide (f.func < 2 ^ 8) && decide (f.cvt < 8) && decide (f.hints < 2 ^ 8)
    && decide (f.s1 < 2 ^ 6) && decide (f.s2 < 2 ^ 6) && decide (f.mode < 4)

def wfXfer (f : XferFields) : Bool :=
  decide (f.doff < 2 ^ 8) && decide (f.src < 2 ^ 12) && decide (f.dst < 2 ^ 12) && decide (f.hsrc < 4)
    && decide (f.hdst < 4)

/-- An instruction whose every field fits its bits and has no reserved value. -/
def wf : SeqInsn → Bool
  | .halt | .waitDone | .ret => true
  | .waitTick _ offset => decide (offset < 2 ^ 48)
  | .waitSlot _ cidx tag slot states =>
    decide (cidx < 16) && decide (tag < 4096) && decide (slot < 64) && decide (states < 16)
  | .signal _ action state _ cidx tag first count =>
    decide (action < 3) && decide (state < 4) && decide (cidx < 16) && decide (tag < 4096) && decide (first < 64)
      && decide (1 ≤ count) && decide (count ≤ 64)
  | .setc cnt _ imm => decide (cnt < 16) && decide (imm < 2 ^ 32)
  | .loop cnt target => decide (cnt < 16) && decide (target < 4096)
  | .br cnt cond imm target =>
    decide (cnt < 16) && decide (cond ≤ 6) && decide (imm < 2 ^ 32) && decide (target < 4096)
  | .call target => decide (target < 4096)
  | .lds tag offset first count =>
    decide (tag < 4096) && decide (offset < 2 ^ 24) && decide (first < 64) && decide (1 ≤ count)
      && decide (count ≤ 64)
  | .loadw doff w sparse hint =>
    decide (doff < 256) && decide (w < 4096) && decide (sparse < 4) && decide (hint < 4)
  | .stream doff x hint _ acc =>
    decide (doff < 256) && decide (x < 4096) && decide (hint < 4) && decide (acc < 4096)
  | .drain doff y hint cvt _ wid =>
    decide (doff < 256) && decide (y < 4096) && decide (hint < 4) && decide (cvt < 8) && decide (wid < 65536)
  | .gsm f => wfDrv f
  | .vec f => wfDrv f
  | .route f =>
    decide (f.doff < 256) && decide (f.a < 4096) && decide (f.b < 4096) && decide (f.c < 4096)
      && decide (f.d < 4096) && decide (f.subop < 16) && decide (f.k < 16) && decide (f.cvt < 8)
      && decide (f.hints < 256) && decide (f.gate < 4)
  | .tally doff a tag offset first count =>
    decide (doff < 256) && decide (a < 4096) && decide (tag < 4096) && decide (offset < 2 ^ 24)
      && decide (first < 2 ^ 32) && decide (count < 2 ^ 32)
  | .check tag offset cond imm _ =>
    decide (tag < 4096) && decide (offset < 2 ^ 24) && decide (cond ≤ 5) && decide (imm < 256)
  | .xferLocal f => wfXfer f
  | .xferWindow _ f modul window roff =>
    wfXfer f && decide (modul < 65536) && decide (window < 256) && decide (roff < 2 ^ 40)
  | .xferNeighbour f dir => wfXfer f && decide (dir < 8)
  | .reduce doff src dst group _ tid deadline =>
    decide (doff < 256) && decide (src < 4096) && decide (dst < 4096) && decide (group < 4)
      && decide (tid < 65536) && decide (deadline < 2 ^ 40)

/-- The sequencers that may issue an instruction (Table 9.1). -/
def allowed (q : Nat) : SeqInsn → Bool
  | .lds .. | .gsm _ | .vec _ | .route _ => q == 1
  | .loadw .. | .stream .. | .drain .. => q == 0
  | .xferLocal _ | .xferWindow .. => q == 2
  | .xferNeighbour .. | .reduce .. => q == 3
  | _ => true

end SeqInsn

/-- Instruction `i` of a sequencer's program store (R264, Table 9.11): 16 little-endian bytes. -/
def progWord (s : State) (q i : Nat) : Nat :=
  s.get (SEQ_PROG.WORD (q * 8192 + 2 * i)) + s.get (SEQ_PROG.WORD (q * 8192 + 2 * i + 1)) * 2 ^ 64

/-- Counter C`n` of a sequencer (R258). -/
def counter (s : State) (q n : Nat) : Nat := s.get (SEQ_CNT.C (q * 16 + n))

def setCounter (s : State) (q n v : Nat) : State := s.set (SEQ_CNT.C (q * 16 + n)) v

/-- The scalar register S`n` (R258), as its binary32 pattern. -/
def scalar (s : State) (n : Nat) : Nat := s.get (SEQ_SCALAR.S n)

/-- The effective number of the `i`-th descriptor field of an instruction (R265). -/
def effDesc (s : State) (q doff i n : Nat) : Nat :=
  if bit doff i then n + counter s q (doff / 16) else n

/-- A slot number with its counter when CEN is 1 (R265). -/
def effSlot (s : State) (q : Nat) (cen : Bool) (cidx n : Nat) : Nat := if cen then n + counter s q cidx else n

/-- A two-bit hint field (R237). -/
def hintOf (n : Nat) : Hint :=
  match n % 4 with
  | 0 => .normal
  | 1 => .stream
  | 2 => .keep
  | _ => .last

/-- The HINTS field's hint of operand `i` (A, B, C, D as 0 to 3; Table 9.3). -/
def hintField (hints i : Nat) : Hint := hintOf (bits hints (2 * i) 2)

end Sys2Proof.Machine
end

