-- ==== Sys2Proof/Machine/Flags.lean ====
section
/-!
DEFINITION. Machine/Flags.lean: the conditions that flags and attention are computed from: branch conditions, the check
flag F, and the conditions of tally records (R267, R269, R274).
-/

namespace Sys2Proof.Machine

/-- A branch condition on a counter's value and the check flag (Table 9.3, BR). -/
def brHolds (cond c imm : Nat) (f : Bool) : Bool :=
  match cond with
  | 0 => true
  | 1 => c == imm
  | 2 => c != imm
  | 3 => decide (c < imm)
  | 4 => decide (c ≥ imm)
  | 5 => f
  | 6 => !f
  | _ => false

/-- A condition of CHECK on a tally record (R274). -/
def checkHolds (cond imm : Nat) (t : Tally) : Bool :=
  match cond with
  | 0 => t.ovf + t.nan != 0
  | 1 => t.nan != 0
  | 2 => t.stale
  | 3 => decide (t.maxexp ≥ imm)
  | 4 => decide (t.maxexp < imm)
  | 5 => !t.valid
  | _ => false

/-- A slot is in one of the states named by the STATES bits of a wait (Table 9.3, WAIT). -/
def statesHold (states : Nat) (st : SlotSt) : Bool := bit states st.code

end Sys2Proof.Machine
end

