-- ==== Sys2Proof/Machine/Sequencer.lean ====
section
/-!
DEFINITION. Machine/Sequencer.lean: issue, refusal and stall of sequencer instructions, and the control, tally, check and
hook instructions (09 R261 to R280).
-/

namespace Sys2Proof.Machine

open Reg

/-- What becomes of an instruction that its sequencer tries to issue: issued, waiting (Table 9.2), or refused with a code
of Table 9.6; `byUnit` when the unit has counted and logged the refusal itself (R280). -/
inductive Issue where
  | issued (s : State)
  | wait (s : State)
  | refuse (code : Nat) (byUnit : Bool) (s : State)
  deriving DecidableEq, Repr

namespace State

def seqr (s : State) (q : Fin 4) : SeqState := s.seqs.get q

def setSeqr (s : State) (q : Fin 4) (x : SeqState) : State := { s with seqs := s.seqs.set q x }

end State

/-- The instruction word at a sequencer's program counter. -/
def currentWord (s : State) (q : Fin 4) : Nat := progWord s q (s.seqr q).pc

/-- An operation that a sequencer issued is not complete (Table 9.2). -/
def outstanding (s : State) (q : Fin 4) : Bool :=
  match q with
  | 0 => s.dense.op.isSome || s.dense.pendW.isSome || s.dense.pendX.isSome
  | 1 => s.drv.run.isSome || s.drv.wait.isSome
  | 2 => s.xfers.any (fun x => x.seqr == 2)
  | 3 => s.xfers.any (fun x => x.seqr == 3) || !s.reduces.isEmpty

/-- An instruction has issued: it is counted, and the program counter moves on (R261). -/
def issuedNext (s : State) (q : Fin 4) : State :=
  let x := s.seqr q
  (s.setSeqr q { x with pc := (x.pc + 1) % 4096, stall := .none, issued := (x.issued + 1) % 2 ^ 32 }).count
    SEQ_ISSUE_CNT 1

/-- An instruction has issued and branches (R261). -/
def issuedBranch (s : State) (q : Fin 4) (target : Nat) : State :=
  let t := issuedNext s q
  t.setSeqr q { t.seqr q with pc := target % 4096 }

/-- What a refusal does to the half-issued dense operation: a refused LOADW or STREAM makes it void (R272), and a refused
DRAIN uses up its LOADW and STREAM (R271). -/
def denseRefused (s : State) (q : Fin 4) (op : Nat) : State :=
  if q = 0 ∧ (op = 0x10 ∨ op = 0x11) then { s with dense := { s.dense with void := true } }
  else if q = 0 ∧ op = 0x12 then
    { s with dense := { s.dense with pendW := none, pendX := none, void := false, pre := none } }
  else s

/-- An instruction is refused (R280): counted, recorded, logged unless its unit has done so, and skipped. [DEDUCED, log entry 18] -/
def refuseInsn (s : State) (q : Fin 4) (code : Nat) (byUnit : Bool) : State :=
  let x := s.seqr q
  let op := SeqInsn.opcode (currentWord s q)
  let s := (((((((s.count SEQ_INSN_ERR_CNT 1).set SEQ_LAST_ERR.SEQ q).set SEQ_LAST_ERR.VALID 1).set
    SEQ_LAST_ERR.CODE code).set SEQ_LAST_ERR.PC x.pc).set SEQ_LAST_ERR.OPCODE op).set SEQ_LAST_ERR.TICK s.tick)
  let s := if byUnit then s else
    s.log { region := regionSEQ, event := 32 + code, level := 2, action := 2, block := q
            detail := q + 4 + code * 8 + x.pc * 256 + op * 2 ^ 20 + (s.tick % 2 ^ 32) * 2 ^ 32 }
  (denseRefused s q op).setSeqr q { x with pc := (x.pc + 1) % 4096, stall := .none }

/-- A sequencer tries to issue the instruction at its program counter. `want` says which instructions the command names;
where another stands there the command has no effect. `kind` is how the sequencer is held while the instruction waits.
[DESIGN CHOICE, log entries 12, 63] -/
def tryIssue (s : State) (q : Fin 4) (kind : Stall) (want : SeqInsn → Bool) (run : SeqInsn → State → Issue) : State :=
  if !(s.seqr q).running then s
  else
    let w := currentWord s q
    match SeqInsn.parse w with
    | none => refuseInsn s q 1 false
    | some i =>
      if !want i then s
      else if !SeqInsn.allowed q i then refuseInsn s q 2 false
      else if SeqInsn.reservedSet w then refuseInsn s q 3 false
      else match run i s with
        | .issued t => t
        | .wait t => t.setSeqr q { t.seqr q with stall := kind }
        | .refuse code byUnit t => refuseInsn t q code byUnit

/-! Control. -/

/-- A sequencer begins the running step (R260). -/
def beginSeq (s : State) (q : Fin 4) : State :=
  let x := s.seqr q
  let s := s.setSeqr q { x with pc := 0, running := true, stall := .none, f := false, calls := [], startDue := false }
  setCounter ((List.range 15).foldl (fun s n => setCounter s q n 0) s) q 15 (s.step.number % 2 ^ 32)

/-- A sequencer that has halted after its hooks begins the step that waits for it (R277). -/
def settleSeq (s : State) (q : Fin 4) : State :=
  let x := s.seqr q
  if x.startDue ∧ !x.running ∧ x.hooks = [] then beginSeq s q else s

/-- HALT (Table 9.2, R34): waits for every operation issued, then halts; a hook it stands in ends with it. [DEDUCED, log entry 61] -/
def runHalt (q : Fin 4) (_ : SeqInsn) (s : State) : Issue :=
  if outstanding s q then .wait s
  else
    let t := issuedNext { s with unwaited := s.unwaited.filter (fun u => u.seqr != q.val) } q
    .issued (settleSeq (t.setSeqr q { t.seqr q with running := false, frames := [], pc := (s.seqr q).pc }) q)

/-- A tick has come as far as what may act at it goes: it has passed, or no message that comes first stands waiting (R39). [DEDUCED, log entry 10] -/
def tickCome (s : State) (t : Nat) : Bool := decide (t < s.tick) || (t == s.tick && !messageDue s)

/-- A tick wait (R266). [DEDUCED, log entry 59] -/
def runWaitTick (q : Fin 4) (i : SeqInsn) (s : State) : Issue :=
  match i with
  | .waitTick base offset =>
    let target := (if base then s.step.baseTick else s.step.sched) + offset
    if tickCome s target then
      .issued (issuedNext (if (s.seqr q).stall = .none then s.count SEQ_LATE_WAIT_CNT 1 else s) q)
    else .wait s
  | _ => .wait s

/-- A tag that WAIT, SIGNAL, LDS, TALLY or CHECK may name (Table 9.6, code 10). -/
def tagNamed (s : State) (t : Nat) : Bool := (tagEntry s t).valid && (tagEntry s t).rd

/-- A slot wait (R267, R214): satisfied by a named state; otherwise it stalls, and times out once it has done so for the tag's timeout. -/
def runWaitSlot (q : Fin 4) (cycles : Nat) (i : SeqInsn) (s : State) : Issue :=
  match i with
  | .waitSlot cen cidx tag slot states =>
    let n := effSlot s q cen cidx slot
    if !tagNamed s tag then .refuse 10 false s
    else if n ≥ (tagEntry s tag).slots then .refuse 9 false s
    else if statesHold states (slotAt s tag n).st then
      let t := issuedNext s q
      .issued (t.setSeqr q { t.seqr q with f := false })
    else if (s.seqr q).stall = .none then .wait (s.setSeqr q { s.seqr q with limit := stallLimit s tag })
    else if (s.seqr q).limit ≤ cycles then
      let t := issuedNext (s.count SEQ_WAIT_TIMEOUT_CNT 1) q
      .issued (t.setSeqr q { t.seqr q with f := true })
    else .wait s
  | _ => .wait s

/-- A done wait (R267). -/
def runWaitDone (q : Fin 4) (_ : SeqInsn) (s : State) : Issue :=
  if outstanding s q then .wait s
  else .issued (issuedNext { s with unwaited := s.unwaited.filter (fun u => u.seqr != q.val) } q)

/-- A signal acts on slots `n`, `n + 1`, … (R268). -/
def signalSlots (f : State → Nat → State) (n : Nat) : Nat → State → State
  | 0, s => s
  | k + 1, s => signalSlots f (n + 1) k (f s n)

/-- SIGNAL (R268), with what it does to one slot. -/
def runSignal (q : Fin 4) (act : Nat → Nat → State → Nat → State) (i : SeqInsn) (s : State) : Issue :=
  match i with
  | .signal fence _ state cen cidx tag first count =>
    let n := effSlot s q cen cidx first
    if !tagNamed s tag then .refuse 10 false s
    else if n + count > (tagEntry s tag).slots then .refuse 9 false s
    else if fence ∧ outstanding s q then .wait s
    else .issued (issuedNext (signalSlots (act tag state) n count s) q)
  | _ => .wait s

/-- SETC (R269). [DEDUCED, log entry 60] -/
def runSetc (q : Fin 4) (i : SeqInsn) (s : State) : Issue :=
  match i with
  | .setc cnt add imm =>
    if cnt = 15 then .refuse 6 false s
    else .issued (issuedNext (setCounter s q cnt (if add then (counter s q cnt + imm) % 2 ^ 32 else imm)) q)
  | _ => .wait s

/-- LOOP (R269). [DEDUCED, log entry 60] -/
def runLoop (q : Fin 4) (i : SeqInsn) (s : State) : Issue :=
  match i with
  | .loop cnt target =>
    let c := counter s q cnt
    if cnt = 15 then .refuse 6 false s
    else if c = 0 then .issued (issuedNext s q)
    else
      let t := setCounter s q cnt (c - 1)
      .issued (if c - 1 = 0 then issuedNext t q else issuedBranch t q target)
  | _ => .wait s

/-- BR (R269). -/
def runBr (q : Fin 4) (i : SeqInsn) (s : State) : Issue :=
  match i with
  | .br cnt cond imm target =>
    .issued (if brHolds cond (counter s q cnt) imm (s.seqr q).f then issuedBranch s q target else issuedNext s q)
  | _ => .wait s

/-- CALL (R269). -/
def runCall (q : Fin 4) (i : SeqInsn) (s : State) : Issue :=
  match i with
  | .call target =>
    let x := s.seqr q
    if x.calls.length ≥ 8 then .refuse 7 false s
    else
      let t := issuedBranch s q target
      .issued (t.setSeqr q { t.seqr q with calls := (x.pc + 1) % 4096 :: x.calls })
  | _ => .wait s

/-- RET (R269); the RET of a hook ends it (R277). -/
def runRet (q : Fin 4) (_ : SeqInsn) (s : State) : Issue :=
  let x := s.seqr q
  match x.calls with
  | [] => .refuse 7 false s
  | r :: rest =>
    let t := issuedBranch s q r
    match x.frames with
    | (depth, halted, stall, limit) :: frames =>
      if depth = x.calls.length then
        .issued (settleSeq (t.setSeqr q { t.seqr q with
          calls := rest, frames := frames, running := !halted, stall := if halted then .none else stall, limit := limit }) q)
      else .issued (t.setSeqr q { t.seqr q with calls := rest })
    | [] => .issued (t.setSeqr q { t.seqr q with calls := rest })

/-- A queued hook is taken at an instruction boundary, or in a WAIT, or on a halted sequencer (R277). -/
def takeHook (s : State) (q : Fin 4) : State :=
  let x := s.seqr q
  match x.hooks with
  | [] => s
  | h :: rest =>
    if x.stall = .other then s
    else if x.calls.length ≥ 8 then
      settleSeq (((s.setSeqr q { x with hooks := rest }).count SEQ_HOOK_DROP_CNT 1).log
        { region := regionSEQ, event := (Config.unlistedEvent 1).toNat, level := 2, action := 2, block := q }) q
    else
      let s := s.setSeqr q { x with
        hooks := rest, calls := x.pc :: x.calls, running := true, stall := .none, pc := h.entry
        frames := (x.calls.length + 1, !x.running, x.stall, x.limit) :: x.frames }
      (setCounter (setCounter s q 14 h.tag) q 13 h.page).count SEQ_HOOK_CNT 1

/-! Scalars, tallies and checks. -/

/-- `n` scalar registers loaded from consecutive binary32 values (R270). -/
def loadScalars (tag off first : Nat) : Nat → State → State
  | 0, s => s
  | n + 1, s =>
    let r := tagWord s tag (Int.ofNat off) 4
    loadScalars tag (off + 4) (first + 1) n (r.2.set (SEQ_SCALAR.S first) r.1)

/-- LDS (R270). -/
def runLds (q : Fin 4) (i : SeqInsn) (s : State) : Issue :=
  match i with
  | .lds tag offset first count =>
    if first + count > 64 then .refuse 9 false s
    else if !tagNamed s tag then .refuse 10 false s
    else .issued (issuedNext (loadScalars tag (offset * 4) first count (s.newOp 0)) q)
  | _ => .wait s

/-- The tally records of tiles `k`, `k + 1`, … of a tensor. -/
def readTallies (d : Desc) (k : Nat) : Nat → State → List Tally × State
  | 0, s => ([], s)
  | n + 1, s =>
    let r := tagWord s d.auxTag (Int.ofNat (d.tallyOff k)) 8
    let t := readTallies d (k + 1) n r.2
    (Tally.decode r.1 :: t.1, t.2)

/-- TALLY (R72, R274). -/
def runTally (q : Fin 4) (i : SeqInsn) (s : State) : Issue :=
  match i with
  | .tally doff a tag offset first count =>
    let n := effDesc s q doff 0 a
    match (if n < 4096 then descAt s n else none) with
    | none => .refuse 4 false s
    | some d =>
      if !tagNamed s tag then .refuse 10 false s
      else
        let last := d.tiles
        let upTo := if count = 0 then last else min last (first + count)
        let r := readTallies d first (upTo - first) (s.newOp 0)
        let t := Tally.combine d.fmt r.1
        .issued (issuedNext (tagWrite r.2 (rawChan r.2 tag) (Int.ofNat (offset * 8)) (toBytes 8 t.encode)) q)
  | _ => .wait s

/-- CHECK (R274). -/
def runCheck (q : Fin 4) (i : SeqInsn) (s : State) : Issue :=
  match i with
  | .check tag offset cond imm attn =>
    if !tagNamed s tag then .refuse 10 false s
    else
      let r := tagWord (s.newOp 0) tag (Int.ofNat (offset * 8)) 8
      let holds := checkHolds cond imm (Tally.decode r.1)
      let t := issuedNext r.2 q
      let t := t.setSeqr q { t.seqr q with f := holds }
      .issued (if attn && holds then
        (t.log { region := regionSEQ, event := (Config.unlistedEvent 4).toNat, level := 2, action := 5
                 block := q }).attend 3
        else t)
  | _ => .wait s

/-! The meanings. -/

/-- HALT. -/
def execHalt (q : Fin 4) (s : State) : Host.Outcome State Fault Refusal :=
  .next (tryIssue s q .other (fun i => i matches .halt) (runHalt q))

/-- WAIT_TICK. -/
def execWaitTick (q : Fin 4) (s : State) : Host.Outcome State Fault Refusal :=
  .next (tryIssue s q .wait (fun i => i matches .waitTick ..) (runWaitTick q))

/-- WAIT_SLOT. -/
def execWaitSlot (q : Fin 4) (cycles : Nat) (s : State) : Host.Outcome State Fault Refusal :=
  .next (tryIssue s q .wait (fun i => i matches .waitSlot ..) (runWaitSlot q cycles))

/-- WAIT_DONE. -/
def execWaitDone (q : Fin 4) (s : State) : Host.Outcome State Fault Refusal :=
  .next (tryIssue s q .wait (fun i => i matches .waitDone) (runWaitDone q))

/-- SIGNAL_CLOSE: a close as by the tag's PRODUCER. -/
def execSignalClose (q : Fin 4) (s : State) : Host.Outcome State Fault Refusal :=
  .next (tryIssue s q .other (fun i => match i with | .signal _ a .. => a == 0 | _ => false)
    (runSignal q (fun tag _ s n => countClose s tag n)))

/-- SIGNAL_DRAIN: a drain as by the tag's CONSUMER. -/
def execSignalDrain (q : Fin 4) (s : State) : Host.Outcome State Fault Refusal :=
  .next (tryIssue s q .other (fun i => match i with | .signal _ a .. => a == 1 | _ => false)
    (runSignal q (fun tag _ s n => countDrain s tag n)))

/-- SIGNAL_SET. -/
def execSignalSet (q : Fin 4) (s : State) : Host.Outcome State Fault Refusal :=
  .next (tryIssue s q .other (fun i => match i with | .signal _ a .. => a == 2 | _ => false)
    (runSignal q (fun tag state s n => setSlot s tag n (SlotSt.ofCode state))))

/-- SETC. -/
def execSetc (q : Fin 4) (s : State) : Host.Outcome State Fault Refusal :=
  .next (tryIssue s q .other (fun i => i matches .setc ..) (runSetc q))

/-- LOOP. -/
def execLoop (q : Fin 4) (s : State) : Host.Outcome State Fault Refusal :=
  .next (tryIssue s q .other (fun i => i matches .loop ..) (runLoop q))

/-- BR. -/
def execBr (q : Fin 4) (s : State) : Host.Outcome State Fault Refusal :=
  .next (tryIssue s q .other (fun i => i matches .br ..) (runBr q))

/-- CALL. -/
def execCall (q : Fin 4) (s : State) : Host.Outcome State Fault Refusal :=
  .next (tryIssue s q .other (fun i => i matches .call ..) (runCall q))

/-- RET. -/
def execRet (q : Fin 4) (s : State) : Host.Outcome State Fault Refusal :=
  .next (tryIssue s q .other (fun i => i matches .ret) (runRet q))

/-- LDS. -/
def execLds (q : Fin 4) (s : State) : Host.Outcome State Fault Refusal :=
  .next (tryIssue s q .other (fun i => i matches .lds ..) (runLds q))

/-- TALLY. -/
def execTally (q : Fin 4) (s : State) : Host.Outcome State Fault Refusal :=
  .next (tryIssue s q .other (fun i => i matches .tally ..) (runTally q))

/-- CHECK. -/
def execCheck (q : Fin 4) (s : State) : Host.Outcome State Fault Refusal :=
  .next (tryIssue s q .other (fun i => i matches .check ..) (runCheck q))

/-- HOOK_QUEUE: the chip invokes a tag's recovery hook; `page` is the lost page, none for an SRAM or cache loss. -/
def execHookQueue (tag : Nat) (page : Option Nat) (s : State) : Host.Outcome State Fault Refusal :=
  .next (queueHook s tag (match page with | some p => p % 2 ^ 32 | none => 0xFFFFFFFF))

/-- HOOK_TAKE. -/
def execHookTake (q : Fin 4) (s : State) : Host.Outcome State Fault Refusal := .next (takeHook s q)

/-- FORCED_HALT (R263): a sequencer still running at the step limit halts; operations it has issued run on. -/
def execForcedHalt (q : Fin 4) (s : State) : Host.Outcome State Fault Refusal :=
  let limit := s.held SEQ_CFG.STEP_LIMIT
  let x := s.seqr q
  if s.step.running ∧ x.running ∧ limit ≠ 0 ∧ s.tick ≥ s.step.sched + limit * 1024 then
    let s := { s with cad := { s.cad with held := s.cad.held.filter (fun l => l.seqr != q.val)
                                          admitted := s.cad.admitted.filter (fun l => l.seqr != q.val) } }
    .next (((s.setSeqr q { x with running := false, stall := .none, frames := [], startDue := false }).count SEQ_FORCED_HALT_CNT 1).log
      { region := regionSEQ, event := (Config.unlistedEvent 3).toNat, level := 2, action := 2, block := q })
  else .next s

end Sys2Proof.Machine
end

