-- ==== Sys2Proof/Machine/Dense.lean ====
section
/-!
DEFINITION. Machine/Dense.lean: the dense engine (03): issue of its three instructions, passes and weight loading, check
tiles and the states of the panels, deferred passes, delivery and completion (R75 to R116, R271, R272).
-/

namespace Sys2Proof.Machine

open Reg

/-! Panels (Table 3.4). -/

def panelField (p : Nat) : Field :=
  match p with
  | 0 => DNS_PANEL_STATE.PANEL0
  | 1 => DNS_PANEL_STATE.PANEL1
  | 2 => DNS_PANEL_STATE.PANEL2
  | _ => DNS_PANEL_STATE.PANEL3

def mismatchField (p : Nat) : Field :=
  match p with
  | 0 => DNS_CHECK_MISMATCH_CNT.PANEL0
  | 1 => DNS_CHECK_MISMATCH_CNT.PANEL1
  | 2 => DNS_CHECK_MISMATCH_CNT.PANEL2
  | _ => DNS_CHECK_MISMATCH_CNT.PANEL3

/-- The panels in service, in order. -/
def inService (s : State) : List Nat := [0, 1, 2, 3].filter (fun p => s.get (panelField p) != 2)

def setDense (s : State) (d : DenseState) : State := { s with dense := d }

/-! Passes (R76 to R82). -/

/-- The density factor of a panel format (Table 3.1). -/
def density (fmt : Nat) : Nat := if fmt ≤ 2 then 1 else if fmt = 9 then 4 else 2

/-- The passes of columns `c0` to `c1 - 1` over some chunks on some panels, numbered from `no` on: column group by column
group, and within each chunk by chunk (R79). -/
def passesOf (panels : List Nat) (c1 : Nat) (chunks : List Nat) : Nat → Nat → Nat → List Pass
  | 0, _, _ => []
  | fuel + 1, c0, no =>
    if c0 ≥ c1 ∨ panels = [] then []
    else
      let nc := min (192 * panels.length) (c1 - c0)
      chunks.zipIdx.map (fun x => { no := no + x.2, col0 := c0, ncols := nc, chunk := x.1, panels := panels })
        ++ passesOf panels c1 chunks fuel (c0 + nc) (no + chunks.length)

/-- The column groups of passes in order: the first column, the one after the last, and the chunks; passes of one group stand together. -/
def passGroups : List Pass → List (Nat × Nat × List Nat)
  | [] => []
  | p :: ps =>
    match passGroups ps with
    | (c0, c1, ks) :: gs => if c0 = p.col0 then (c0, c1, p.chunk :: ks) :: gs else (p.col0, p.col0 + p.ncols, [p.chunk]) :: (c0, c1, ks) :: gs
    | [] => [(p.col0, p.col0 + p.ncols, [p.chunk])]

/-- Neighbouring column groups that the same chunks are left of, taken together. -/
def joinGroups : List (Nat × Nat × List Nat) → List (Nat × Nat × List Nat)
  | [] => []
  | g :: gs =>
    match joinGroups gs with
    | h :: hs => if g.2.1 = h.1 ∧ g.2.2 = h.2.2 then (g.1, h.2.1, g.2.2) :: hs else g :: h :: hs
    | [] => [g]

/-- The passes left of an operation, mapped onto the panels now in service (R102): columns of which the same chunks are left, in order, 192 to a
panel; no chunk is streamed again that a column has had. -/
def remap (panels : List Nat) (rest : List Pass) : List Pass :=
  ((joinGroups (passGroups rest)).foldl (fun (r : List Pass × Nat) g =>
    let ps := passesOf panels g.2.1 g.2.2 (g.2.1 - g.1 + 1) g.1 r.2
    (r.1 ++ ps, r.2 + ps.length)) ([], ((rest.head?.map (·.no)).getD 0))).1

/-- The columns of a pass that fall to one of its panels: the first, and the one after the last. -/
def panelCols (p : Pass) (panel : Nat) : Nat × Nat :=
  let i := p.panels.idxOf panel
  let lo := min (p.col0 + p.ncols) (p.col0 + 192 * i)
  (lo, min (p.col0 + p.ncols) (lo + 192))

/-! Reading operands. -/

/-- The tiles in rows `r0` to `r0 + nr - 1` and columns `c0` to `c0 + nc - 1` of a tensor, read in that order. -/
def readBlock (s : State) (d : Desc) (c : Chan) : List (Nat × Nat) → FMap (List Byte) → FMap (List Byte) × State
  | [], m => (m, s)
  | (r, k) :: rest, m =>
    let x := readTile s d c { t0 := k, t1 := r, i2 := 0, i3 := 0, i4 := 0, i5 := 0 }
    readBlock x.2 d c rest (FMap.put m (r * d.t0 + k) x.1)

def blockPlaces (r0 nr c0 nc : Nat) : List (Nat × Nat) :=
  (List.range nr).flatMap (fun i => (List.range nc).map (fun j => (r0 + i, c0 + j)))

/-- The bytes of the tile that holds element (`i1`, `i0`) of a tensor. -/
def blockTile (d : Desc) (m : FMap (List Byte)) (i1 i0 : Nat) : List Byte := (FMap.find m (i1 / 32 * d.t0 + i0 / 32)).getD []

/-- Element (`i1`, `i0`) of a dense tensor from its tiles. -/
def blockVal (d : Desc) (m : FMap (List Byte)) (i1 i0 : Nat) : Val := d.valIn (blockTile d m i1 i0) (i1 % 32) (i0 % 32)

/-- Element (`e1`, `e0`) of a sparse tile is kept by its metadata. -/
def keptAt (d : Desc) (bs : List Byte) (e1 e0 : Nat) : Bool :=
  let len := Desc.sparseGroup d.sparse
  (sparseKeptIdx d.sparse d.format bs e0 (e1 / len)).contains (e1 % len)

/-- The aligned block that holds an element is transposable (R112): its metadata obeys Table 3.5, and each of its rows holds as many kept
positions as a group keeps. -/
def transposable (d : Desc) (bs : List Byte) (e1 e0 : Nat) : Bool :=
  let b := Desc.sparseGroup d.sparse
  (List.range b).all (fun i =>
    sparseMetaOk d.sparse d.format bs (e0 / b * b + i) (e1 / b)
      && ((List.range b).filter (fun j => keptAt d bs (e1 / b * b + i) (e0 / b * b + j))).length == Desc.sparseKept d.sparse)

/-- The kept positions of the group of `n`, the output column, that begins at reduction index `k`, with their weights (R110, R112); none where the
metadata breaks its rules or the pattern is not transposable. Where the operand is broadcast along the columns, every column reads the first of its
tile; where along the reduction, every index reads the first, and weights that a sparse pattern cannot hold are none either (R111, R182).
[DESIGN CHOICE, log entry 34] -/
def groupKept (d : Desc) (m : FMap (List Byte)) (k n : Nat) : Option (List (Nat × Val)) :=
  let len := Desc.sparseGroup d.sparse
  let along := if d.trans then d.d0.bcast else d.d1.bcast
  let c := if (if d.trans then d.d1.bcast else d.d0.bcast) then 0 else n % 32
  let r := if along then 0 else k % 32
  let kept :=
    if !d.trans then
      let bs := blockTile d m k n
      let g := r / len
      if sparseMetaOk d.sparse d.format bs c g then
        some ((sparseKeptIdx d.sparse d.format bs c g).zipIdx.map (fun x =>
          (x.1, sparseStored d.sparse d.format d.sax bs g x.2 (r + x.1) c)))
      else none
    else
      let bs := blockTile d m n k
      if transposable d bs c r then
        some (((List.range len).filter (fun i => keptAt d bs c (r + i))).map (fun i =>
          (i, sparseStored d.sparse d.format d.sax bs (c / len) ((sparseKeptIdx d.sparse d.format bs (r + i) (c / len)).idxOf (c % len)) c (r + i))))
      else none
  if !along then kept
  else kept.bind (fun ws => if ws.any (fun w => w.1 == 0 && !w.2.isZero) then none else some (ws.map (fun w => (w.1, Val.zero))))

/-- The weight slots that one group of a column fills (R108 to R113): half as many as its length, 1:4 expanded with the lowest free position at
weight zero; free weights that select free activations where the group says nothing. [DESIGN CHOICE, log entry 34] -/
def groupSlots (d : Desc) (m : FMap (List Byte)) (seed k n : Nat) : List (Nat × Val) :=
  let len := Desc.sparseGroup d.sparse
  match groupKept d m k n with
  | none => (List.range (len / 2)).map (fun j =>
      let key := ((seed * 2 ^ 32 + n) * 2 ^ 32 + k) * 8 + j
      ((Config.badIndex key).toNat % len, FpFmt.w48.decode (Config.badSparse key).toNat))
  | some [(0, w)] => [(0, w), (1, Val.zero)]
  | some [(i, w)] => [(0, Val.zero), (i, w)]
  | some ws => ws

/-- The weight slots of column `n` over reduction indices `k0` to `k1 - 1`, in order: the place in the chunk of the activation that a slot selects,
and its weight, zero beyond K (R77, R80). -/
def columnSlots (d : Desc) (m : FMap (List Byte)) (seed k0 k1 n : Nat) : List (Nat × Val) :=
  if d.sparse = 0 then
    (List.range (k1 - k0)).map (fun i => (i, if d.trans then blockVal d m n (k0 + i) else blockVal d m (k0 + i) n))
  else
    let len := Desc.sparseGroup d.sparse
    (List.range (ceilDiv (k1 - k0) len)).flatMap (fun g =>
      (groupSlots d m seed (k0 + g * len) n).map (fun x =>
        (g * len + x.1, if k0 + g * len + x.1 < k1 then x.2 else Val.zero)))

/-- Some group of a column says nothing that its slots could hold (R111, R113). -/
def oddColumn (d : Desc) (m : FMap (List Byte)) (k0 k1 n : Nat) : Bool :=
  d.sparse != 0 && (let len := Desc.sparseGroup d.sparse
    (List.range (ceilDiv (k1 - k0) len)).any (fun g => (groupKept d m (k0 + g * len) n).isNone))

/-- The descriptor of a running operation's operand. -/
def opDesc (s : State) (n : Nat) : Desc := (descAt s n).getD (Desc.ofWords [])

/-- The tiles of W that columns `c0` to `c1 - 1` of a chunk lie in. -/
def weightPlaces (op : DenseOp) (d : Desc) (chunk c0 c1 : Nat) : List (Nat × Nat) :=
  let k0 := chunk * op.depth
  let k1 := min op.k (k0 + op.depth)
  let kt0 := k0 / 32
  let kt := ceilDiv k1 32 - kt0
  let nt0 := c0 / 32
  let nt := ceilDiv c1 32 - nt0
  if c0 ≥ c1 then [] else if d.trans then blockPlaces nt0 nt kt0 kt else blockPlaces kt0 kt nt0 nt

/-- The weights of one panel for one pass, read from W (R80, R82). -/
def loadWeights (s : State) (op : DenseOp) (pass chunk c0 c1 : Nat) : Load × State :=
  let d := opDesc s op.w
  let k0 := chunk * op.depth
  let r := readBlock s d (d.chan (hintOf op.hintW) (channel 1 op.no (2 * 4096 + op.w))) (weightPlaces op d chunk c0 c1) []
  let f := r.2.fresh
  let k1 := min op.k (k0 + op.depth)
  ({ pass := pass, col0 := c0, chunk := chunk, slots := op.depth / (if op.sparse = 0 then 1 else 2)
     odd := (List.range (c1 - c0)).any (fun j => oddColumn d r.1 k0 k1 (c0 + j))
     cols := (List.range (c1 - c0)).map (fun j => columnSlots d r.1 f.1 k0 k1 (c0 + j)) }, f.2)

/-- The tiles of X that rows `m0` to `m0 + nr - 1` over a chunk lie in. -/
def rowPlaces (op : DenseOp) (d : Desc) (chunk m0 nr : Nat) : List (Nat × Nat) :=
  let k0 := chunk * op.depth
  let k1 := min op.k (k0 + op.depth)
  let kt0 := k0 / 32
  let kt := ceilDiv k1 32 - kt0
  let mt0 := m0 / 32
  let mt := ceilDiv (m0 + nr) 32 - mt0
  if d.trans then blockPlaces kt0 kt mt0 mt else blockPlaces mt0 mt kt0 kt

/-- Rows `m0` to `m0 + nr - 1` of X over one chunk, read through the feeder (R79, R90). -/
def readRows (s : State) (op : DenseOp) (chunk m0 nr : Nat) : List (List Val) × State :=
  let d := opDesc s op.x
  let k0 := chunk * op.depth
  let k1 := min op.k (k0 + op.depth)
  let r := readBlock s d (d.chan (hintOf op.hintX) (channel 1 op.no (1 * 4096 + op.x))) (rowPlaces op d chunk m0 nr) []
  ((List.range nr).map (fun i => (List.range (k1 - k0)).map (fun j =>
     if d.trans then blockVal d r.1 (k0 + j) (m0 + i) else blockVal d r.1 (m0 + i) (k0 + j))), r.2)

/-! The slots of X and W that an operation reads (R206 to R208). -/

/-- Tiles of a matrix, by row and column, as places. -/
def matrixPlaces (ps : List (Nat × Nat)) : List Desc.Pos :=
  ps.map (fun x => { t0 := x.2, t1 := x.1, i2 := 0, i3 := 0, i4 := 0, i5 := 0 })

/-- The slots of X that streaming some rows of a chunk reads. [DEDUCED, log entry 40] -/
def rowUses (s : State) (op : DenseOp) (chunk m0 nr : Nat) : List SlotUse :=
  let d := opDesc s op.x
  placeUses s d (matrixPlaces (rowPlaces op d chunk m0 nr)) false

/-- The slots of W that loading some columns of a chunk reads. [DEDUCED, log entry 40] -/
def weightUses (s : State) (op : DenseOp) (chunk c0 c1 : Nat) : List SlotUse :=
  let d := opDesc s op.w
  placeUses s d (matrixPlaces (weightPlaces op d chunk c0 c1)) false

/-- The slots of X that the operation may still read: for passes to come, deferred ones too, and for check tiles not yet passed. -/
def rowsWanted (s : State) (op : DenseOp) (tiles : List CheckTile) : List SlotUse :=
  op.plan.flatMap (fun x => rowUses s op x.chunk 0 op.m)
    ++ op.deferred.flatMap (fun l => l.rows.flatMap (fun r => rowUses s op l.chunk r (min 32 (op.m - r))))
    ++ (tiles.filter (·.outs.isNone)).flatMap (fun t => rowUses s op t.load.chunk t.row0 t.rows.length)

/-- The slots of W that the operation may still read: for passes to come, deferred ones too, and for columns that a retirement would have loaded
again. -/
def weightsWanted (s : State) (op : DenseOp) (tiles : List CheckTile) : List SlotUse :=
  op.plan.flatMap (fun x => weightUses s op x.chunk x.col0 (x.col0 + x.ncols))
    ++ op.deferred.flatMap (fun l => weightUses s op l.chunk l.col0 l.col1)
    ++ (tiles.filter (·.outs.isNone)).flatMap (fun t => weightUses s op t.load.chunk t.load.col0 (t.load.col0 + t.load.cols.length))

/-- The feeder and the loader drain each slot once its last read has been accepted: no pass to come and no check tile that could fail yet needs
it (R208). [DEDUCED, log entry 40] -/
def drainRead (s : State) : State :=
  match s.dense.op with
  | none => s
  | some op =>
    if op.acqX.held ++ op.acqX.foreign ++ op.acqW.held ++ op.acqW.foreign = [] then s
    else
      let xs := rowsWanted s op s.dense.tiles
      let ws := weightsWanted s op s.dense.tiles
      let a := release s op.acqX (fun u => !xs.contains u)
      let b := release a.2 op.acqW (fun u => !ws.contains u)
      setDense b.2 { b.2.dense with op := some { op with acqX := a.1, acqW := b.1 } }

/-! Sums in W48 (R54). -/

/-- A sum in W48 of values in order (R54): the first of them rounded, each of the others added to the sum so far; and what the adder
delivers (R73). [DEDUCED, log entry 32] -/
def w48Sum : List Val → Val × NumEvents
  | [] => (Val.zero, .none)
  | v :: vs =>
    vs.foldl (fun a x => let r := w48Add a.1 x; (r.1, a.2.note r.2)) (FpFmt.w48.decode (FpFmt.w48.encode .rne 0 v).1, .none)

/-- Exact products summed in ascending index (R54). [DEDUCED, log entry 32] -/
def w48Dot (xs ws : List Val) : Val × NumEvents := w48Sum ((xs.zip ws).map (fun p => Val.mul p.1 p.2))

/-- An output of a panel (R77, R80): the products of a column's slots and of the activations that they select, summed in order, and then the
products of the slots beyond K, each +0. [DEDUCED, log entry 32] -/
def cellSum (xs : List Val) (slots : Nat) (col : List (Nat × Val)) : Val × NumEvents :=
  let r := w48Sum (col.map (fun p => Val.mul (xs.getD p.1 Val.zero) p.2))
  let n := slots - col.length
  if n = 0 then r
  else
    let z := w48Add r.1 Val.zero
    (z.1, (List.range n).foldl (fun e _ => e.note z.2) r.2)

/-- The check sums of a panel's weights, from the expanded weights as loaded (R97's preamble): `c_k` and `a_k` for each reduction index. -/
def checkSums (cols : List (List (Nat × Val))) (depth : Nat) : List Val × List Val :=
  let at_ := fun k => cols.flatMap (fun c => (c.filter (fun x => x.1 == k)).map (·.2))
  ((List.range depth).map (fun k => (w48Sum (at_ k)).1),
   (List.range depth).map (fun k => (w48Sum ((at_ k).map Val.abs)).1))

/-- T of R97 (Table 3.12). -/
def tolShift (s : State) : Nat := max 16 (min 40 (s.held DNS_CHECK_CFG.TOL_SHIFT))

/-- One row of a check tile passes (R97); a row whose sums are not finite passes or fails by a free value. -/
def rowPasses (tol seed : Nat) (xs outs c a : List Val) : Bool :=
  let y := (w48Sum outs).1
  let x := (w48Dot xs c).1
  let mag := (w48Dot (xs.map Val.abs) a).1
  let delta := (w48Add y x.neg).1.abs
  if delta.isFin && mag.isFin then Val.le delta (mag.scale (- Int.ofNat tol)) else Config.checkNonFinite seed

/-- The outputs of a check tile as its panel computes them, with the outputs that a fault upset (row, column, W48
pattern) in their place, and the events of its additions. -/
def tileOutputs (t : CheckTile) (upsets : List (Nat × Nat × BitVec 48)) : List (List Val) × NumEvents :=
  let rows := t.rows.map (fun xs => t.load.cols.map (fun c => cellSum xs t.load.slots c))
  let outs := rows.zipIdx.map (fun r => r.1.zipIdx.map (fun o =>
    match upsets.find? (fun u => u.1 == r.2 && u.2.1 == o.2) with
    | some u => FpFmt.w48.decode u.2.2.toNat
    | none => o.1.1))
  (outs, rows.foldl (fun n r => r.foldl (fun n o => n.plus o.2) n) .none)

/-! Accumulator regions (R81, R94, R95). -/

/-- The image's declaration of an accumulator region by tag: its format, binary32 where there is none (R465, R466). -/
def accumEntries (s : State) : List Nat :=
  let bs := imgSection s 4
  (List.range (bs.length / 8)).map (fun i => ofBytes ((bs.drop (8 * i)).take 8))

def accFmt (s : State) (tag : Nat) : Nat :=
  match (accumEntries s).find? (fun w => bits w 0 12 == tag) with
  | some w => bits w 12 4
  | none => 0

/-- The tag of the tied region of a weight identifier (R94). -/
def tiedTag (s : State) (wid : Nat) : Option Nat :=
  ((accumEntries s).find? (fun w => bit w 16 && bits w 32 16 == wid)).map (fun w => bits w 0 12)

/-- An accumulator region seen as the M × N tensor it holds, tile by tile from byte 0 of its tag. -/
def regionDesc (tag fmt m n : Nat) : Desc :=
  let one : Dim := { size := 1, stride := 0, bcast := false, idx := false }
  { offset := 0, tag := tag, idxTag := 0, fmt := fmt, layout := 1, cls := 4, trans := false, sax := false, sync := false
    idxOffset := 0, auxTag := 0, auxOffset := 0, sparse := 0, prot := false, reserved := false
    d0 := { one with size := n, stride := 1 }, d1 := { one with size := m, stride := Int.ofNat (ceilDiv n 32) }
    d2 := one, d3 := one, d4 := one, d5 := one }

/-- The lane of an element of a panel's tile column (Table 2.6). -/
def drainLane (panel ct : Nat) (e : Nat) : Nat := 192 * panel + 32 * ct + e % 32

/-- A tile written into an accumulator region: as it is into a W48 region, converted under CVT into a binary32 one (R53, R95). -/
def regionTile (s : State) (d : Desc) (p : Desc.Pos) (cvt : Nat) (lane : Nat → Nat) (vals : List Val) (k : Conv) : OutTile :=
  let o := convTile d p (if d.format = .w48 then .rne else s.cvt regionDNS cvt) lane vals (fun _ => true) k
  if d.format = .w48 then { o with conv := k } else o

/-- A tile contributed to an accumulator region: written when it is the first contribution, else added in W48, which the adder's counts take in
(R53, R54, R73, R81, R94, R95). [DEDUCED, log entry 37] -/
def contribute (s : State) (tag m n cvt rt ct : Nat) (lane : Nat → Nat) (first : Bool) (vals : List Val) : State :=
  let d := regionDesc tag (accFmt s tag) m n
  let p : Desc.Pos := { t0 := ct, t1 := rt, i2 := 0, i3 := 0, i4 := 0, i5 := 0 }
  let r := if first then ([], s) else readTile s d (rawChan s tag) p
  let sums := (List.range 1024).map (fun e =>
    if first then (vals.getD e Val.zero, NumCat.plain)
    else w48Add (elemVal d.format false r.1 (e / 32) (e % 32)) (vals.getD e Val.zero))
  let inside := d.inSize p
  let k := r.2.conv regionDNS
  let ev := (List.range 1024).foldl (fun n e => if inside e then n.note (sums.getD e (Val.zero, .plain)).2 else n) .none
  let o := regionTile r.2 d p cvt lane (sums.map (·.1)) { k with events := ev }
  let s := r.2.commitConv regionDNS o.conv
  writeTile s d (rawChan s tag) p o inside

/-- The values of a tile of an accumulator region. -/
def regionVals (s : State) (tag m n rt ct : Nat) : List Val × State :=
  let d := regionDesc tag (accFmt s tag) m n
  let r := readTile s d (rawChan s tag) { t0 := ct, t1 := rt, i2 := 0, i3 := 0, i4 := 0, i5 := 0 }
  ((List.range 1024).map (fun e => elemVal d.format false r.1 (e / 32) (e % 32)), r.2)

/-! Delivery. -/

/-- The slots that one tile of Y touches. -/
def tileUses (s : State) (d : Desc) (k : Nat) : List SlotUse := placeUses s d [d.posOf k] true

/-- Every tile of Y that touches a slot has been written. -/
def slotWritten (s : State) (op : DenseOp) (u : SlotUse) : Bool :=
  let d := opDesc s op.y
  (List.range d.tiles).all (fun k => !(tileUses s d k).contains u || op.written.contains (k / d.t0, k % d.t0))

/-- The tile columns of a load: their index within the panel and their number in Y. -/
def loadTiles (l : Load) : List (Nat × Nat) :=
  (List.range (ceilDiv l.cols.length 32)).map (fun j => (j, l.col0 / 32 + j))

/-- The values of one tile column of a check tile's outputs. -/
def outTile (outs : List (List Val)) (j : Nat) : List Val :=
  (List.range 1024).map (fun e => (outs.getD (e / 32) []).getD (32 * j + e % 32) Val.zero)

/-- The tile's contribution completes an output tile of the operation: every other chunk has been accepted. -/
def completes (op : DenseOp) (rt ct : Nat) : Bool :=
  (op.accepted.filter (fun a => a.1 == rt && a.2.1 == ct)).length + 1 == ceilDiv op.k op.depth

/-- The accesses to slots of Y that a check tile's delivery makes. -/
def deliveryUses (s : State) (op : DenseOp) (t : CheckTile) : List SlotUse :=
  if op.tied.isSome then []
  else
    let d := opDesc s op.y
    (loadTiles t.load).flatMap (fun c => if completes op (t.row0 / 32) c.2 then tileUses s d (t.row0 / 32 * d.t0 + c.2) else [])

/-- One tile column of a check tile goes where the operation sends it (R81, R94). -/
def deliverColumn (t : CheckTile) (outs : List (List Val)) (r : State × DenseOp) (c : Nat × Nat) : State × DenseOp :=
  let s := r.1
  let op := r.2
  let rt := t.row0 / 32
  let lane := drainLane t.panel c.1
  let vals := outTile outs c.1
  let op' := { op with accepted := (rt, c.2, t.load.chunk) :: op.accepted }
  let done := completes op rt c.2
  let first := !op.accepted.any (fun a => a.1 == rt && a.2.1 == c.2)
  let multi := decide (op.depth < op.k)
  let q := if multi then
      (match op.acc with
       | some tag =>
         let s := contribute s tag op.m op.n op.cvt rt c.2 lane first vals
         if done then regionVals s tag op.m op.n rt c.2 else (vals, s)
       | none => (vals, s))
    else (vals, s)
  if !done then (q.2, op')
  else match op.tied.bind (tiedTag q.2) with
    | some tag => (contribute q.2 tag op.m op.n op.cvt rt c.2 lane op.tiedFirst q.1, op')
    | none =>
      let d := opDesc q.2 op.y
      let k := rt * d.t0 + c.2
      let stale := op.acqX.stale || op.acqW.stale || op.acqY.staleAt d.tag ((tileUses q.2 d k).map (·.slot))
      let f := q.2.fresh
      let vals := if op.meets then openVals f.1 1024 else q.1
      let beneath := (List.range d.tiles).filter (fun j =>
        j != k && op.written.contains (j / d.t0, j % d.t0) && d.tileDist (d.posOf j) == d.tileDist (d.posOf k))
      (deliverOver (if op.meets then f.2 else q.2) regionDNS d (d.chan (hintOf op.hintY) (channel 1 op.no (3 * 4096 + op.y))) k beneath op.cvt lane
        vals stale (fun _ _ => true),
       { op' with written := (rt, c.2) :: op'.written })

/-- Two check tiles have outputs in common: rows, and columns of Y. -/
def sameOutputs (t u : CheckTile) : Bool :=
  u.row0 == t.row0 && decide (u.load.col0 < t.load.col0 + t.load.cols.length) && decide (t.load.col0 < u.load.col0 + u.load.cols.length)

/-- A passed check tile may leave the drain: none that streamed earlier and has outputs in common with it is still in the engine (R81). -/
def inTurn (tiles : List CheckTile) (t : CheckTile) : Bool :=
  match tiles.find? (sameOutputs t) with
  | some u => u.stream == t.stream
  | none => true

/-- Two check tiles are one: the same rows of the same stream through the same panel. -/
def sameTile (t u : CheckTile) : Bool := u.panel == t.panel && u.row0 == t.row0 && u.stream == t.stream

/-- Passed check tiles leave the drain, as far as the slots of Y admit them; a slot whose last tile has been written is closed (R208). -/
def deliverPassed : Nat → State → State
  | 0, s => s
  | fuel + 1, s =>
    match s.dense.op with
    | none => s
    | some op =>
      if op.acqY.needs ≠ [] then s
      else match s.dense.tiles.find? (fun t => t.outs.isSome && inTurn s.dense.tiles t) with
        | none => s
        | some t =>
          let a := acquire s op.acqY (deliveryUses s op t)
          let op := { op with acqY := a.1, holder := if a.1.needs ≠ [] ∧ s.get (panelField t.panel) ≠ 2 then some t.panel else none }
          let s := setDense a.2 { a.2.dense with op := some op }
          if a.1.needs ≠ [] then s
          else
            let d := (loadTiles t.load).foldl (deliverColumn t (t.outs.getD [])) (s, op)
            let c := release d.1 d.2.acqY (slotWritten d.1 d.2)
            deliverPassed fuel (setDense c.2 { c.2.dense with
              op := some { d.2 with acqY := c.1 }
              tiles := c.2.dense.tiles.filter (fun u => !sameTile t u) })

def deliverAll (s : State) : State := deliverPassed (s.dense.tiles.length + 1) (drainRead (s.inOp 1))

/-! Panel states (R99 to R107). -/

/-- The value of DNS_LAST_MISMATCH (Table 3.14). -/
def lastMismatch (s : State) (p row0 : Nat) (injected : Bool) : Nat :=
  p + b2n injected * 4 + 8 + (row0 % 2 ^ 24) * 2 ^ 8 + (s.get DNS_LAST_MISMATCH.OP) * 2 ^ 32

/-- A failed check attempt is counted and recorded (Table 3.14, Table 3.16). -/
def noteMismatch (s : State) (p row0 : Nat) (injected : Bool) : State :=
  (((((s.count (mismatchField p) 1).set DNS_LAST_MISMATCH.PANEL p).setFlag DNS_LAST_MISMATCH.INJECTED injected).set
    DNS_LAST_MISMATCH.VALID 1).set DNS_LAST_MISMATCH.ROW row0).set DNS_LAST_MISMATCH.OP (s.dense.opTotal + 1)

/-- The deferred passes that a retirement leaves (R102): for a pass streamed already, the rows of its check tiles that have not passed; for
a pass loaded and not yet streamed, all rows. A pass that other panels have loaded and the retired panel has not is taken as loaded too.
[DESIGN CHOICE, log entry 134] -/
def deferFor (op : DenseOp) (tiles : List CheckTile) (p : Nat) (loadedOnly : List Pass) : List Deferred :=
  let mine := tiles.filter (fun t => t.panel == p && t.outs.isNone && t.load.cols != [])
  let streams := (mine.map (fun t => t.stream)).eraseDups
  let open_ := streams.filterMap (fun n =>
    (mine.find? (fun t => t.stream == n)).map (fun t =>
      { pass := t.load.pass, col0 := t.load.col0, col1 := t.load.col0 + t.load.cols.length, chunk := t.load.chunk
        rows := (mine.filter (fun u => u.stream == n)).map (·.row0) }))
  let later := loadedOnly.filterMap (fun x =>
    let c := panelCols x p
    if x.panels.contains p ∧ c.1 < c.2 then
      some { pass := x.no, col0 := c.1, col1 := c.2, chunk := x.chunk, rows := (List.range (ceilDiv op.m 32)).map (· * 32) }
    else none)
  open_ ++ later

/-- Passes of the plan for which some panel has been loaded. [DESIGN CHOICE, log entry 134] -/
def begun (op : DenseOp) (x : Pass) : Bool := op.loads.any (fun l => l.2.any (fun y => y.pass == x.no))

/-- A panel whose outputs the drain holds for want of room leaves service: from here on that freezes the engine no more, and the cycles in which it has
are counted, a free number (R88, R89). [DESIGN CHOICE, log entry 147] -/
def holderLeaves (s : State) (p : Nat) : State :=
  match s.dense.op with
  | none => s
  | some op =>
    if op.holder ≠ some p then s
    else
      let f := s.fresh
      let s := if op.acqY.needs ≠ [] then countFreeze f.2 0 (Config.heldCycles f.1 1) 0 else s
      setDense s { s.dense with op := some { op with holder := none } }

/-- The passes of an operation from its start, on the panels in service. -/
def firstPlan (s : State) (k n depth : Nat) : List Pass :=
  passesOf (inService s) n (List.range (ceilDiv k depth)) (n + 1) 0 0

/-- A panel leaves service (R102, R104): the operation goes on without it, the retirement is logged and recorded. -/
def retirePanel (s : State) (p : Nat) (detail : Nat) (injected : Bool) : State :=
  let s := holderLeaves (s.set (panelField p) 2) p
  let op := s.dense.op.map (fun op =>
    let started := op.plan.filter (begun op)
    let rest := op.plan.filter (fun x => !begun op x)
    { op with
      deferred := op.deferred ++ deferFor op s.dense.tiles p started
      plan := started ++ remap (inService s) rest
      loads := FMap.del op.loads p })
  let s := setDense s { s.dense with
    op := op, pre := s.dense.pre.map (fun o => { o with loads := [], plan := firstPlan s o.k o.n o.depth }), tiles := s.dense.tiles.filter (fun t => t.panel != p || t.outs.isSome), passRun := FMap.del s.dense.passRun p
    retiredNow := s.dense.retiredNow ||| 2 ^ p }
  let s := (s.escalate { region := regionDNS, event := 3, level := 2, action := 1, block := p, detail := detail
                         injected := injected }).attend 1
  let s := fwAsk (s.set FLT_FLAGS.PANEL_RETIRED 1) (.recordPanel p)
  if inService s = [] ∧ s.step.running then
    stopStep (s.log { region := regionDNS, event := 4, level := 3, action := 3, block := p, injected := injected }) 1
  else s

/-- Panel control at a step boundary (R107): RETIRE wins over REVIVE, and a panel that hardware retires on the same boundary stays so.
[DEDUCED, log entry 38] -/
def panelControl (s : State) (p : Nat) : State :=
  if bit s.dense.retireReq p then
    (if s.get (panelField p) = 2 then s else retirePanel s p 0 false)
  else if bit s.dense.reviveReq p ∧ s.get (panelField p) = 2 ∧ !bit s.dense.retiredNow p then
    fwAsk (s.set (panelField p) 1) (.clearPanel p)
  else s

def applyPanelCtl (s : State) : State :=
  let t := [0, 1, 2, 3].foldl panelControl s
  setDense t { t.dense with retireReq := 0, reviveReq := 0, retiredNow := 0 }

/-- A panel's passing check tile on its first attempt: a SUSPECT panel's run grows, and a full run makes it GOOD (R99). [DESIGN CHOICE, log entry 136] -/
def notePass (s : State) (p : Nat) : State :=
  if s.get (panelField p) ≠ 1 then s
  else
    let n := (FMap.find s.dense.passRun p).getD 0 + 1
    if n ≥ 2 ^ min 40 (s.held DNS_CHECK_CFG.SUSPECT_CLEAR) then
      setDense (s.set (panelField p) 0) { s.dense with passRun := FMap.del s.dense.passRun p }
    else setDense s { s.dense with passRun := FMap.put s.dense.passRun p n }

def noteFail (s : State) (p : Nat) : State := setDense s { s.dense with passRun := FMap.del s.dense.passRun p }

/-! Issue (R271, R272). -/

/-- A refusal by the engine at issue (R114, R190). -/
def denseRefuse (s : State) (code : Nat) : Issue :=
  .refuse code true ((s.count DNS_OP_REFUSED_CNT 1).log { region := regionDNS, event := 5, level := 2, action := 2 })

/-- The descriptor that an instruction names, if its effective number names one (Table 9.6, code 4). -/
def namedDesc (s : State) (n : Nat) : Option Desc := if n < 4096 then descAt s n else none

/-- A refusal for an effective descriptor number that names no descriptor (Tables 6.8 and 9.6): the unit counts an empty
entry, and the sequencer logs the refusal. [DEDUCED, log entry 62] -/
def refuseNoDesc (s : State) (f : Field) (n : Nat) : Issue := .refuse 4 false (if n < 4096 then s.count f 1 else s)

/-- LOADW: refused for a sparsity field that differs from its descriptor's (R190) and for a transposed 1:4 load (R112). -/
def runLoadw (q : Fin 4) (i : SeqInsn) (s : State) : Issue :=
  match i with
  | .loadw doff w sparse hint =>
    let n := effDesc s q doff 0 w
    (match namedDesc s n with
     | none => refuseNoDesc s DNS_OP_REFUSED_CNT n
     | some d =>
       if sparse ≠ d.sparse ∨ (d.trans ∧ d.sparse = 2) then denseRefuse s 5
       else .issued (issuedNext (setDense s { s.dense with pendW := some (n, sparse, hint), pre := none }) q))
  | _ => .wait s

/-- STREAM. -/
def runStream (q : Fin 4) (i : SeqInsn) (s : State) : Issue :=
  match i with
  | .stream doff x hint accen acc =>
    let n := effDesc s q doff 0 x
    (match namedDesc s n with
     | none => refuseNoDesc s DNS_OP_REFUSED_CNT n
     | some _ =>
       .issued (issuedNext (setDense s { s.dense with pendX := some (n, hint, if accen then some acc else none) }) q))
  | _ => .wait s

/-- Dimensions 2 to 5 of a matrix are 1. -/
def flat (d : Desc) : Bool := [d.d2, d.d3, d.d4, d.d5].all (fun x => x.size == 1)

/-- The operation that LOADW's operand and a streamed operand would make (R76, R77): its weights, `m` rows, `k` indices and a density factor. -/
def loadOp (s : State) (w sparse hintW : Nat) (dw : Desc) (m k dens : Nat) : DenseOp :=
  let n := if dw.trans then dw.d1.size else dw.d0.size
  let depth := 192 * dens * (if sparse = 0 then 1 else 2)
  { no := s.opCount, w := w, x := 0, y := 0, hintW := hintW, hintX := 0, hintY := 0, sparse := sparse, acc := none, cvt := 0, tied := none
    tiedFirst := false, m := m, k := k, n := n, depth := depth
    plan := firstPlan s k n depth, streams := 0
    loads := [], deferred := [], accepted := [], written := []
    acqW := Acq.none 3, acqX := Acq.none 2, acqY := Acq.none 1, holder := none, energy := 0, meets := false }

/-- A matrix of weights that the engine accepts (R76, R271). -/
def weightOk (dw : Desc) : Bool := dw.cls == 1 && flat dw && decide (1 ≤ dw.fmt) && decide (dw.fmt ≤ 9)

/-- The half-issued operation as its two operands give it (R76, R77, R271); none where they break a rule. -/
def pendingOp (s : State) : Option DenseOp :=
  match s.dense.pendW, s.dense.pendX with
  | some (w, sparse, hintW), some (x, hintX, acc) =>
    (match descAt s w, descAt s x with
     | some dw, some dx =>
       let kw := if dw.trans then dw.d0.size else dw.d1.size
       let m := if dx.trans then dx.d0.size else dx.d1.size
       let k := if dx.trans then dx.d1.size else dx.d0.size
       if weightOk dw ∧ dx.cls = 0 ∧ k = kw ∧ flat dx ∧ 1 ≤ dx.fmt ∧ dx.fmt ≤ 9 then
         some { loadOp s w sparse hintW dw m k (min (density dw.fmt) (density dx.fmt)) with x := x, hintX := hintX, acc := acc }
       else none
     | _, _ => none)
  | _, _ => none

/-- The operation that a preload fills a buffer for (R84, R271): the half-issued one; while only its LOADW has issued, as it will be
if X has the density of W. [DEDUCED, log entry 35] -/
def preloadOp (s : State) : Option DenseOp :=
  match s.dense.pendW, s.dense.pendX with
  | some (w, sparse, hintW), none =>
    (match descAt s w with
     | some dw =>
       if weightOk dw then some (loadOp s w sparse hintW dw 0 (if dw.trans then dw.d0.size else dw.d1.size) (density dw.fmt)) else none
     | none => none)
  | _, _ => pendingOp s

/-- The operation of a DRAIN, if it breaks no rule of R271. -/
def drainOp (s : State) (y hint cvt : Nat) (tied : Bool) (wid : Nat) : Option DenseOp :=
  match pendingOp s, descAt s y with
  | some op, some d =>
    let accOk : Bool := match op.acc with
      | some t => (tagEntry s t).valid && (tagEntry s t).place == 2
      | none => false
    if d.cls = 2 ∧ flat d ∧ d.d0.size = op.n ∧ d.d1.size = op.m ∧ (op.depth ≥ op.k ∨ accOk)
        ∧ (!tied ∨ (tiedTag s wid).isSome) then
      some { op with y := y, hintY := hint, cvt := cvt, tied := if tied then some wid else none
                     tiedFirst := tied && !s.dense.tiedDone.contains wid }
    else none
  | _, _ => none

/-- The work of a dense operation (R426): 2MKN operations and the bytes of its operands. -/
def denseWork (s : State) (op : DenseOp) : Work :=
  let n := 2 * op.m * op.k * op.n
  let d := min (density (opDesc s op.w).fmt) (density (opDesc s op.x).fmt)
  Work.ofDescs s { ops1 := if d = 1 then n else 0, ops2 := if d = 2 then n else 0, ops4 := if d = 4 then n else 0 }
    [op.w, op.x, op.y]

/-- The operation starts: weights preloaded for it are kept when they were loaded under the passes that it has, and
the slots of its first rows are asked for; a slot on which the loader has timed out for it stalls none of its accesses (R84, R207, R217). -/
def launchDense (s : State) (op : DenseOp) (typ : Nat) : State :=
  let s := s.newOp 1
  let keep := match s.dense.pre with
    | some p => p.w == op.w && p.plan == op.plan && p.depth == op.depth
    | none => false
  let pre := s.dense.pre.getD op
  let y := opDesc s op.y
  let late := fun (a : Acq) => pre.acqW.spared.foldl (fun a x => a.spare { tag := x.1, slot := x.2, write := false }) a
  let op := { op with no := pre.no, acqW := pre.acqW, acqX := late op.acqX, acqY := late op.acqY, loads := if keep then pre.loads else [], energy := typ
                      meets := op.tied.isNone && (descsMeet s y (opDesc s op.x) || descsMeet s y (opDesc s op.w)) }
  let b := askSlots s op.acqX (match op.plan with | [] => [] | x :: _ => rowUses s op x.chunk 0 op.m)
  setDense b.2 { b.2.dense with
    op := some { op with acqX := b.1 }, pre := none, pendW := none, pendX := none
    tiedDone := match op.tied with
      | some w => if op.tiedFirst then w :: b.2.dense.tiedDone else b.2.dense.tiedDone
      | none => b.2.dense.tiedDone }

/-- DRAIN (R271): skipped when the operation is void; refused by the engine when a rule is broken; it waits for the engine
(R31) and for the governor (R423). [DESIGN CHOICE, log entry 169] -/
def runDrain (q : Fin 4) (i : SeqInsn) (s : State) : Issue :=
  match i with
  | .drain doff y hint cvt tied wid =>
    let n := effDesc s q doff 0 y
    if s.dense.void then
      .issued ((setDense s { s.dense with pendW := none, pendX := none, void := false, pre := none }).setSeqr q
        { s.seqr q with pc := ((s.seqr q).pc + 1) % 4096, stall := .none })
    else if (namedDesc s n).isNone then refuseNoDesc s DNS_OP_REFUSED_CNT n
    else if s.dense.pendW.isNone ∨ s.dense.pendX.isNone then denseRefuse s 8
    else match drainOp s n hint cvt tied wid with
      | none => denseRefuse s 5
      | some op =>
        if s.dense.op.isSome then .wait s
        else match gate s q (denseWork s op) with
          | (none, t) => .wait t
          | (some typ, t) =>
            let t := issuedNext (launchDense t op typ) q
            if inService t = [] then
              .issued (stopStep (t.log { region := regionDNS, event := 4, level := 3, action := 3 }) 1)
            else .issued t
  | _ => .wait s

/-! The engine's events. -/

/-- The first pass of a plan that a panel still has to load. [DESIGN CHOICE, log entry 39] -/
def nextLoad (op : DenseOp) (panel : Nat) : Option Pass :=
  op.plan.find? (fun x => x.panels.contains panel
    && !((FMap.find op.loads panel).getD []).any (fun l => l.pass == x.no))

/-- The panel's idle buffer is free for a pass (R82, R83): at most one pass is loaded and not streamed, and every check
tile of the pass that the buffer last served has passed. -/
def bufferFree (s : State) (op : DenseOp) (panel : Nat) (x : Pass) : Bool :=
  decide (((FMap.find op.loads panel).getD []).length < 2)
    && (match op.plan.head? with | some p => decide (x.no ≤ p.no + 1) | none => false)
    && !s.dense.tiles.any (fun t => t.outs.isNone && decide (t.load.pass + 2 ≤ x.no))

/-- The check tiles not yet passed are of one stream of rows, so that each panel has an idle buffer (R83, R84). -/
def onePassOpen (s : State) : Bool :=
  let ps := (s.dense.tiles.filter (fun t => t.outs.isNone)).map (fun t => t.stream)
  ps.all (fun n => some n == ps.head?)

/-- A panel's idle weight buffer is filled for its next pass, once the slots of the weights admit it. [DESIGN CHOICE, log entry 39] -/
def fillBuffer (s : State) (op : DenseOp) (panel : Nat) (x : Pass) : DenseOp × State :=
  let c := panelCols x panel
  let a := acquire s op.acqW (weightUses s op x.chunk c.1 c.2)
  let op := { op with acqW := a.1 }
  if a.1.needs ≠ [] then (op, a.2)
  else
    let r := loadWeights a.2 op x.no x.chunk c.1 c.2
    ({ op with loads := FMap.put op.loads panel ((FMap.find op.loads panel).getD [] ++ [r.1]) }, r.2)

/-- A panel is loaded with the first pass of the operation that is half issued (R84). -/
def preload (s : State) (panel : Nat) : State :=
  match preloadOp s with
  | none => s
  | some new =>
    let pre := s.dense.pre.getD new
    let s := if s.dense.pre.isNone then s.newOp 1 else s
    match nextLoad pre panel with
    | some x =>
      if pre.acqW.needs = [] ∧ x.no = 0 then
        let r := fillBuffer s pre panel x
        setDense r.2 { r.2.dense with pre := some r.1 }
      else s
    | none => s

/-- WEIGHT_LOAD (R82 to R84, R108 to R113): the running operation's next pass, or, when none is left to load, the first pass
of the half-issued operation. [DEDUCED, log entry 35] -/
def execWeightLoad (panel : Fin 4) (s : State) : Host.Outcome State Fault Refusal :=
  let s := s.inOp 1
  .next (match s.dense.op with
    | some op =>
      (match nextLoad op panel with
       | some x =>
         if op.acqW.needs = [] ∧ bufferFree s op panel x ∧ s.get (panelField panel) ≠ 2 then
           let r := fillBuffer s op panel x
           setDense r.2 { r.2.dense with op := some r.1 }
         else s
       | none =>
         if op.plan = [] ∧ op.deferred = [] ∧ onePassOpen s ∧ !s.dense.void ∧ s.get (panelField panel) ≠ 2 then preload s panel
         else s)
    | none => s)

/-- Check tiles of rows streamed for one load. -/
def tilesFor (panel stream : Nat) (l : Load) (row0s : List Nat) (m : Nat) (rows : Nat → List (List Val)) : List CheckTile :=
  row0s.map (fun r => { panel := panel, stream := stream, load := l, row0 := r, rows := (rows r).take (min 32 (m - r)), attempt := 1
                        inject := 0, again := false, outs := none })

/-- The cycles in which a stream was held, where no command measures them (R83, R88). [DESIGN CHOICE, log entry 147] -/
def countHeld (s : State) : State :=
  let f := s.fresh
  countFreeze (f.2.count DNS_WLOAD_WAIT_CNT (Config.heldCycles f.1 3)) (Config.heldCycles f.1 0) (Config.heldCycles f.1 1) (Config.heldCycles f.1 2)

/-- DENSE_PASS (R79, R85 to R88): all M rows stream through the panels, once every panel of the pass is loaded and the slots of the rows admit
it. The cycles frozen for the feeder alone, the drain alone and both, and the cycles of weight wait before it, are the command's.
[DEDUCED, log entries 35, 40; DESIGN CHOICE, log entry 170] -/
def execDensePass (feed drain both wait : Nat) (s : State) : Host.Outcome State Fault Refusal :=
  let s := s.inOp 1
  .next (match s.dense.op with
    | none => s
    | some op =>
      match op.plan with
      | [] => s
      | x :: rest =>
        let live := x.panels.filter (fun p => s.get (panelField p) != 2)
        let loadOf := fun p => ((FMap.find op.loads p).getD []).find? (fun l => l.pass == x.no)
        if op.frozen ∨ !live.all (fun p => (loadOf p).isSome) then s
        else
          let a := acquire s op.acqX (rowUses s op x.chunk 0 op.m)
          let op := { op with acqX := a.1 }
          if a.1.needs ≠ [] then setDense a.2 { a.2.dense with op := some op }
          else
            let r := readRows a.2 op x.chunk 0 op.m
            let row0s := (List.range (ceilDiv op.m 32)).map (· * 32)
            let tiles := row0s.flatMap (fun r0 => live.filterMap (fun p =>
              (loadOf p).bind (fun l => (tilesFor p op.streams l [r0] op.m (fun r0 => r.1.drop r0)).head?)))
            let op := { op with
              plan := rest, streams := op.streams + 1
              loads := op.loads.map (fun l => (l.1, l.2.filter (fun y => y.pass != x.no))) }
            let s := setDense r.2 { r.2.dense with op := some op, tiles := r.2.dense.tiles ++ tiles }
            countFreeze ((s.count DNS_BUSY_CNT op.m).count DNS_WLOAD_WAIT_CNT wait) feed drain both)

/-- A check tile replaced in the engine. -/
def putTile (s : State) (t : CheckTile) : State :=
  setDense s { s.dense with tiles := s.dense.tiles.map (fun u => if sameTile t u then t else u) }

/-- An attempt of a check tile fails (R99 to R102, Table 3.7). [DESIGN CHOICE, log entry 33] -/
def tileFails (s : State) (t : CheckTile) (injected : Bool) : State :=
  let s := noteFail (noteMismatch s t.panel t.row0 injected) t.panel
  let detail := lastMismatch s t.panel t.row0 injected
  let st := s.get (panelField t.panel)
  if t.attempt = 1 then putTile s { t with again := true }
  else if t.attempt = 2 ∧ st = 0 then
    putTile ((s.set (panelField t.panel) 1).log
      { region := regionDNS, event := 2, level := 2, action := 1, block := t.panel, detail := detail
        injected := injected }) { t with again := true }
  else retirePanel s t.panel detail injected

/-- CHECK_TILE_COMPLETE (R97 to R99, R106): the oldest check tile of a panel that has not been judged. `upsets` are the
outputs that a fault in the panel made other than the arithmetic gives; without one, weights that metadata gave against its rules fail no tile (R111).
[DEDUCED, log entry 35; DESIGN CHOICE, log entry 36] -/
def checkTileComplete (panel : Fin 4) (upsets : List (Nat × Nat × BitVec 48)) (s : State) : State :=
  let s := setDense (s.inOp 1) { s.dense with retiredNow := 0 }
  (match s.dense.tiles.find? (fun t => t.panel == panel.val && !t.again && t.outs.isNone) with
    | none => deliverAll s
    | some t =>
      let armed := match s.dense.inject with
        | some (p, n) => if p = panel.val ∧ t.attempt = 1 then n else 0
        | none => 0
      let s := if armed ≠ 0 then setDense s { s.dense with inject := none } else s
      let t := if armed ≠ 0 then { t with inject := armed } else t
      if t.inject ≠ 0 then tileFails s { t with inject := t.inject - 1 } true
      else
        let o := tileOutputs t upsets
        let c := checkSums t.load.cols ((t.rows.head?.map (·.length)).getD 0)
        let f := s.fresh
        let passes := (t.load.odd && upsets.isEmpty) || (t.rows.zip o.1).zipIdx.all (fun r =>
          rowPasses (tolShift s) (f.1 * 32 + r.2) r.1.1 r.1.2 c.1 c.2)
        if !passes then tileFails f.2 t false
        else
          let k := f.2.conv regionDNS
          let s := f.2.commitConv regionDNS { k with events := o.2 }
          let s := if t.attempt = 1 then notePass s panel else s
          deliverAll (putTile s { t with outs := some o.1 }))

/-- RECOMPUTE_TILE (R100, R101): the rows of a panel's oldest failed check tile, as they were first read, are streamed again, and serve every panel
whose tile of those rows failed. The frozen cycles of the stream are the command's (R88). [DESIGN CHOICE, log entry 135] -/
def execRecomputeTile (r : Restream) (s : State) : Host.Outcome State Fault Refusal :=
  .next (match s.dense.op, s.dense.tiles.find? (fun t => t.panel == r.panel.val && t.again) with
    | some op, some t =>
      if op.frozen then s
      else
        let s := setDense s { s.dense with tiles := s.dense.tiles.map (fun u =>
          if u.again ∧ u.row0 = t.row0 ∧ u.stream = t.stream then
            { u with again := false, attempt := u.attempt + 1 }
          else u) }
        countFreeze ((s.count DNS_RECOMPUTE_CNT 1).count DNS_BUSY_CNT t.rows.length) r.feed r.drain r.both
    | _, _ => s)

/-- The engine's idle buffer is free for a deferred pass: the check tiles of every stream but the last have passed (R83). -/
def idleBuffer (s : State) (op : DenseOp) : Bool := !s.dense.tiles.any (fun t => t.outs.isNone && decide (t.stream + 1 < op.streams))

/-- DEFERRED_PASS (R83, R102): the retired panel's columns of a pass are loaded onto the lowest panel in service, and the rows
whose outputs were not accepted are streamed. How long it waited for weights and was frozen meanwhile (R83, R88) is free. [DESIGN CHOICE, log entry 147] -/
def execDeferredPass (s : State) : Host.Outcome State Fault Refusal :=
  let s := s.inOp 1
  .next (match s.dense.op, inService s with
    | some op, p :: _ =>
      (match op.deferred with
       | [] => s
       | l :: rest =>
         if op.plan ≠ [] ∨ op.frozen ∨ op.acqW.needs ≠ [] ∨ !idleBuffer s op then s
         else
           let xs := l.rows.flatMap (fun r => rowUses s op l.chunk r (min 32 (op.m - r)))
           let ws := weightUses s op l.chunk l.col0 l.col1
           let a := askSlots s op.acqX xs
           let b := askSlots a.2 op.acqW ws
           let op := { op with acqX := a.1, acqW := b.1 }
           if a.1.needs ≠ [] ∨ b.1.needs ≠ [] then setDense b.2 { b.2.dense with op := some op }
           else
             let r := loadWeights (countForeign (countForeign b.2 op.acqX.unit xs) op.acqW.unit ws) op l.pass l.chunk l.col0 l.col1
             let x := l.rows.foldl (fun (x : List CheckTile × State) r0 =>
               let q := readRows x.2 op l.chunk r0 (min 32 (op.m - r0))
               (x.1 ++ tilesFor p op.streams r.1 [r0] op.m (fun _ => q.1), q.2)) ([], r.2)
             let tiles := x.1
             let s := setDense x.2 { x.2.dense with
               op := some { op with deferred := rest, streams := op.streams + 1 }, tiles := x.2.dense.tiles ++ tiles }
             countHeld (s.count DNS_BUSY_CNT (tiles.foldl (fun n t => n + t.rows.length) 0)))
    | _, _ => s)

/-- DENSE_OP_COMPLETE (R31, R85, R88, R208): the drain has accepted the last output tile; how long it held the engine up since the last stream is
free. [DEDUCED, log entries 35, 40; DESIGN CHOICE, log entry 147] -/
def execDenseOpComplete (s : State) : Host.Outcome State Fault Refusal :=
  let s := s.inOp 1
  .next (match s.dense.op with
    | none => s
    | some op =>
      if op.plan ≠ [] ∨ op.deferred ≠ [] ∨ s.dense.tiles ≠ [] ∨ op.frozen ∨ op.acqW.needs ≠ [] then s
      else
        let s := finishAcq (finishAcq (finishAcq s op.acqX) op.acqW) op.acqY
        let s := setDense s { s.dense with op := none, opTotal := s.dense.opTotal + 1 }
        let f := s.fresh
        noteDone (countFreeze ((f.2.count DNS_OP_CNT 1).count DNS_BUSY_CNT 396) 0 (Config.heldCycles f.1 1) 0) op.energy)

/-- LOADW. -/
def execLoadw (q : Fin 4) (s : State) : Host.Outcome State Fault Refusal :=
  .next (tryIssue s q .other (fun i => i matches .loadw ..) (runLoadw q))

/-- STREAM. -/
def execStream (q : Fin 4) (s : State) : Host.Outcome State Fault Refusal :=
  .next (tryIssue s q .other (fun i => i matches .stream ..) (runStream q))

/-- DRAIN. -/
def issueDrain (q : Fin 4) (s : State) : State := tryIssue s q .other (fun i => i matches .drain ..) (runDrain q)

/-- DNS_PANEL_CTL is written with masks of panels to retire and to revive (R107). [DEDUCED, log entry 38] -/
def askPanels (s : State) (retire revive : Nat) : State :=
  setDense s { s.dense with retireReq := s.dense.retireReq ||| retire % 16, reviveReq := s.dense.reviveReq ||| revive % 16 }

/-- A write of DNS_CHECK_INJ (R106, Table 3.13): COUNT 0 cancels an injection not yet applied. -/
def armInjection (s : State) (panel count : Nat) : State :=
  setDense s { s.dense with inject := if count % 4 = 0 then none else some (panel % 4, count % 4) }

/-- CHECK_INJ. -/
def execCheckInj (panel : Fin 4) (count : Nat) (s : State) : Host.Outcome State Fault Refusal :=
  .next (armInjection s panel count)

end Sys2Proof.Machine
end

