-- ==== Sys2Proof/Machine/Drover.lean ====
section
/-!
DEFINITION. Machine/Drover.lean: what all drover operations share (04): issue and refusal, start, the reading of operand
tiles and of compressed sparse tiles, and the delivery of results (R117 to R119, R133 to R138, R142, R148, R273).
-/

namespace Sys2Proof.Machine

open Reg

def setDrv (s : State) (d : DrvState) : State := { s with drv := d }

/-! Operands. -/

/-- Which of A, B and C a function reads, by operand index (Table 4.7, R273); the update functions have their own list. -/
def drvReads (func subop : Nat) : List Nat :=
  match func with
  | 0x00 => []
  | 0x01 | 0x02 | 0x03 | 0x05 | 0x06 | 0x07 | 0x2A | 0x43 => [0, 1]
  | 0x04 | 0x09 | 0x29 => [0, 1, 2]
  | 0x46 => if subop = 0 ∨ subop = 3 then [0, 1, 2] else [0, 1]
  | _ => [0]

/-- The function writes D. -/
def drvWritesD (func subop : Nat) : Bool := func != 0 && !(func == 0x46 && (subop == 1 || subop == 2))

/-- Row functions (Table 4.7). -/
def isRowFn (func : Nat) : Bool := [0x20, 0x21, 0x22, 0x28, 0x29, 0x2A].contains func

def isUpdate (func : Nat) : Bool := func == 0x38 || func == 0x39

/-- The effective number of operand `i` (A, B, C, D as 0 to 3). -/
def DrvOp.num (op : DrvOp) (i : Nat) : Nat :=
  match i with
  | 0 => op.a
  | 1 => op.b
  | 2 => op.c
  | _ => op.d

/-- The descriptors an update reads: the operand and the numbers after it (Table 12.1). -/
def updReads (op : DrvOp) : List Nat :=
  [op.a, op.a + 1, op.b, op.c] ++ (if op.func = 0x39 then [op.c + 1] else []) ++ (if bit op.mode 0 then [op.d] else [])

/-- The descriptors an operation reads. -/
def DrvOp.readNums (op : DrvOp) : List Nat :=
  if isUpdate op.func then updReads op else (drvReads op.func op.subop).map op.num

/-- The descriptors an operation writes: D, and D + 1 for the per-row result that ROWOUT asks for (R273). -/
def DrvOp.writeNums (op : DrvOp) : List Nat :=
  if isUpdate op.func then [op.a, op.a + 1, op.c] ++ (if op.func = 0x39 then [op.c + 1] else [])
  else (if drvWritesD op.func op.subop then [op.d] else [])
    ++ (if isRowFn op.func && op.func != 0x28 && op.rowout then [op.d + 1] else [])

/-- The channel of descriptor `n` of an operation, under the hint of the field that names it. -/
def DrvOp.chan (op : DrvOp) (d : Desc) (n : Nat) : Chan :=
  let i := if n = op.a ∨ (isUpdate op.func ∧ n = op.a + 1) then 0
    else if n = op.b then 1
    else if n = op.c ∨ (isUpdate op.func ∧ n = op.c + 1) then 2 else 3
  d.chan (hintField op.hints i) (channel 2 op.no (4 * 4096 + n))

/-- The channel of a written descriptor: the hint of D, or of the field that names it in an update. -/
def DrvOp.outChan (op : DrvOp) (d : Desc) (n : Nat) : Chan :=
  if isUpdate op.func then op.chan d n else d.chan (hintField op.hints 3) (channel 2 op.no (5 * 4096 + n))

/-! Refusal at issue (R148, R170, R361; Tables 4.8, 5.9, 12.4). -/

/-- The number that the event log gives a refusal of a function. [DEDUCED, log entry 18] -/
def drvRefuseEvent (func : Nat) : Nat := if func = 0x46 then 32 + 9 else if isUpdate func then 64 + 1 else 5

def drvRefuse (s : State) (func : Nat) : Issue :=
  .refuse 5 true ((s.count DRV_OP_REFUSED_CNT 1).log
    { region := regionDRV, event := drvRefuseEvent func, level := 2, action := 2 })

/-- The dimension of a descriptor that is indexed. -/
def Desc.idxDim (d : Desc) : Option Nat := d.dims.findIdx? (·.idx)

/-- SIZE of a dimension. -/
def Desc.sizeOf (d : Desc) (i : Nat) : Nat := (d.dims.map (·.size)).getD i 1

/-- The elements of a slice: those at one index of dimension `i` (R131). -/
def Desc.sliceWidth (d : Desc) (i : Nat) : Nat :=
  ((List.range 6).filter (· != i)).foldl (fun n j => n * d.sizeOf j) 1

/-- A format and layout that GATHER, SCATTER and SCATTER_MERGE accept with dimension `i` indexed (R125). -/
def moveFormat (d : Desc) (i : Nat) : Bool :=
  if d.layout = 3 then decide (2 ≤ i)
  else (decide (d.fmt ≤ 4) || d.fmt == 12) || (d.format.isMx && decide (2 ≤ i))

/-- The rules that a GATHER, SCATTER or SCATTER_MERGE of `x`, indexed, against `y` must keep (R125, R128, R131). [DESIGN CHOICE, log entry 176] -/
def moveOk (op : DrvOp) (x y : Desc) : Bool :=
  match x.idxDim with
  | none => false
  | some i =>
    moveFormat x i && moveFormat y i && (x.layout == 3) == (y.layout == 3) && (x.layout != 3 || x.fmt == y.fmt)
      && (op.func != 0x42 || (op.mode != 3 && x.layout != 3 && decide (x.sliceWidth i ≤ 65536)))

/-- The six SIZEs of a descriptor. -/
def Desc.sizes (d : Desc) : List Nat := d.dims.map (·.size)

/-- The rules of R361 on the descriptors of an update, empty entries apart. -/
def updateOk (op : DrvOp) (ds : List Desc) : Bool :=
  match ds with
  | [] => false
  | a :: rest =>
    (rest.all (fun d => d.sizes == a.sizes && d.layout == a.layout)) && ds.all (fun d => d.cls == 5)
      && (match ds.map (·.fmt) with
          | f0 :: f1 :: f2 :: f3 :: more =>
            f0 == 2 && f1 == 11 && (f2 == 0 || f2 == 10) && f3 == 0
              && (let m := if op.func = 0x39 then more.drop 1 else more
                  (op.func != 0x39 || more.head? == some 0) && m.all (fun f => f == 0 || f == 2))
          | _ => false)

/-- The limits of R151, R152, R154 and R155 on a routing operation; the record tensor is int32 (R160), and a COMBINE delivers a row for each token. -/
def routeOk (op : DrvOp) (ds : List Desc) (d : Option Desc) : Bool :=
  let a := (ds.getD 0 (Desc.ofWords []))
  let b := (ds.getD 1 (Desc.ofWords []))
  let row := fun (x : Desc) => decide (x.d0.size ≤ 65536)
  decide (1 ≤ op.k) && decide (op.k ≤ 8) && decide (op.subop ≤ 3) && op.gate != 3
    && decide (a.d1.size ≤ 16777216)
    && (match op.subop with
        | 0 => decide (a.fmt ≤ 2) && decide (a.d0.size ≤ 4096) && row b
               && (match d with | some x => x.fmt == 12 | none => false)
        | 1 => a.fmt == 12 && row b
        | 2 => row a
        | _ => a.fmt == 12 && row b && row (ds.getD 2 b)
               && (match d with | some x => row x | none => false))

/-- The unit accepts an operation (R148, R170, R361): its descriptors are of its classes and keep its rules. [DESIGN CHOICE, log entry 175] -/
def drvOk (op : DrvOp) (ds : List Desc) (ws : List Desc) : Bool :=
  let a := ds.getD 0 (Desc.ofWords [])
  if isUpdate op.func then updateOk op ds
  else
    ds.all (fun d => d.cls == Desc.clsDrvIn) && ws.all (fun d => d.cls == Desc.clsResult)
      && (match op.func with
          | 0x40 => (match ws with | d :: _ => moveOk op a d | [] => false)
          | 0x41 | 0x42 => (match ws with | d :: _ => moveOk op d a | [] => false)
          | 0x43 =>
            let b := ds.getD 1 a
            a.layout == 3 && b.layout != 3 && decide (b.fmt ≤ 2) && decide (b.d0.size ≤ 65536) && flat a && flat b
          | 0x44 => (match ws with | d :: _ => d.layout == 3 && a.layout != 3 | [] => false)
          | 0x45 => (match ws with | d :: _ => d.layout != 3 && a.layout == 3 | [] => false)
          | 0x46 => routeOk op ds ws.head?
          | f => !isRowFn f || decide (a.d0.size ≤ 65536))

/-- Function codes that VEC, GSM and ROUTE accept (R273, Table 4.7). -/
def vecCode (f : Nat) : Bool :=
  decide (f ≤ 0x0B) || (decide (0x10 ≤ f) && decide (f ≤ 0x18)) || [0x20, 0x21, 0x22, 0x28, 0x29, 0x2A, 0x38, 0x39].contains f

def gsmCode (f : Nat) : Bool := decide (0x40 ≤ f) && decide (f ≤ 0x45)

/-! Launch. -/

/-- The work of a drover operation (R426), from its descriptors: an element operation for each element of what it writes; of what it reads for a row
operation (Table 4.7) and where it writes nothing; for each element of A and column of B for SPMM; the bytes of its tensors; and on the links those of
the rows that a routing operation may send. [DESIGN CHOICE, log entry 83] -/
def drvWork (s : State) (op : DrvOp) : Work :=
  let size := fun n => ((namedDesc s n).map (fun d => d.sizes.foldl (· * ·) 1)).getD 0
  let bytes := fun n => ((namedDesc s n).map (fun d => d.tiles * d.unit)).getD 0
  let e := if op.func = 0x43 then size op.a * ((namedDesc s op.b).map (·.d0.size)).getD 0
    else if isRowFn op.func then size op.a
    else size ((op.writeNums ++ op.readNums).headD 4096)
  let l := if op.func ≠ 0x46 then 0
    else match op.subop with
      | 0 | 1 => op.k * bytes op.b
      | 2 => bytes op.a
      | _ => 0
  Work.ofDescs s { elems := e, link := l } (op.readNums ++ op.writeNums)

/-! The parts of an operation's walk and the slots that each of them touches (R153, R206 to R208). -/

/-- The coordinate of a tile's place along dimension `i`. -/
def Desc.Pos.coord (p : Desc.Pos) (i : Nat) : Nat :=
  match i with
  | 0 => p.t0
  | 1 => p.t1
  | 2 => p.i2
  | 3 => p.i3
  | 4 => p.i4
  | _ => p.i5

def Desc.Pos.withCoord (p : Desc.Pos) (i v : Nat) : Desc.Pos :=
  match i with
  | 0 => { p with t0 := v }
  | 1 => { p with t1 := v }
  | 2 => { p with i2 := v }
  | 3 => { p with i3 := v }
  | 4 => { p with i4 := v }
  | _ => { p with i5 := v }

/-- The indices along dimension `i` that a tile covers. -/
def tileSpan (d : Desc) (i : Nat) (p : Desc.Pos) : List Nat :=
  if i ≤ 1 then ((List.range 32).map (32 * p.coord i + ·)).filter (fun j => decide (j < d.sizeOf i)) else [p.coord i]

/-- The tile of a slice: the one at index `v` along dimension `i`, else at the place given. -/
def sliceAt (i : Nat) (p : Desc.Pos) (v : Nat) : Desc.Pos := p.withCoord i (if i ≤ 1 then v / 32 else v)

/-- Destination rows of one sweep of a merge over slices of a width (R131). -/
def sweepRows (width : Nat) : Nat := 64 * (65536 / max 1 width)

/-- Sweeps of a merge over `n` slices of a width (R131). -/
def sweeps (n width : Nat) : Nat := ceilDiv n (sweepRows width)

/-- The parts of a merge: for each sweep its start, and then the destination tiles of its rows (R131). -/
def mergeParts (d : Desc) (i : Nat) : List (Nat × Option Nat) :=
  let rows := sweepRows (d.sliceWidth i)
  (List.range (sweeps (d.sizeOf i) (d.sliceWidth i))).flatMap (fun w =>
    (w, none) :: ((List.range d.tiles).filter (fun k =>
      (d.posOf k).coord i * (if i ≤ 1 then 32 else 1) / rows == w)).map (fun k => (w, some k)))

/-- The tiles of one tile row. -/
def Desc.tileRow (d : Desc) (u : Nat) : List Desc.Pos := (List.range d.t0).map (fun t => { d.posOf (u * d.t0) with t0 := t })

/-- How many tile rows a tensor has, over all its upper dimensions. -/
def Desc.tileRows (d : Desc) : Nat := d.t1 * d.d2.size * d.d3.size * d.d4.size * d.d5.size

/-- The place at which a per-column operand is read for a tile row of another. -/
def colPos (d : Desc) (p : Desc.Pos) : Desc.Pos :=
  let at_ := fun (x : Dim) i => if x.size = 1 then 0 else i
  { t0 := 0, t1 := at_ d.d1 p.t1, i2 := at_ d.d2 p.i2, i3 := at_ d.d3 p.i3, i4 := at_ d.d4 p.i4, i5 := at_ d.d5 p.i5 }

/-- How many parts the walk of an operation has: the output tiles of most; tile rows; the reading of the indices before the tiles; the close of
a SELECT_SEND or RETURN after its rows. -/
def drvParts (s : State) (op : DrvOp) : Nat :=
  let a := opDesc s op.a
  let d := opDesc s op.d
  match op.func with
  | 0x00 => 0
  | 0x38 | 0x39 => a.tiles
  | 0x40 | 0x41 => d.tiles + 1
  | 0x42 => (mergeParts d (d.idxDim.getD 0)).length
  | 0x43 => a.t1
  | 0x46 => if op.subop = 0 ∨ op.subop = 2 then a.t1 + 1 else if op.subop = 1 then a.t1 else d.tiles
  | f => if isRowFn f then a.tileRows else d.tiles

/-- The tile of D that a part of a GATHER, SCATTER or SCATTER_MERGE writes. -/
def movePart (s : State) (op : DrvOp) (u : Nat) : Option Nat :=
  let d := opDesc s op.d
  if op.func = 0x42 then ((mergeParts d (d.idxDim.getD 0))[u]?).bind (·.2) else if u = 0 then none else some (u - 1)

/-- Tiles move whole: those of L3, unless a dimension of the source is broadcast. -/
def movesWhole (src d : Desc) : Bool := d.layout == 3 && !(src.d0.bcast || src.d1.bcast)

/-- The slots that reads of entries `lo` to `lo + n - 1` of a table of 8-byte entries touch, entry by entry. -/
def tableUses (s : State) (d : Desc) (lo n : Nat) : List SlotUse :=
  if d.sync then
    (List.range n).flatMap (fun i =>
      let o := d.offset * 4096 + 8 * (lo + i)
      (slotsOf (tagEntry s d.tag) o (o + 8)).map (fun k => { tag := d.tag, slot := k, write := false }))
  else []

/-- The slots that part `u` of an operation reads. -/
def partReads (s : State) (op : DrvOp) (u : Nat) : List SlotUse :=
  let desc := fun i => opDesc s (op.num i)
  let at_ := fun i ps => placeUses s (desc i) ps false
  let all := fun i => placeUses s (desc i) ((List.range (desc i).tiles).map (desc i).posOf) false
  let d := opDesc s op.d
  match op.func with
  | 0x38 | 0x39 => (updReads op).flatMap (fun n => let x := opDesc s n; placeUses s x [x.posOf u] false)
  | 0x40 =>
    let i := (desc 0).idxDim.getD 0
    (match movePart s op u with
     | none => []
     | some k => at_ 0 ((tileSpan d i (d.posOf k)).filterMap (fun j => (op.idx.getD j none).map (sliceAt i (d.posOf k)))))
  | 0x41 =>
    if !movesWhole (desc 0) d then (if u = 0 then all 0 else [])
    else (match movePart s op u with
      | none => []
      | some k =>
        let i := d.idxDim.getD 0
        let p := d.posOf k
        at_ 0 ((op.idx.zipIdx.filter (fun x => x.1 == some (p.coord i))).map (fun x => p.withCoord i x.2)))
  | 0x42 => if (movePart s op u).isNone then all 0 else []
  | 0x43 => at_ 0 ((desc 0).tileRow u) ++ all 1
  | 0x46 =>
    (match op.subop with
     | 0 => if u < (desc 0).t1 then at_ 0 ((desc 0).tileRow u) ++ at_ 1 ((desc 1).tileRow u) ++ (if u = 0 then tableUses s (desc 2) 0 (desc 0).d0.size else []) else []
     | 1 => at_ 0 ((desc 0).tileRow u) ++ at_ 1 ((desc 1).tileRow u)
     | 2 => if u < (desc 0).t1 then at_ 0 ((desc 0).tileRow u) ++ tableUses s (desc 1) (32 * u) (min 32 ((desc 0).d1.size - 32 * u)) else []
     | _ =>
       let p := d.posOf u
       let r0 := 32 * p.t1 * op.k
       at_ 0 ((desc 0).tileRow p.t1)
         ++ at_ 1 ((List.range ((r0 + 31 * op.k + 7) / 32 + 1 - r0 / 32)).map (fun i =>
              { t0 := p.t0, t1 := r0 / 32 + i, i2 := 0, i3 := 0, i4 := 0, i5 := 0 }))
         ++ at_ 2 [{ d.posOf u with i2 := 0, i3 := 0, i4 := 0, i5 := 0 }])
  | f =>
    (drvReads f op.subop).flatMap (fun i =>
      if isRowFn f then
        (if i = 0 then at_ 0 ((desc 0).tileRow u)
         else at_ i ((List.range (desc i).t0).map (fun t => { colPos (desc i) ((desc 0).posOf (u * (desc 0).t0)) with t0 := t })))
      else at_ i [d.posOf u])

/-- The slots that part `u` of an operation writes. -/
def partWrites (s : State) (op : DrvOp) (u : Nat) : List SlotUse :=
  let d := opDesc s op.d
  let writes := fun n ps => placeUses s (opDesc s n) ps true
  match op.func with
  | 0x38 | 0x39 => op.writeNums.flatMap (fun n => writes n [(opDesc s n).posOf u])
  | 0x40 | 0x41 | 0x42 => (match movePart s op u with | none => [] | some k => writes op.d [d.posOf k])
  | 0x43 => writes op.d (d.tileRow u)
  | 0x46 => if op.subop = 0 then writes op.d (if u < (opDesc s op.a).t1 then d.tileRow u else []) else if op.subop = 3 then writes op.d [d.posOf u] else []
  | f =>
    if isRowFn f then
      let p := (opDesc s op.a).posOf (u * (opDesc s op.a).t0)
      op.writeNums.flatMap (fun n =>
        writes n (if f ≤ 0x22 ∨ n ≠ op.d then [{ p with t0 := 0 }] else (List.range d.t0).map (fun t => { p with t0 := t })))
    else if drvWritesD f op.subop then writes op.d [d.posOf u] else []

/-- The scalars of an operation as patterns: S1 and S2, or the block of an update (R270, Table 12.2). -/
def readScalars (s : State) (op : DrvOp) : List Nat :=
  if isUpdate op.func then (List.range 8).map (fun i => scalar s (op.s1 + i)) else [scalar s op.s1, scalar s op.s2]

/-- UPD_2MOM with INIT advances the running products of its scalar block (R367). -/
def advanceProducts (s : State) (op : DrvOp) : State :=
  if op.func = 0x39 ∧ op.init then
    let p := fun (i j : Nat) => bits32 (Val.mul (val32 (scalar s (op.s1 + i))) (val32 (scalar s (op.s1 + j))))
    (s.set (SEQ_SCALAR.S (op.s1 + 6)) (p 6 1)).set (SEQ_SCALAR.S (op.s1 + 7)) (p 7 2)
  else s

/-- The unit number that synchronises an operation (Table 7.2): 5 the routing unit, 13 the update, 4 the drover. -/
def drvUnit (op : DrvOp) : Nat := if op.func = 0x46 then 5 else if isUpdate op.func then 0x0D else 4

/-- SELECT_SEND decides under the host's allocation (R165, R166). -/
def hostAllocates (s : State) (op : DrvOp) : Bool :=
  op.func == 0x46 && op.subop == 0 && s.held DRV_ROUTE_CFG.MODE == 1

/-- The image names both a demand and an allocation tag (R166). [DEDUCED, log entry 49] -/
def allocTags (s : State) : Option (Nat × Nat) :=
  let a := imgField s 1 0x10 2
  let b := imgField s 1 0x12 2
  if s.image.isNone ∨ a = 0xFFFF ∨ b = 0xFFFF then none else some (a, b)

/-- The uses that no later part of an operation makes. -/
def lastUses (s : State) (op : DrvOp) (u : SlotUse) : Bool :=
  let rest := (List.range (drvParts s op - (op.part + 1))).map (fun i => op.part + 1 + i)
  !(rest.any (fun v => (if u.write then partWrites s op v else partReads s op v).contains u))

/-- An operation asks for the slots of its first part. -/
def askPart (s : State) (op : DrvOp) : DrvOp × State :=
  let a := askUses s op.acq (partReads s op op.part) (partWrites s op op.part) (lastUses s op)
  ({ op with acq := a.1 }, a.2)

/-- An operation comes to the reads and the writes of a part. [DEDUCED, log entry 43] -/
def enterPart (s : State) (op : DrvOp) : DrvOp × State :=
  let a := enterUses s op.acq (partReads s op op.part) (partWrites s op op.part) (lastUses s op)
  ({ op with acq := a.1 }, a.2)

/-- A part of the walk is done: the slots that no later part reads are drained, those that none writes closed (R208). [DEDUCED, log entry 43] -/
def leavePart (s : State) (op : DrvOp) : DrvOp × State :=
  let r := release s op.acq (lastUses s op)
  ({ op with acq := r.1, part := op.part + 1 }, r.2)

/-- The running operation changed. -/
def setRun (s : State) (op : DrvOp) : State := setDrv s { s.drv with run := some op }

/-- The operation starts (R118): what it takes at its start is taken, the gather cache is invalidated (R123), the accesses of its first
part begin. [DEDUCED, log entry 43] -/
def startDrv (s : State) (op : DrvOp) : State :=
  let s := (advanceProducts (s.newOp 2) op).set DRV_STATUS.FUNC op.func
  let op := { op with no := s.opCount, scalars := readScalars s op, acq := Acq.none (drvUnit op)
                      cfg := s.get DRV_CFG.GCACHE_DIS + 2 * s.get DRV_CFG.COMPRESS_DENSE }
  let s := if 0x40 ≤ op.func ∧ op.func ≤ 0x46 then setDrv s { s.drv with gcache := [] } else s
  let a := if drvParts s op = 0 then (op, s) else askPart s op
  setDrv a.2 { a.2.drv with run := some a.1, posted := none, alloc := none }

/-- The operation may act: it runs, and no synchronised access of it is stalled. -/
def drvReady (s : State) : Option DrvOp := s.drv.run.bind (fun op => if op.acq.needs = [] then some op else none)

/-- The parts of an operation done one after another, as far as the slots admit them; `effect` is what a part does. [DEDUCED, log entry 43] -/
def walkParts (effect : DrvOp → State → State) : Nat → State → State
  | 0, s => s
  | fuel + 1, s =>
    match drvReady s with
    | none => s
    | some op =>
      if op.part ≥ drvParts s op then s
      else
        let a := enterPart s op
        if a.1.acq.needs ≠ [] then setRun a.2 a.1
        else
          let t := effect a.1 (setRun a.2 a.1)
          match t.drv.run with
          | none => t
          | some op => let r := leavePart t op; walkParts effect fuel (setRun r.2 r.1)

/-- An operation at issue: refused, waiting for room or the governor, or launched (R118, R273, R423). `begun` is what an
operation does as soon as it may act. -/
def issueDrv (begun : State → State) (q : Fin 4) (op : DrvOp) (s : State) : Issue :=
  let ns := op.readNums ++ op.writeNums
  if isUpdate op.func ∧ op.s1 > 56 then .refuse 9 false s
  else match ns.find? (fun n => (namedDesc s n).isNone) with
    | some n => refuseNoDesc s DRV_OP_REFUSED_CNT n
    | none =>
      if !drvOk op (op.readNums.filterMap (namedDesc s)) (op.writeNums.filterMap (namedDesc s)) then drvRefuse s op.func
      else if s.drv.wait.isSome then .wait s
      else match gate s q (drvWork s op) with
        | (none, t) => .wait t
        | (some typ, t) =>
          let op := { op with energy := typ }
          .issued (issuedNext (if t.drv.run.isSome then setDrv t { t.drv with wait := some op } else begun (startDrv t op)) q)

/-- The operation of a VEC or GSM instruction. -/
def opOfFields (s : State) (q : Nat) (f : DrvFields) : DrvOp :=
  { no := 0, func := f.func, a := effDesc s q f.doff 0 f.a, b := effDesc s q f.doff 1 f.b, c := effDesc s q f.doff 2 f.c
    d := effDesc s q f.doff 3 f.d, cvt := f.cvt, hints := f.hints, s1 := f.s1, s2 := f.s2, mode := f.mode
    init := f.init, rowout := f.rowout, subop := 0, k := 0, gate := 0, scale := false, scalars := [], cfg := 0
    acq := Acq.none 4, energy := 0, part := 0, idx := [], experts := [], used := [], got := .none }

/-- The operation of a ROUTE instruction. -/
def opOfRoute (s : State) (q : Nat) (f : RouteFields) : DrvOp :=
  { no := 0, func := 0x46, a := effDesc s q f.doff 0 f.a, b := effDesc s q f.doff 1 f.b, c := effDesc s q f.doff 2 f.c
    d := effDesc s q f.doff 3 f.d, cvt := f.cvt, hints := f.hints, s1 := 0, s2 := 0, mode := 0
    init := false, rowout := false, subop := f.subop, k := f.k, gate := f.gate, scale := f.scale, scalars := [], cfg := 0
    acq := Acq.none 5, energy := 0, part := 0, idx := [], experts := [], used := [], got := .none }

/-- A VEC or GSM instruction with a function code: refused when its opcode does not accept the code (R273). [DEDUCED, log entry 43] -/
def runFn (q : Fin 4) (i : SeqInsn) (s : State) : Issue :=
  match i with
  | .vec f => if vecCode f.func then issueDrv id q (opOfFields s q f) s else drvRefuse s 5
  | .gsm f => if gsmCode f.func then issueDrv id q (opOfFields s q f) s else drvRefuse s 5
  | _ => .wait s

/-- The instruction is one that a function's command names: it carries the code, or a code that its opcode does not
accept. -/
def wantsFn (func : Nat) (i : SeqInsn) : Bool :=
  match i with
  | .vec f => f.func == func || !vecCode f.func
  | .gsm f => f.func == func || !gsmCode f.func
  | _ => false

/-- A drover sequencer tries to issue the function. -/
def issueFn (func : Nat) (q : Fin 4) (s : State) : State := tryIssue s q .other (wantsFn func) (runFn q)

/-! Events of an operation (R121, R138, Table 4.12). -/

/-- DRV_LAST_ERR takes the first event of its kind in an operation, and the event is logged. -/
def drvErr (s : State) (code func place event : Nat) : State :=
  if s.once.contains (s.ctx, 16 + event) then s
  else
    let op := (s.drv.opTotal + 1) % 2 ^ 16
    let s := ((((s.set DRV_LAST_ERR.CODE code).set DRV_LAST_ERR.VALID 1).set DRV_LAST_ERR.FUNC func).set
      DRV_LAST_ERR.WHERE place).set DRV_LAST_ERR.OP op
    s.logOnce (16 + event)
      { region := regionDRV, event := event, level := 1, action := 2
        detail := code + 4 + func * 2 ^ 8 + (place % 2 ^ 32) * 2 ^ 16 + op * 2 ^ 48 }

/-! Operand tiles. -/

/-- The directory entry and body of an L3 tile (R137, R138); none where it is malformed, which is counted. -/
def readL3 (s : State) (func : Nat) (d : Desc) (c : Chan) (k : Nat) : Option (Nat × List Byte) × State :=
  let w := tagWord s d.auxTag (Int.ofNat (d.dirOff k)) 8
  let bad := fun (s : State) => (none, drvErr (s.count DRV_L3_BAD_CNT 1) 3 func k 2)
  if !dirOk d.format w.1 then bad w.2
  else
    let n := l3Fetch w.1
    let b := if n = 0 then ([], w.2) else tagRead w.2 c (d.tileOff (d.posOf k)) n
    if bits w.1 0 8 = 1 ∧ !bodyOk b.1 (bits w.1 16 11) then bad b.2 else (some (w.1, b.1), b.2)

/-- The values of an operand's tile at a place, +0 beyond SIZE of dimensions 0 and 1 (R180, R182); nothing is read for a
place beyond the tensor's tiles. -/
def readSrc (s : State) (func : Nat) (d : Desc) (c : Chan) (p : Desc.Pos) : List Val × State :=
  if p.t0 ≥ d.t0 ∨ p.t1 ≥ d.t1 then (zeroTile, s)
  else if d.layout = 3 then
    let r := readL3 s func d c (d.numOf p)
    match r.1 with
    | none => (zeroTile, r.2)
    | some (w, body) =>
      let t := (l3Decode d.format w body).vals
      (d.clip p (fun e1 e0 => t.getD (32 * e1 + e0) Val.zero), r.2)
  else
    let r := readTile s d c p
    (d.clip p (elemVal d.format d.sax r.1), r.2)

/-- Tiles at some places read in order, those of them that the tensor has: their values, by number. -/
def readTiles (func : Nat) (d : Desc) (c : Chan) : List Desc.Pos → State → FMap (List Val) × State
  | [], s => ([], s)
  | p :: ps, s =>
    if d.has p then
      let r := readSrc s func d c p
      let q := readTiles func d c ps r.2
      (FMap.put q.1 (d.numOf p) r.1, q.2)
    else readTiles func d c ps s

/-- Row `r` of a matrix from its tiles as they were read; +0 beyond its rows. -/
def tilesRow (d : Desc) (m : FMap (List Val)) (r : Nat) : List Val :=
  (List.range d.d0.size).map (fun i =>
    if r < d.d1.size then ((FMap.find m (r / 32 * d.t0 + i / 32)).getD []).getD (r % 32 * 32 + i % 32) Val.zero else Val.zero)

/-- The values of a tile as an operation has fetched it: +0 where it has fetched nothing. -/
def Fetched.vals (x : Fetched) (d : Desc) (p : Desc.Pos) : List Val :=
  if !d.has p then zeroTile
  else if d.layout = 3 then (FMap.find x.tiles (d.numOf p)).getD zeroTile
  else
    let bs := (List.range (ceilDiv d.unit 512)).flatMap (fun k =>
      match x.sectors.find? (fun y => y.1 == d.tileOff p + Int.ofNat (512 * k)) with
      | .some y => y.2
      | .none => List.replicate (min 512 (d.unit - 512 * k)) 0)
    d.clip p (elemVal d.format d.sax bs)

/-- The values of the tiles at some places, each once. -/
def Fetched.at (x : Fetched) (d : Desc) (ps : List Desc.Pos) : List (Desc.Pos × List Val) :=
  ps.eraseDups.map (fun p => (p, x.vals d p))

/-- The values of the tiles at some places, each once, of an operand read tile by tile. -/
def Fetched.tilesAt (x : Fetched) (d : Desc) (ps : List Desc.Pos) : List (Desc.Pos × List Val) :=
  ps.eraseDups.map (fun p => (p, if d.has p then (FMap.find x.tiles (d.numOf p)).getD zeroTile else zeroTile))

/-! The merge buffer (R128, R139, R144): a slice of 256 KiB for each lane group. -/

/-- The address of binary32 number `k` of a lane group's slice. [DEDUCED, log entry 160] -/
def mergeWord (group k : Nat) : Nat := mergeBase + 0x40000 * (group % 64) + 4 * (k % 65536)

/-- Numbers read from the merge buffer, with the addresses at which they stand: the read meets the errors in their words, and one in a word whose
double-bit error persists is +0 (R24, R224). [DEDUCED, log entry 160] -/
def mergeRead (s : State) (xs : List (Nat × Val)) : List Val × State :=
  if s.upsets = [] then (xs.map (·.2), s)
  else
    let lost := fun a => s.upsets.any (fun | .word b .persistent => b / 8 == a / 8 | _ => false)
    (xs.map (fun x => if lost x.1 then Val.zero else x.2), meetWords s (fun w => xs.any (fun x => x.1 / 8 * 8 == w)))

/-- Rows read from the merge buffer one after another, from row `e1` on; `place` says where each number of a row stands. -/
def readRows32 (place : Nat → Nat → Nat) : List (List Val) → Nat → State → List (List Val) × State
  | [], _, s => ([], s)
  | r :: rs, e1, s =>
    let x := mergeRead s (r.zipIdx.map (fun v => (place e1 v.2, v.1)))
    let q := readRows32 place rs (e1 + 1) x.2
    (x.1 :: q.1, q.2)

/-- A value that enters the lanes as binary32: one that is not zero and comes in as zero is flushed (R73). [DESIGN CHOICE, log entry 138] -/
def entryCat (v : Val) : NumCat := if !v.isZero && (round32 v).isZero then .flushed else .plain

/-- Values enter the lanes, and those flushed on entry are counted. -/
def State.enter (s : State) (vs : List Val) : State :=
  let e := NumEvents.ofCats (vs.map entryCat)
  if e = .none then s else s.addEvents regionDRV e

/-! Results. -/

/-- A converted tile in the form of L3 (R134, R136): directory entry and body; a −0 is dropped, in a dense body too. [DEDUCED, log entry 48] -/
def packL3 (f : Fmt) (elems : List Nat) (dense : Bool) : Nat × List Byte × Bool :=
  let zero := fun (w : Nat) => w % 2 ^ (f.elemBits - (if f = .int32 then 0 else 1)) == 0
  let kept := (List.range 1024).filter (fun e => !zero (elems.getD e 0))
  let z := kept.length
  let es := f.elemBits / 8
  let ends := (List.range 32).map (fun r => (kept.filter (fun e => decide (e / 32 ≤ r))).length)
  let pad := fun (bs : List Byte) => bs ++ List.replicate (pad8 bs.length - bs.length) (0 : Byte)
  if z = 0 then (f.code * 2 ^ 8, [], false)
  else if l3Body f z ≤ f.tileBytes ∧ !dense then
    (1 + f.code * 2 ^ 8 + z * 2 ^ 16 + l3Body f z * 2 ^ 32,
     ends.flatMap (toBytes 2) ++ pad (kept.map (fun e => BitVec.ofNat 8 (e % 32)))
       ++ pad (kept.flatMap (fun e => toBytes es (elems.getD e 0))), false)
  else
    (2 + f.code * 2 ^ 8 + z * 2 ^ 16 + f.tileBytes * 2 ^ 32,
     toBytes f.tileBytes (packBits f.elemBits (elems.map (fun w => if zero w then 0 else w))), true)

/-- A tile of an L3 tensor delivered (R68, R136): converted, its body and directory entry written, then its record. [DEDUCED, log entry 48] -/
def deliverL3 (s : State) (op : DrvOp) (d : Desc) (c : Chan) (k : Nat) (lane : Nat → Nat) (vals : List Val)
    (stale : Bool) : State :=
  let p := d.posOf k
  let cv := s.cvt regionDRV op.cvt
  let o := convTile d p cv lane vals (fun _ => true) (s.conv regionDRV)
  let l := packL3 d.format o.elems (bit op.cfg 1)
  let v := survives (s.commitConv regionDRV o.conv) d k (fun _ _ => true)
  let s := if l.2.1 = [] ∨ !v.1 0 then v.2 else tagWrite v.2 c (d.tileOff p) l.2.1
  let s := tagWrite s (rawChan s d.auxTag) (Int.ofNat (d.dirOff k)) (toBytes 8 l.1)
  let s := if l.2.2 ∧ op.func = 0x44 ∧ !bit op.cfg 1 then s.count DRV_DENSE_FALLBACK_CNT 1 else s
  writeTally s d k (Tally.ofTile d.format cv stale (insideVals (d.inSize p) vals) o.conv.events)

/-- The record of tile `k` of a tensor that an operation writes is STALE (R215, R216). -/
def DrvOp.staleTile (op : DrvOp) (s : State) (d : Desc) (k : Nat) : Bool :=
  let o := d.tileOff (d.posOf k)
  op.acq.staleAt d.tag (if d.sync then slotsOf (tagEntry s d.tag) o.toNat (o + Int.ofNat d.unit).toNat else [])

/-- A result tile of an operation delivered through descriptor `n`; `open_` says that its values are unspecified, because
what the operation reads and writes overlap (R186). -/
def drvDeliver (s : State) (op : DrvOp) (d : Desc) (n k : Nat) (lane : Nat → Nat) (vals : List Val) (open_ : Bool)
    (only : Nat → Nat → Bool) : State :=
  let f := s.fresh
  let vals := if open_ then openVals f.1 1024 else vals
  let s := if open_ then f.2 else s
  let stale := op.staleTile s d k
  if d.layout = 3 then deliverL3 s op d (op.outChan d n) k lane vals stale
  else deliverTile s regionDRV d (op.outChan d n) k op.cvt lane vals stale only

/-- What an operation reads overlaps what it writes, otherwise than R186 allows. [DESIGN CHOICE, log entry 41] -/
def drvOpen (s : State) (op : DrvOp) : Bool :=
  let elementwise := decide (1 ≤ op.func) && decide (op.func ≤ 0x18)
  op.writeNums.any (fun w => op.readNums.any (fun r =>
    match namedDesc s w, namedDesc s r with
    | some dw, some dr => descsMeet s dw dr && !(elementwise && dw.sameTiles dr)
    | _, _ => false))

/-- Tiles delivered one after another. -/
def eachTile (f : State → Nat → State) (n : Nat) (s : State) : State := (List.range n).foldl f s

end Sys2Proof.Machine
end

