-- ==== Sys2Proof/Machine/Vector.lean ====
section
/-!
DEFINITION. Machine/Vector.lean: the element-wise, special and row operations of the vector lanes, and the conversions to and
from compressed tiles (04 R136, R142 to R147, Table 4.7).
-/

namespace Sys2Proof.Machine

open Reg

/-- The effect of an element-wise function on binary32 operands, with what its adder met (R73): exact where it rounds only into its
destination (R46). [DESIGN CHOICE, log entries 137, 171] -/
def elemFn (func : Nat) (s1 s2 a b c : Val) : Val × NumCat :=
  match func with
  | 0x01 => adder32 (Val.add a b)
  | 0x02 => adder32 (Val.sub a b)
  | 0x03 => (round32 (Val.mul a b), .plain)
  | 0x04 => (Val.add (Val.mul a b) c, .plain)
  | 0x05 => adder32 (Val.add (round32 (Val.mul s1 a)) (round32 (Val.mul s2 b)))
  | 0x06 => (Val.max a b, .plain)
  | 0x07 => (Val.min a b, .plain)
  | 0x08 => (a.abs, .plain)
  | 0x09 => (if c.isZero then b else a, .plain)
  | 0x0A => (Val.max a .zero, .plain)
  | 0x0B | 0x44 | 0x45 => (a, .plain)
  | f => (special f a, .plain)

/-- An operand enters the lanes as binary32; a conversion takes it as it is. [DESIGN CHOICE, log entry 138] -/
def laneIn (func : Nat) (v : Val) : Val := if func = 0x0B ∨ func = 0x44 ∨ func = 0x45 then v else round32 v

/-- The vector lane of element `e` of tile `k` (R66). [DESIGN CHOICE, log entry 140] -/
def vecLane (k e : Nat) : Nat := 1024 + (1024 * k + e) % 2048

/-- The tile of an operand, if the operation reads it. -/
def operandTile (s : State) (op : DrvOp) (i : Nat) (p : Desc.Pos) : List Val × State :=
  if (drvReads op.func op.subop).contains i then
    let d := opDesc s (op.num i)
    readSrc s op.func d (op.chan d (op.num i)) p
  else (zeroTile, s)

/-- One tile of an element-wise operation, of COMPRESS or of EXPAND. -/
def elemTile (op : DrvOp) (open_ : Bool) (k : Nat) (s : State) : State :=
  let d := opDesc s op.d
  let p := d.posOf k
  let a := operandTile s op 0 p
  let b := operandTile a.2 op 1 p
  let c := operandTile b.2 op 2 p
  let s1 := val32 (op.scalars.getD 0 0)
  let s2 := val32 (op.scalars.getD 1 0)
  let x := fun (l : List Val) e => laneIn op.func (l.getD e .zero)
  let outs := (List.range 1024).map (fun e => elemFn op.func s1 s2 (x a.1 e) (x b.1 e) (x c.1 e))
  let inside := d.inSize p
  let met := (outs.zipIdx.filter (fun o => inside o.2)).map (fun o => o.1.2)
  let came := if op.func = 0x0B ∨ op.func = 0x44 ∨ op.func = 0x45 then []
    else ((List.range 1024).filter inside).flatMap (fun e => [a.1, b.1, c.1].map (·.getD e .zero))
  drvDeliver ((c.2.addEvents regionDRV (NumEvents.ofCats met)).enter came) op d op.d k (vecLane k) (outs.map (·.1)) open_ (fun _ _ => true)

/-! Row operations (R144 to R146). -/

/-- A fold in the fixed order of R144: element `i` on lane `i mod 32`, lane by lane, then the lanes in order. [DESIGN CHOICE, log entry 177] -/
def laneFold {α : Type} (f : α → α → α) (zero : α) (vs : List α) : α :=
  let part := fun l => (vs.zipIdx.filter (fun p => p.2 % 32 == l)).map (·.1)
  let fold := fun (xs : List α) => match xs with
    | [] => zero
    | x :: xs => xs.foldl f x
  fold (((List.range 32).map part).filterMap (fun l => match l with | [] => none | _ => some (fold l)))

def mul32 (a b : Val) : Val := round32 (Val.mul a b)

/-- A sum grows by a term in an adder of the lanes; the second component is what the adder has met so far (R73). [DEDUCED, log entry 146] -/
def accumulate (acc : Val × NumEvents) (v : Val) : Val × NumEvents :=
  let r := adder32 (Val.add acc.1 v)
  (r.1, acc.2.note r.2)

/-- A row's sum in the order of R144. -/
def sum32 (vs : List Val) : Val × NumEvents :=
  laneFold (fun a b => let r := accumulate a b.1; (r.1, r.2.plus b.2)) (.zero, .none) (vs.map (fun v => (v, .none)))

/-- A mean: the sum divided by the count. [DESIGN CHOICE, log entry 172] -/
def mean32 (vs : List Val) : Val × NumEvents := let r := sum32 vs; (div32 r.1 (Val.ofNat vs.length), r.2)

/-- Additions made element by element, and what the adders met. [DEDUCED, log entry 146] -/
def addEach (sums : List Val) : List Val × NumEvents :=
  let rs := sums.map adder32
  (rs.map (·.1), NumEvents.ofCats (rs.map (·.2)))

/-- What a row operation delivers for a row: its elements, the per-row results in their columns, and what its adders met. -/
structure RowOut where
  elems : List Val
  stats : List Val
  events : NumEvents
  deriving DecidableEq, Repr

/-- SOFTMAX of a row (R145). -/
def softmaxRow (xs : List Val) : List Val × NumEvents :=
  let m := xs.foldl Val.max (.inf true)
  match m with
  | .nan => (xs.map (fun _ => .nan), .none)
  | .inf s => (xs.map (fun _ => if s then .zero else .nan), .none)
  | _ =>
    let ds := addEach (xs.map (fun x => Val.sub x m))
    let es := ds.1.map expOf
    let t := sum32 es
    let r := rcp t.1
    (es.map (fun e => mul32 e r), ds.2.plus t.2)

/-- A row operation on a row, its gain and its offset (R144 to R146). [DESIGN CHOICE, log entries 172, 173] -/
def rowFn (func : Nat) (eps : Val) (xs gs bs : List Val) : RowOut :=
  let three := fun (ys : List Val) (r : Val) => (ys.zip gs).map (fun p => mul32 (mul32 p.1 r) p.2)
  let factor := fun (q : Val × NumEvents) => let t := accumulate q eps; (special 0x11 t.1, t.2)
  match func with
  | 0x20 => let t := sum32 xs; { elems := [], stats := [t.1], events := t.2 }
  | 0x21 => { elems := [], stats := [laneFold Val.max .zero xs], events := .none }
  | 0x22 => let t := sum32 (xs.map (fun x => mul32 x x)); { elems := [], stats := [t.1], events := t.2 }
  | 0x28 => let t := softmaxRow xs; { elems := t.1, stats := [], events := t.2 }
  | 0x29 =>
    let mu := mean32 xs
    let ds := addEach (xs.map (fun x => Val.sub x mu.1))
    let r := factor (mean32 (ds.1.map (fun d => mul32 d d)))
    let ys := addEach (((three ds.1 r.1).zip bs).map (fun p => Val.add p.1 p.2))
    { elems := ys.1, stats := [mu.1, r.1], events := ((mu.2.plus ds.2).plus r.2).plus ys.2 }
  | _ =>
    let r := factor (mean32 (xs.map (fun x => mul32 x x)))
    { elems := three xs r.1, stats := [r.1], events := r.2 }

/-- The place of the first tile of tile row `u` of a tensor. -/
def Desc.rowPos (d : Desc) (u : Nat) : Desc.Pos := d.posOf (u * d.t0)

/-- The tiles of one tile row of an operand, at the place of another's tile row; a dimension of SIZE 1 above the columns
serves every row. -/
def readRow (s : State) (func : Nat) (d : Desc) (c : Chan) (p : Desc.Pos) : Nat → Nat → List (List Val) × State
  | 0, _ => ([], s)
  | n + 1, t =>
    let r := readSrc s func d c { p with t0 := t }
    let q := readRow r.2 func d c p n (t + 1)
    (r.1 :: q.1, q.2)

/-- Row `e1` of a tile row, its first `n` elements. -/
def rowRaw (ts : List (List Val)) (e1 n : Nat) : List Val :=
  (List.range n).map (fun i => (ts.getD (i / 32) []).getD (32 * e1 + i % 32) .zero)

/-- The same as binary32. [DESIGN CHOICE, log entry 138] -/
def rowOf (ts : List (List Val)) (e1 n : Nat) : List Val := (rowRaw ts e1 n).map round32

/-- A per-column operand's values for a row. -/
def colOperand (s : State) (op : DrvOp) (i n nr : Nat) (p : Desc.Pos) : (Nat → List Val) × State :=
  if (drvReads op.func op.subop).contains i then
    let d := opDesc s (op.num i)
    let r := readRow s op.func d (op.chan d (op.num i)) (colPos d p) (ceilDiv n 32) 0
    let one := decide (d.d1.size = 1)
    (fun e1 => rowOf r.1 (if one then 0 else e1) n, r.2.enter ((List.range (if one then 1 else nr)).flatMap (fun e1 => rowRaw r.1 e1 n)))
  else (fun _ => [], s)

/-- The lane of column `i` of row `r`: rows go to lane groups in turn (R66, R144). [DESIGN CHOICE, log entry 140] -/
def rowLane (r i : Nat) : Nat := 1024 + 32 * (r % 64) + i % 32

/-- One tile row of a row operation: its elements delivered through D, its per-row results through D or D + 1. -/
def rowTile (op : DrvOp) (open_ : Bool) (u : Nat) (s : State) : State :=
  let a := opDesc s op.a
  let p := a.rowPos u
  let n := a.d0.size
  let nr := min 32 (a.d1.size - 32 * p.t1)
  let x := readRow s op.func a (op.chan a op.a) p a.t0 0
  let g := colOperand x.2 op 1 n nr p
  let b := colOperand g.2 op 2 n nr p
  let eps := val32 (op.scalars.getD 0 0)
  let row0 := 32 * p.t1 + a.d1.size * (u / a.t1)
  let w := readRows32 (fun e1 i => mergeWord (row0 + e1) i) ((List.range nr).map (fun e1 => rowOf x.1 e1 n)) 0
    (b.2.enter ((List.range nr).flatMap (fun e1 => rowRaw x.1 e1 n)))
  let outs := (List.range nr).map (fun e1 => rowFn op.func eps (w.1.getD e1 []) (g.1 e1) (b.1 e1))
  let s0 := w.2.addEvents regionDRV (outs.foldl (fun n o => n.plus o.events) .none)
  let row := fun e1 => outs.getD e1 { elems := [], stats := [], events := .none }
  let put := fun (s : State) (m : Nat) (q : Desc.Pos) (v : Nat → Nat → Val) (only : Nat → Bool) =>
    let d := opDesc s m
    if d.has q then
      drvDeliver s op d m (d.numOf q) (fun e => rowLane (row0 + e / 32) (32 * q.t0 + e % 32))
        ((List.range 1024).map (fun e => v (e / 32) (e % 32))) open_ (fun _ e => decide (e / 32 < nr) && only e)
    else s
  let stats := fun (s : State) (m : Nat) =>
    put s m { p with t0 := 0 } (fun e1 e0 => (row e1).stats.getD e0 .zero)
      (fun e => decide (e % 32 < (row 0).stats.length))
  let s := if op.func ≤ 0x22 then stats s0 op.d
    else (List.range a.t0).foldl (fun s t =>
      put s op.d { p with t0 := t } (fun e1 e0 => (row e1).elems.getD (32 * t + e0) .zero) (fun _ => true)) s0
  if op.rowout ∧ op.func ≠ 0x28 then stats s (op.d + 1) else s

end Sys2Proof.Machine
end

