-- ==== Sys2Proof/Machine/Gather.lean ====
section
/-!
DEFINITION. Machine/Gather.lean: GATHER, SCATTER, SCATTER_MERGE and SPMM (04 R120 to R132, R139 to R141; 06 R187).
-/

namespace Sys2Proof.Machine

open Reg

/-! Places and elements along an indexed dimension. -/

/-- The index along dimension `i` of element `e` of the tile at a place (R187). -/
def elemIndex (i : Nat) (p : Desc.Pos) (e : Nat) : Nat :=
  match i with
  | 0 => 32 * p.t0 + e % 32
  | 1 => 32 * p.t1 + e / 32
  | i => p.coord i

/-- The same element at index `v` along dimension `i`: its tile's place and its number in the tile. -/
def elemAt (i : Nat) (p : Desc.Pos) (e v : Nat) : Desc.Pos × Nat :=
  match i with
  | 0 => ({ p with t0 := v / 32 }, e / 32 * 32 + v % 32)
  | 1 => ({ p with t1 := v / 32 }, v % 32 * 32 + e % 32)
  | i => (p.withCoord i v, e)

/-! Indices (R121, R187). -/

/-- Entries `j`, `j + 1`, … of an index tensor, those in range as indices; the others count once in an operation, at its first reading of
the tensor. -/
def readIndices (func : Nat) (d : Desc) (i : Nat) (first : Bool) : Nat → Nat → State → List (Option Nat) × State
  | 0, _, s => ([], s)
  | n + 1, j, s =>
    let r := tagWord (s.count DRV_GATHER_IDX_CNT 1) d.idxTag (Int.ofNat (d.idxOffset * 4096 + 4 * j)) 4
    let v := signed 32 r.1
    let ok := decide (0 ≤ v) && decide (v < Int.ofNat (d.sizeOf i))
    let s := if ok ∨ !first then r.2
      else drvErr (r.2.count DRV_IDX_OOR_CNT 1) (if func = 0x40 then 1 else 2) func (j % 2 ^ 32) 1
    let q := readIndices func d i first n (j + 1) s
    ((if ok then some v.toNat else none) :: q.1, q.2)

/-- The index tensor read whole; the operation keeps its entries. -/
def takeIndices (op : DrvOp) (d : Desc) (n : Nat) (first : Bool) (s : State) : List (Option Nat) × State :=
  let r := readIndices op.func d (d.idxDim.getD 0) first n 0 s
  (r.1, setRun r.2 { op with idx := r.1 })

/-! The gather cache (R122 to R124): a sector is known by the address of its first byte, whose bits 17 to 9 are its set. -/

/-- A sector looked up: served from the cache, or fetched and kept; one whose read fails its check reads zero and is not kept (R192).
[DEDUCED, log entry 47] -/
def sectorLookup (op : DrvOp) (c : Chan) (r : List (Int × List Byte) × State) (o : Int × Nat) : List (Int × List Byte) × State :=
  let s := r.2
  let e := tagEntry s c.tag
  if !((c.prot || e.allows false o.1 o.2) && decide (0 ≤ o.1)) then
    let x := tagRead s c o.1 o.2
    ((o.1, x.1) :: r.1, x.2)
  else
    let n := e.addr o.1.toNat
    let k := n / 512 % 512
    let set := (FMap.find s.drv.gcache k).getD []
    let put := fun (s : State) (bs : List Byte) =>
      ((o.1, bs) :: r.1, setDrv s { s.drv with gcache := FMap.put s.drv.gcache k (((n, bs) :: set.filter (·.1 != n)).take 16) })
    match (if bit op.cfg 0 then none else set.find? (·.1 == n)) with
    | some x => put (s.count DRV_GCACHE_HIT_CNT 1) x.2
    | none => let x := tagRead s c o.1 o.2; put (x.2.count DRV_GCACHE_MISS_CNT 1) x.1

/-- The sectors of a tile that a slice needs: the one with its row along dimension 1, all of them otherwise (R124). -/
def sectorsOf (d : Desc) (p : Desc.Pos) (row : Option Nat) : List (Int × Nat) :=
  let o := d.tileOff p
  let one := fun k => (o + Int.ofNat (512 * k), min 512 (d.unit - 512 * k))
  match row with
  | some e1 => [one ((if d.d1.bcast then 0 else e1) * (4 * d.format.elemBits) / 512)]
  | none => (List.range (ceilDiv d.unit 512)).map one

/-- The lookups for the slice at index `v` along dimension `i`, in the tiles at some places that it crosses. L3 tiles are fetched as R137
says. [DEDUCED, log entry 47] -/
def sliceLookups (op : DrvOp) (d : Desc) (c : Chan) (i v : Nat) (ps : List Desc.Pos) (r : List (Int × List Byte) × State) :
    List (Int × List Byte) × State :=
  if d.layout = 3 then r
  else (ps.map (sliceAt i · v)).foldl (fun r p =>
    if d.has p then (sectorsOf d p (if i = 1 then some (v % 32) else none)).foldl (sectorLookup op c) r else r) r

/-- Every tile place that a slice along dimension `i` crosses, with 0 along it. -/
def crossing (d : Desc) (i : Nat) : List Desc.Pos := ((List.range d.tiles).map d.posOf).filter (fun p => p.coord i == 0)

/-! Values already fetched. -/

/-- An element of the tiles fetched. -/
def tileElem (ts : List (Desc.Pos × List Val)) (x : Desc.Pos × Nat) : Val :=
  match ts.find? (fun t => t.1 == x.1) with
  | some t => t.2.getD x.2 .zero
  | none => .zero

/-! Whole tiles moved as they are: L3 tiles (R125). -/

/-- A whole tile moved with its directory entry from place `p` of one tensor to tile `k` of another; none gives a tile of +0. -/
def moveTile (s : State) (op : DrvOp) (src : Desc) (cs : Chan) (p : Option Desc.Pos) (d : Desc) (k : Nat)
    (only : Nat → Nat → Bool) : State :=
  let o := d.tileOff (d.posOf k)
  let r := match p with
    | some p => readL3 s op.func src cs (src.numOf p)
    | none => (none, s)
  let t := r.1.getD (d.format.code * 2 ^ 8, [])
  let v := survives r.2 d k only
  let s := if t.2 = [] ∨ !v.1 0 then v.2 else tagWrite v.2 (op.outChan d op.d) o (t.2.take (bits t.1 32 13))
  let s := tagWrite s (rawChan s d.auxTag) (Int.ofNat (d.dirOff k)) (toBytes 8 t.1)
  let vals := (l3Decode d.format t.1 t.2).vals
  let inside := insideVals (d.inSize (d.posOf k)) vals
  let ev := NumEvents.ofCats (inside.map (fun v => match d.format.fp with | some f => (f.encode .rne 0 v).2 | none => .plain))
  writeTally (s.addEvents regionDRV ev) d k (Tally.ofTile d.format (s.cvt regionDRV op.cvt) (op.staleTile s d k) inside ev)

/-! GATHER. -/

/-- One tile of D of a GATHER: each slice of it is looked up, and the tile is delivered (R120 to R125). -/
def gatherTile (op : DrvOp) (open_ : Bool) (k : Nat) (s : State) : State :=
  let a := opDesc s op.a
  let d := opDesc s op.d
  let ca := op.chan a op.a
  let i := a.idxDim.getD 0
  let p := d.posOf k
  let src := fun e => ((op.idx.getD (elemIndex i p e) none).map (elemAt i p e))
  if movesWhole a d ∧ !open_ then moveTile s op a ca ((src 0).map (·.1)) d k (fun _ _ => true)
  else
    let slices := (tileSpan d i p).filterMap (fun j => op.idx.getD j none)
    let ps := slices.map (sliceAt i p)
    let x := slices.foldl (fun r v => sliceLookups op a ca i v [p] r) ([], s)
    let y := if a.layout = 3 then readTiles op.func a ca ps x.2 else ([], x.2)
    let ts := ({ tiles := y.1, sectors := x.1 } : Fetched).at a ps
    drvDeliver y.2 op d op.d k (vecLane k)
      ((List.range 1024).map (fun e => match src e with | some x => tileElem ts x | none => .zero)) open_ (fun _ _ => true)

/-- A part of a GATHER: the indices first, then the tiles of D. -/
def gatherPart (op : DrvOp) (open_ : Bool) (u : Nat) (s : State) : State :=
  let a := opDesc s op.a
  if u = 0 then (takeIndices op a ((opDesc s op.d).sizeOf (a.idxDim.getD 0)) true s).2 else gatherTile op open_ (u - 1) s

/-! SCATTER. -/

/-- The positions whose index is `v`, in ascending order. -/
def positionsOf (idx : List (Option Nat)) (v : Nat) : List Nat :=
  (idx.zipIdx.filter (fun p => p.1 == some v)).map (·.2)

/-- Which of several positions survives: a free choice (R126). [DESIGN CHOICE, log entry 42] -/
def surviving (seed : Nat) : List Nat → Option Nat
  | [] => none
  | j :: js => some (js.foldl (fun a b => if Config.survivor (seed * 2 ^ 32 + b) then b else a) j)

/-- The positions that name each index that a tile of D covers. -/
def tilePositions (op : DrvOp) (d : Desc) (i : Nat) (p : Desc.Pos) : FMap (List Nat) :=
  (tileSpan d i p).map (fun v => (v, positionsOf op.idx v))

/-- The positions that name the index of an element of a tile. -/
def elemPositions (at_ : FMap (List Nat)) (i : Nat) (p : Desc.Pos) (e : Nat) : List Nat := (FMap.find at_ (elemIndex i p e)).getD []

/-- An element of tile `m` that the operation writes: one whose index some position names. -/
def named (op : DrvOp) (d : Desc) (i m e : Nat) : Bool :=
  d.inSize (d.posOf m) e && op.idx.contains (some (elemIndex i (d.posOf m) e))

/-- One tile of D of a SCATTER, if some of it is written (R120, R126, R127). -/
def scatterTile (op : DrvOp) (open_ : Bool) (k : Nat) (s : State) : State :=
  let a := opDesc s op.a
  let d := opDesc s op.d
  let ca := op.chan a op.a
  let i := d.idxDim.getD 0
  let p := d.posOf k
  let at_ := tilePositions op d i p
  if at_.all (fun x => x.2.isEmpty) then s
  else
    let f := s.fresh
    let s := if at_.any (fun x => decide (x.2.length > 1)) then f.2 else s
    let pick := fun e => surviving (f.1 * 1024 + e) (elemPositions at_ i p e)
    if movesWhole a d ∧ !open_ then moveTile s op a ca ((pick 0).map (p.withCoord i)) d k (fun m _ => named op d i m 0)
    else
      let src := fun e => (pick e).map (elemAt i p e)
      let ts := op.got.at a ((at_.flatMap (·.2)).map (sliceAt i p))
      drvDeliver s op d op.d k (vecLane k)
        ((List.range 1024).map (fun e => match src e with | some x => tileElem ts x | none => .zero)) open_ (named op d i)

/-- The source slices of the indices that `p` picks are looked up, by position, and kept by the operation. [DEDUCED, log entry 47] -/
def lookupSources (op : DrvOp) (a d : Desc) (idx : List (Option Nat)) (p : Nat → Bool) (s : State) : State :=
  let i := d.idxDim.getD 0
  let ca := op.chan a op.a
  let js := (idx.zipIdx.filter (fun x => match x.1 with | some v => p v | none => false)).map (·.2)
  let places := js.flatMap (fun j => (crossing a i).map (sliceAt i · j))
  let got : Fetched × State :=
    if a.layout = 3 then
      (if movesWhole a d then (.none, s) else let r := readTiles op.func a ca places s; ({ tiles := r.1, sectors := [] }, r.2))
    else let r := js.foldl (fun r j => sliceLookups op a ca i j (crossing a i) r) ([], s); ({ tiles := [], sectors := r.1 }, r.2)
  setRun got.2 { op with idx := idx, got := got.1 }

/-- A part of a SCATTER: the indices and the source slices in range first, then the tiles of D. -/
def scatterPart (op : DrvOp) (open_ : Bool) (u : Nat) (s : State) : State :=
  let a := opDesc s op.a
  let d := opDesc s op.d
  if u = 0 then
    let r := takeIndices op d (a.sizeOf (d.idxDim.getD 0)) true s
    lookupSources op a d r.1 (fun _ => true) r.2
  else scatterTile op open_ (u - 1) s

/-! SCATTER_MERGE (R128 to R132). -/

/-- The combination of contributions, in ascending position, under MODE, and what the adder of the merge lane met (R73). -/
def mergeVals (mode : Nat) (start : Val) (vs : List Val) : Val × NumEvents :=
  match mode with
  | 0 => vs.foldl accumulate (start, .none)
  | 1 => (vs.foldl Val.max start, .none)
  | _ => (vs.foldl (fun _ v => v) start, .none)

/-- The identity of a mode (Table 4.2). -/
def mergeStart (mode : Nat) : Val := if mode = 1 then .inf true else .zero

/-- The place of an element in its slice: dimension 0 fastest, the indexed one left out. [DEDUCED, log entry 160] -/
def slicePlace (d : Desc) (i : Nat) (p : Desc.Pos) (e : Nat) : Nat :=
  ([0, 1, 2, 3, 4, 5].filter (· != i)).foldr (fun j n => elemIndex j p e + d.sizeOf j * n) 0

/-- Where the merge buffer holds an element of a destination tile: lane *i* mod 64 owns row *i*, and its rows of a sweep lie in its slice one after
another (R129, R131). [DEDUCED, log entry 160] -/
def mergePlace (d : Desc) (i : Nat) (p : Desc.Pos) (e : Nat) : Nat :=
  let row := elemIndex i p e
  let width := d.sliceWidth i
  mergeWord row (row % sweepRows width / 64 * width + slicePlace d i p e)

/-- One tile of D of a merge, if some of it is written (R130). [DESIGN CHOICE, log entry 138] -/
def mergeTile (op : DrvOp) (open_ : Bool) (k : Nat) (s : State) : State :=
  let a := opDesc s op.a
  let d := opDesc s op.d
  let i := d.idxDim.getD 0
  let p := d.posOf k
  let at_ := tilePositions op d i p
  if !op.init ∧ at_.all (fun x => x.2.isEmpty) then s
  else
    let old := if op.init then readSrc s op.func d (op.outChan d op.d) p else (zeroTile, s)
    let ts := op.got.at a ((at_.flatMap (·.2)).map (sliceAt i p))
    let start := fun e => if op.init then round32 (old.1.getD e .zero) else mergeStart op.mode
    let outs := (List.range 1024).map (fun e =>
      mergeVals op.mode (start e) ((elemPositions at_ i p e).map (fun x => round32 (tileElem ts (elemAt i p e x)))))
    let inside := d.inSize p
    let met := outs.zipIdx.foldl (fun n o => if inside o.2 then n.plus o.1.2 else n) .none
    let came := ((List.range 1024).filter inside).flatMap (fun e =>
      (if op.init then [old.1.getD e .zero] else []) ++ (elemPositions at_ i p e).map (fun x => tileElem ts (elemAt i p e x)))
    let r := mergeRead ((old.2.addEvents regionDRV met).enter came) (outs.zipIdx.map (fun o => (mergePlace d i p o.2, o.1.1)))
    drvDeliver r.2 op d op.d k (fun e => 6144 + elemIndex i p e % 64) r.1 open_
      (fun m e => op.init || named op d i m e)

/-- A part of a merge: the start of a sweep, which reads the indices and looks up the source slices that belong to it, or a tile of D (R131). -/
def mergePart (op : DrvOp) (open_ : Bool) (u : Nat) (s : State) : State :=
  let a := opDesc s op.a
  let d := opDesc s op.d
  let i := d.idxDim.getD 0
  match (mergeParts d i)[u]? with
  | some (w, none) =>
    let r := takeIndices op d (a.sizeOf i) (w == 0) (s.count DRV_MERGE_SWEEP_CNT 1)
    lookupSources op a d r.1 (fun v => v / sweepRows (d.sliceWidth i) == w) r.2
  | some (_, some k) => mergeTile op open_ k s
  | none => s

/-! SPMM (R139 to R141). -/

/-- The kept elements of an L3 tile, as element numbers and values, in order. -/
def l3Kept (f : Fmt) (w : Nat) (body : List Byte) : List (Nat × Val) :=
  match bits w 0 8 with
  | 0 => []
  | 1 =>
    (List.range 32).flatMap (fun r =>
      (List.range (rowEnd body r - rowStart body r)).map (fun j =>
        let n := rowStart body r + j
        (32 * r + colByte body n,
         f.decode 0 (bitsOf body ((64 + pad8 (bits w 16 11)) * 8 + n * f.elemBits) f.elemBits))))
  | _ =>
    ((List.range 1024).map (fun e => (e, elemVal f false body (e / 32) (e % 32)))).filter (fun x => !x.2.isZero)

/-- The kept elements of a tensor's tile: those of its body, repeated where a dimension is broadcast (R182). -/
def Desc.keptIn (d : Desc) (xs : List (Nat × Val)) : List (Nat × Val) :=
  if d.d0.bcast || d.d1.bcast then
    (List.range 1024).filterMap (fun e =>
      let q := d.bcastAt (e / 32) (e % 32)
      (xs.find? (fun x => x.1 == 32 * q.1 + q.2)).map (fun x => (e, x.2)))
  else xs

/-- The kept elements of the tiles of one tile row: row in the tile row, column in the tensor, value. -/
def keptRow (func : Nat) (d : Desc) (c : Chan) : List Desc.Pos → State → List (Nat × Nat × Val) × State
  | [], s => ([], s)
  | p :: ps, s =>
    let r := readL3 s func d c (d.numOf p)
    let here := match r.1 with
      | some (w, body) => ((d.keptIn (l3Kept d.format w body)).filter (fun x => d.inSize p x.1)).map
          (fun x => (x.1 / 32, 32 * p.t0 + x.1 % 32, x.2))
      | none => []
    let q := keptRow func d c ps r.2
    (here ++ q.1, q.2)

/-- A multiply-add of the lanes, rounded once (R46), and what it met. -/
def fma32 (a b c : Val) : Val × NumCat := adder32 (Val.add (Val.mul a b) c)

/-- A list in chunks of 256. -/
def chunks256 {α : Type} : Nat → List α → List (List α)
  | 0, _ => []
  | n + 1, xs => if xs = [] then [] else xs.take 256 :: chunks256 n (xs.drop 256)

/-- A list in an order drawn position by position: a free one (R141). [DESIGN CHOICE, log entry 46] -/
def drawOrder {α : Type} (seed : Nat) : Nat → List α → List α
  | 0, _ => []
  | n + 1, xs =>
    let i := Config.partialOrder (seed * 2 ^ 32 + n) % max 1 xs.length
    match xs[i]? with
    | none => []
    | some x => x :: drawOrder seed n (xs.eraseIdx i)

/-- An element of Y from kept elements in ascending column, and what its accumulator met. [DESIGN CHOICE, log entry 174] -/
def keptDot (ks : List (Nat × Val)) (b : Nat → Val) : Val × NumEvents :=
  ks.foldl (fun acc x => accumulate acc (Val.mul (round32 x.2) (round32 (b x.1)))) (.zero, .none)

/-- One row of Y: kept elements in ascending column, a row of more than 256 of them in partial rows (R140). [DESIGN CHOICE, log entry 46] -/
def spmmRow (seed n : Nat) (kept : List (Nat × Val)) (b : Nat → Nat → Val) : List (Val × NumEvents) :=
  let dot := fun (ks : List (Nat × Val)) => (List.range n).map (fun c => keptDot ks (fun k => b k c))
  if kept.length ≤ 256 then dot kept
  else
    let parts := (chunks256 kept.length kept).map dot
    (drawOrder seed parts.length parts).foldl (fun acc p =>
      (acc.zip p).map (fun x => let r := accumulate x.1 x.2.1; (r.1, r.2.plus x.2.2))) (List.replicate n (.zero, .none))

/-- The generator lane that delivers column `c` of row `i` of Y: of the lane group to which the row was dealt, or, for a split row, of its
merge lane (R66, R139, R140). [DESIGN CHOICE, log entry 46] -/
def spmmLane (seed : Nat) (split : Bool) (i c : Nat) : Nat :=
  if split then 6144 + i % 64 else 1024 + 32 * (Config.dealtGroup (seed * 2 ^ 32 + i)).val + c % 32

/-- Where the merge buffer holds column `c` of row `i` of Y: the slice of the lane group to which the row was dealt, or of its merge lane.
[DEDUCED, log entry 160] -/
def spmmPlace (seed : Nat) (split : Bool) (i c : Nat) : Nat :=
  mergeWord (if split then i else (Config.dealtGroup (seed * 2 ^ 32 + i)).val) c

/-- One tile row of an SPMM (R139 to R141). -/
def spmmPart (op : DrvOp) (open_ : Bool) (t1 : Nat) (s : State) : State :=
  let a := opDesc s op.a
  let b := opDesc s op.b
  let d := opDesc s op.d
  let cb := op.chan b op.b
  let n := b.d0.size
  let place := fun t k => ({ t0 := t, t1 := k / 32, i2 := 0, i3 := 0, i4 := 0, i5 := 0 } : Desc.Pos)
  let r := keptRow op.func a (op.chan a op.a) (a.tileRow t1) s
  let rowKept := fun e1 => (r.1.filter (fun x => x.1 == e1)).map (·.2)
  let cols := r.1.map (fun x => x.2.1)
  let x := cols.foldl (fun r k => sliceLookups op b cb 1 k ((List.range b.t0).map (fun t => place t 0)) r) ([], r.2)
  let s := x.2
  let ts := ({ tiles := [], sectors := x.1 } : Fetched).at b (cols.flatMap (fun k => (List.range b.t0).map (fun t => place t k)))
  let bval := fun k c => tileElem ts (place (c / 32) k, k % 32 * 32 + c % 32)
  let f := s.fresh
  let isSplit := fun e1 => decide ((rowKept e1).length > 256)
  let split := (List.range 32).filter isSplit
  let s := (f.2.count DRV_SPLIT_ROW_CNT split.length).count DRV_SPLIT_CHUNK_CNT
    (split.foldl (fun m e1 => m + ceilDiv (rowKept e1).length 256) 0)
  let rows := (List.range (min 32 (a.d1.size - 32 * t1))).map (fun e1 => spmmRow (f.1 * 32 + e1) n (rowKept e1) bval)
  let met := rows.foldl (fun m row => row.foldl (fun m x => m.plus x.2) m) .none
  let came := r.1.flatMap (fun k => k.2.2 :: (List.range n).map (bval k.2.1))
  let y := readRows32 (fun e1 c => spmmPlace f.1 (isSplit e1) (32 * t1 + e1) c) (rows.map (·.map (·.1))) 0 ((s.addEvents regionDRV met).enter came)
  ((d.tileRow t1).filter d.has).foldl (fun s p =>
    drvDeliver s op d op.d (d.numOf p) (fun e => spmmLane f.1 (isSplit (e / 32)) (32 * t1 + e / 32) (32 * p.t0 + e % 32))
      ((List.range 1024).map (fun e => (y.1.getD (e / 32) []).getD (32 * p.t0 + e % 32) .zero)) open_ (fun _ _ => true)) y.2

end Sys2Proof.Machine
end

