-- ==== Sys2Proof/Machine/Update.lean ====
section
/-!
DEFINITION. Machine/Update.lean: the update of Split32 weights, UPD_SGDM and UPD_2MOM (12 R358 to R373).
-/

namespace Sys2Proof.Machine

open Reg

/-- The scalars of an update at its start (Table 12.2, R367), as values, and what the adder that forms some of them met (R73). -/
structure UpdScalars where
  eta : Val
  beta1 : Val
  beta2 : Val
  eps : Val
  lam : Val
  sigma : Val
  c1 : Val
  c2 : Val
  a1 : Val
  a2 : Val
  events : NumEvents
  deriving DecidableEq, Repr

def updScalars (ws : List Nat) : UpdScalars :=
  let v := fun i => val32 (ws.getD i 0)
  let less := fun x => adder32 (Val.sub .one x)
  { eta := v 0, beta1 := v 1, beta2 := v 2, eps := v 3, lam := v 4, sigma := v 5
    c1 := rcp (less (v 6)).1, c2 := rcp (less (v 7)).1, a1 := (less (v 1)).1, a2 := (less (v 2)).1
    events := NumEvents.ofCats [(less (v 6)).2, (less (v 7)).2, (less (v 1)).2, (less (v 2)).2] }

/-- The new master value and moment of an element by UPD_SGDM (R366), and what its adders met. -/
def sgdm (u : UpdScalars) (nesterov : Bool) (w g m : Val) : Val × Val × NumEvents :=
  let g := fma32 u.lam w g
  let m := fma32 u.beta1 m g.1
  let d := if nesterov then fma32 u.beta1 m.1 g.1 else (m.1, .plain)
  let x := fma32 u.eta.neg d.1 w
  (x.1, m.1, NumEvents.ofCats [g.2, m.2, d.2, x.2])

/-- The same by UPD_2MOM (R367): master, first moment, second moment. -/
def twoMoment (u : UpdScalars) (decoupled : Bool) (w g m v : Val) : Val × Val × Val × NumEvents :=
  let g := if decoupled then (g, .plain) else fma32 u.lam w g
  let m := fma32 u.a1 g.1 (mul32 u.beta1 m)
  let v := fma32 u.a2 (mul32 g.1 g.1) (mul32 u.beta2 v)
  let q := adder32 (Val.add (special 0x12 (mul32 v.1 u.c2)) u.eps)
  let x := mul32 (mul32 m.1 u.c1) (rcp q.1)
  let y := if decoupled then fma32 u.lam w x else (x, .plain)
  let z := fma32 u.eta.neg y.1 w
  (z.1, m.1, v.1, NumEvents.ofCats [g.2, m.2, v.2, q.2, y.2, z.2])

/-- What becomes of one element (R364). -/
inductive UpdKind where
  | masked | skipped | bad | written
  deriving DecidableEq, Repr

/-- One element after an update: what became of it, its halves, its moments, its master value, and what its adders met. -/
structure UpdElem where
  kind : UpdKind
  hi : Nat
  lo : Nat
  m : Nat
  v : Nat
  master : Val
  events : NumEvents
  deriving DecidableEq, Repr

/-- split (R57, R368): the pattern of a master value, a NaN in its one form. -/
def splitBits (w : Val) : Nat := if w.isNan then 0x7FC00000 else bits32 w

/-- One element updated: its halves, gradient, moments, mask and contributor count as read. [DEDUCED, log entry 78] -/
def updElem (op : DrvOp) (u : UpdScalars) (hi lo : Nat) (grad : Val) (m v : Nat) (mask : Val) (count : Nat) : UpdElem :=
  let w := val32 (hi * 2 ^ 16 + lo)
  let keep := fun k => ({ kind := k, hi := hi, lo := lo, m := m, v := v, master := w, events := .none } : UpdElem)
  if bit op.mode 0 ∧ mask.isZero then { kind := .masked, hi := 0, lo := 0, m := 0, v := 0, master := .zero, events := .none }
  else
    let n := if op.rowout then count else 1
    if n = 0 then keep .skipped
    else
      let g := mul32 (round32 grad) (mul32 u.sigma (rcp (Val.ofNat n)))
      if !g.isFin then keep .bad
      else
        let r := if op.func = 0x38 then
            (let x := sgdm u (bit op.mode 1) w g (val32 m); (x.1, x.2.1, val32 v, x.2.2))
          else twoMoment u (bit op.mode 1) w g (val32 m) (val32 v)
        let b := splitBits r.1
        { kind := .written, hi := b / 2 ^ 16, lo := b % 2 ^ 16, m := bits32 r.2.1, v := bits32 r.2.2.1, master := r.1, events := r.2.2.2 }

/-- The raw elements of a tile of an operand. -/
def updRead (s : State) (op : DrvOp) (n : Nat) (p : Desc.Pos) : List Nat × State :=
  let d := opDesc s n
  let r := readTile s d (op.chan d n) p
  ((List.range 1024).map (elemBitsOf d.format r.1), r.2)

/-- A tensor's tile written with raw elements where an update writes them. -/
def updWrite (s : State) (op : DrvOp) (n k : Nat) (elems : List Nat) (inside : Nat → Bool) : State :=
  let d := opDesc s n
  let v := survives s d k (fun _ e => inside e)
  writeTile v.2 d (op.outChan d n) (d.posOf k) { elems := elems, scales := [], conv := v.2.conv regionDRV }
    (fun e => inside e && v.1 e)

/-- The COUNTs of a gradient tile's sixteen result-info entries (R346, R364). -/
def infoCounts (s : State) (d : Desc) (k : Nat) : Nat → List Nat × State
  | 0 => ([], s)
  | n + 1 =>
    let q := infoCounts s d k n
    let r := tagWord q.2 d.auxTag (Int.ofNat (d.auxOffset * 4096 + 8 * d.tiles + 4 * (16 * k + n))) 4
    (q.1 ++ [bits r.1 0 16], r.2)

/-- One tile of an update: every element is read in all its operands before it is written (R362 to R369). [DEDUCED, log entry 78] -/
def updTile (op : DrvOp) (k : Nat) (s : State) : State :=
  let two := op.func == 0x39
  let u := updScalars op.scalars
  let da := opDesc s op.a
  let db := opDesc s op.b
  let p := da.posOf k
  let hi := updRead s op op.a p
  let lo := updRead hi.2 op (op.a + 1) p
  let g := updRead lo.2 op op.b p
  let m := updRead g.2 op op.c p
  let v := if two then updRead m.2 op (op.c + 1) p else ([], m.2)
  let mask := if bit op.mode 0 then updRead v.2 op op.d p else ([], v.2)
  let cnt := if op.rowout then infoCounts mask.2 db k 16 else ([], mask.2)
  let s := cnt.2
  let at_ := fun (l : List Nat) e => l.getD e 0
  let out := (List.range 1024).map (fun e =>
    updElem op u (at_ hi.1 e) (at_ lo.1 e) (db.format.decode 0 (at_ g.1 e)) (at_ m.1 e) (at_ v.1 e)
      ((opDesc s op.d).format.decode 0 (at_ mask.1 e)) (at_ cnt.1 (e / 64)))
  let inside := da.inSize p
  let es := ((List.range 1024).filter inside).filterMap (fun e => out[e]?)
  let n := fun k => (es.filter (fun x => x.kind == k)).length
  let s := (((s.count DRV_UPD_ELEM_CNT (n .written + n .masked)).count DRV_UPD_SKIP_CNT (n .skipped)).count
    DRV_UPD_BADGRAD_CNT (n .bad)).count DRV_UPD_MASKED_CNT (n .masked)
  let wrote := fun e => inside e && (match out[e]? with
    | some x => x.kind == .written || x.kind == .masked
    | none => false)
  let s := updWrite s op op.a k (out.map (·.hi)) wrote
  let s := updWrite s op (op.a + 1) k (out.map (·.lo)) wrote
  let s := updWrite s op op.c k (out.map (·.m)) wrote
  let s := if two then updWrite s op (op.c + 1) k (out.map (·.v)) wrote else s
  let cat := fun (v : Val) => match v with
    | .nan => NumCat.nan
    | .inf _ => NumCat.infinite
    | .fin .. => NumCat.plain
  let events := fun (xs : List UpdElem) => xs.foldl (fun n x => n.note (cat x.master)) NumEvents.none
  let s := (s.addEvents regionDRV (es.foldl (fun n x => n.plus x.events) (if two ∧ k = 0 then u.events else .none))).enter
    (((List.range 1024).filter inside).map (fun e => db.format.decode 0 (at_ g.1 e)))
  writeTally s da k (Tally.ofTile .bf16 { rmode := .zero, sat := false } (op.staleTile s da k) (es.map (·.master)) (events es))

end Sys2Proof.Machine
end

