-- ==== Sys2Proof/Machine/Route.lean ====
section
/-!
DEFINITION. Machine/Route.lean: the routing unit: selection, dispatch, return and combination, and the receipt of routed
rows and closes (05 R151 to R166).
-/

namespace Sys2Proof.Machine

open Reg

/-! Rows. -/

/-- The int32 words of row `r` of a tensor, from its tiles as they were read. -/
def rowWords (d : Desc) (m : FMap (List Val)) (r : Nat) : List Nat :=
  (tilesRow d m r).map (fun v => (encodeInt32 { rmode := .nearest, sat := true } 0 v).1)

/-- The bytes of a row of a format in the order in which it travels: its elements; for an MX format those of each tile it crosses, whole, and
then the scale byte of each. [DESIGN CHOICE, log entry 51] -/
def rowBytes (f : Fmt) (blocks : List (List Nat)) (scales : List Nat) : List Byte :=
  blocks.flatMap (fun ws => toBytes (ws.length * f.elemBits / 8) (packBits f.elemBits ws)) ++ scales.map (fun x => BitVec.ofNat 8 x)

/-- A list in chunks of 32. -/
def chunks32 {α : Type} (n : Nat) (xs : List α) : List (List α) := (List.range n).map (fun t => (xs.drop (32 * t)).take 32)

/-- The MX blocks of a row converted one after another. -/
def rowBlocks (f : Fmt) (c : Cvt) : Conv → List (List (Nat × Val)) → List (List Nat) × List Nat × Conv
  | k, [] => ([], [], k)
  | k, b :: bs =>
    let r := k.mxBlock f c b
    let q := rowBlocks f c r.2.2 bs
    ((r.2.1 ++ List.replicate (32 - r.2.1.length) 0) :: q.1, r.1 :: q.2.1, q.2.2)

/-- A row converted into its format under the operation's CVT field (R58, R151), and its events and draws. [DESIGN CHOICE, log entry 51] -/
def rowBody (s : State) (op : DrvOp) (f : Fmt) (vals : List Val) : List Byte × State :=
  let cv := s.cvt regionDRV op.cvt
  let on := vals.zipIdx.map (fun v => (1024 + v.2 % 2048, v.1))
  let n := ceilDiv vals.length 32
  if f.isMx then
    let r := rowBlocks f cv (s.conv regionDRV) (chunks32 n on)
    (rowBytes f r.1 r.2.1, s.commitConv regionDRV r.2.2)
  else
    let r := (s.conv regionDRV).elems f cv on
    (rowBytes f (chunks32 n r.1) [], s.commitConv regionDRV r.2)

/-- The bytes of a row of an area: of its elements, and how many in all. -/
def Desc.rowElems (d : Desc) : Nat := if d.format.isMx then d.t0 * (4 * d.format.elemBits) else d.d0.size * d.format.elemBits / 8
def Desc.rowLength (d : Desc) : Nat := d.rowElems + (if d.format.isMx then d.t0 else 0)

/-- The descriptor that lays out a receive or return area: the lowest-numbered one in the store that names the tag as an
operand of the panels or the drover, in L1 or L2, with blocks along its rows if it is of an MX format. [DESIGN CHOICE, log entry 51] -/
def areaDesc (s : State) (tag : Nat) : Option Desc :=
  (s.descs.map (fun p => Desc.ofWords p.2)).find? (fun d =>
    d.tag == tag && (d.cls == 0 || d.cls == 3) && (d.layout == 1 || d.layout == 2) && !d.trans && !(d.format.isMx && d.sax))

/-- Bytes written into a row of an area from byte `off` of the row on; what lies beyond the row is dropped. -/
def writeRowBytes (s : State) (d : Desc) (row off : Nat) (bs : List Byte) : State :=
  let seg := 4 * d.format.elemBits
  let bs := bs.take (d.rowLength - off)
  let c := rawChan s d.tag
  let put := fun (s : State) (t lo hi at_ : Nat) =>
    let a := max off lo
    let b := min (off + bs.length) hi
    if a < b then
      tagWrite s c (d.tileOff { t0 := t, t1 := row / 32, i2 := 0, i3 := 0, i4 := 0, i5 := 0 } + Int.ofNat (at_ + (a - lo)))
        ((bs.drop (a - off)).take (b - a))
    else s
  let s := (List.range d.t0).foldl (fun s t => put s t (seg * t) (min d.rowElems (seg * (t + 1))) (row % 32 * seg)) s
  if d.format.isMx then
    (List.range d.t0).foldl (fun s t => put s t (d.rowElems + t) (d.rowElems + t + 1) (32 * seg + row % 32)) s
  else s

/-! Receipt (R158, R159, R163). -/

/-- A return-table entry (Table 5.6). [DESIGN CHOICE, log entry 50] -/
def returnEntry (src tag choice : Nat) (valid : Bool) (token : Nat) : Nat :=
  src % 2 ^ 16 + (tag % 2 ^ 12) * 2 ^ 16 + (choice % 8) * 2 ^ 28 + b2n valid * 2 ^ 31 + (token % 2 ^ 32) * 2 ^ 32

/-- A part of a routed row arrives: written into its row, and, for part 0 of a row that is not returned, its return-table
entry. A row of length 0 is one that its source left unused: +0, and not valid. [DEDUCED, log entry 52] -/
def acceptRow (s : State) (src tag row part : Nat) (data : List Byte) : State :=
  s.within 3 fun s =>
    match areaDesc s tag with
    | none => if part = 0 then s.count DRV_ROUTE_RX_OOR_CNT 1 else s
    | some d =>
      if row ≥ d.d1.size then (if part = 0 then s.count DRV_ROUTE_RX_OOR_CNT 1 else s)
      else if part ≠ 0 then writeRowBytes s d row (16 * part) data
      else
        let h := ofBytes (data.take 16)
        let used := bits h 64 32 != 0
        let s := writeRowBytes s d row 0 (if used then data.drop 16 else List.replicate d.rowLength 0)
        if bit h 47 then s
        else
          tagWrite s (rawChan s (Config.returnTag (BitVec.ofNat 12 tag)).toNat) (Int.ofNat (8 * row))
            (toBytes 8 (returnEntry src (bits h 32 12) (bits h 44 3) used (bits h 0 32)))

/-- A close message counts one close on the receive area's slot, slot 0 (R159, R209). [DEDUCED, log entry 52] -/
def acceptClose (s : State) (tag : Nat) : State :=
  if (tagEntry s tag).slots = 0 then s else s.within 3 fun s => closeSlot s 5 tag 0

/-! Sending. -/

/-- The header of part 0 of a routed row (Table 10.6). -/
def rowHeader (token ret choice : Nat) (isReturn : Bool) (len : Nat) : List Byte :=
  toBytes 16 (token % 2 ^ 32 + (ret % 2 ^ 12) * 2 ^ 32 + (choice % 8) * 2 ^ 44 + b2n isReturn * 2 ^ 47
    + (len % 2 ^ 32) * 2 ^ 64)

/-- The parts of a row after part 0, each up to 4,096 bytes, from byte `off` of the row on. -/
def rowParts : Nat → Nat → List Byte → List (Nat × List Byte)
  | 0, _, _ => []
  | n + 1, off, bs => if bs = [] then [] else (off / 16, bs.take 4096) :: rowParts n (off + 4096) (bs.drop 4096)

/-- A row sent to a row of an area on a module, which may be this one. -/
def sendRow (s : State) (dest tag row : Nat) (header body : List Byte) : State :=
  let parts := (0, header ++ body.take 4080) :: rowParts (body.length / 4096 + 1) 4080 (body.drop 4080)
  let n := parts.length
  parts.zipIdx.foldl (fun s x =>
    if dest = s.lnk.ownId then acceptRow s dest tag row x.1.1 x.1.2
    else sendFor s 7 (Packet.make dest s.lnk.ownId 8 false (x.2 + 1 == n)
      (tag % 2 ^ 12 + (row % 2 ^ 28) * 2 ^ 12 + (x.1.1 % 2 ^ 24) * 2 ^ 40) x.1.2) (.rows dest)) s

/-- A close message for an area on a module, sent once every row sent to that module has been accepted (R159). -/
def sendClose (s : State) (dest tag : Nat) : State :=
  if dest = s.lnk.ownId then acceptClose s tag else afterSent s (.rows dest) (.close dest tag)

/-! Selection (R154, R155). -/

/-- The expert that ranks next: the highest score above −infinity among those not yet chosen, the lowest number of equals. -/
def nextChoice (scores : List Val) (taken : List Nat) : Option Nat :=
  (scores.zipIdx.foldl (fun best x =>
    if taken.contains x.2 ∨ x.1 = .inf true then best
    else match best with
      | none => some x
      | some b => if Val.lt b.1 x.1 then some x else best) none).map (·.2)

def choices (scores : List Val) : Nat → List Nat → List Nat
  | 0, _ => []
  | k + 1, taken =>
    match nextChoice scores taken with
    | none => []
    | some e => e :: choices scores k (e :: taken)

/-- Sums of gates in the adder of the lanes, and what it met. -/
def gateSum (start : Val) (vs : List Val) : Val × NumEvents := vs.foldl accumulate (start, .none)

/-- The gates of a choice list (Table 5.3), and what the adders met (R73). -/
def gates (mode : Nat) (scores : List Val) (chosen : List Nat) : List Val × NumEvents :=
  let at_ := fun e => scores.getD e .zero
  let m := scores.foldl Val.max (.inf true)
  if mode = 2 then
    let ds := addEach (chosen.map (fun e => Val.add .one (expOf (at_ e).neg)))
    (ds.1.map rcp, ds.2)
  else
    let ds := addEach ((if mode = 0 then scores else chosen.map at_).map (fun v => Val.sub v m))
    let sum := gateSum .zero (ds.1.map expOf)
    let r := rcp sum.1
    (chosen.map (fun e => mul32 (expOf (round32 (Val.sub (at_ e) m))) r), ds.2.plus sum.2)

/-- An entry of a token's choice list: expert and gate. -/
structure Choice where
  expert : Nat
  gate : Val
  deriving DecidableEq, Repr

/-- The choice list of a token, and what its adders met: none where its scores hold a NaN or +infinity. -/
def decideToken (op : DrvOp) (scores : List Val) : Option (List Choice × NumEvents) :=
  if scores.any (fun v => v.isNan || v == .inf false) then none
  else
    let es := choices scores op.k []
    let g := gates op.gate scores es
    some ((es.zip g.1).map (fun p => { expert := p.1, gate := p.2 }), g.2)

/-- The entry of an expert table as an operation uses it (Table 5.4, R165). -/
def Expert.ofWord (w : Nat) : Expert :=
  { modul := bits w 0 16, tag := bits w 16 12, first := bits w 28 16, quota := bits w 44 16
    valid := bit w 63 && bits w 0 16 != 0xFFFF }

/-- An expert that no table gives. -/
def Expert.missing : Expert := { modul := 0xFFFF, tag := 0, first := 0, quota := 0, valid := false }

/-- Entry `n` of the expert table: consecutive entries from the start of its descriptor's tensor. -/
def readExpert (s : State) (c : Chan) (d : Desc) (n : Nat) : Expert × State :=
  let r := tagRead s c (Int.ofNat (d.offset * 4096 + 8 * n)) 8
  (Expert.ofWord (ofBytes r.1), r.2)

/-- The first `n` entries of the expert table; `alloc` replaces FIRST and QUOTA by the host's allocation, 4 bytes an entry. -/
def readExperts (s : State) (c : Chan) (d : Desc) (alloc : Option Nat) : Nat → List Expert × State
  | 0 => ([], s)
  | n + 1 =>
    let q := readExperts s c d alloc n
    let r := readExpert q.2 c d n
    match alloc with
    | none => (q.1 ++ [r.1], r.2)
    | some t =>
      let a := tagWord r.2 t (Int.ofNat (4 * n)) 4
      (q.1 ++ [{ r.1 with first := bits a.1 0 16, quota := bits a.1 16 16 }], a.2)

/-- An entry of a routing record (Table 5.5). -/
def recordEntry (gate expert row : Nat) (dropped kept : Bool) : Nat :=
  gate % 2 ^ 32 + (expert % 2 ^ 12) * 2 ^ 32 + (row % 2 ^ 16) * 2 ^ 44 + b2n dropped * 2 ^ 60 + b2n kept * 2 ^ 63

/-- A choice with the row it was given, if any. -/
structure Placed where
  choice : Choice
  row : Option Nat
  deriving DecidableEq, Repr

/-- A choice placed, and what it sends: the row converted for its expert (R157). -/
def placeChoice (op : DrvOp) (ret token : Nat) (vals : List Val) (c : Choice) (i : Nat) (u : FMap Nat) (s : State) :
    Placed × FMap Nat × State :=
  let x := op.experts.getD c.expert Expert.missing
  let n := (FMap.find u c.expert).getD 0
  if !x.valid then
    ({ choice := c, row := none }, u,
     (s.count DRV_ROUTE_BADEXP_CNT 1).logOnce 35 { region := regionDRV, event := 32 + 3, level := 1, action := 2 })
  else if n < x.quota then
    let b := rowBody s op (opDesc s op.b).format vals
    ({ choice := c, row := some (x.first + n) }, FMap.put u c.expert (n + 1),
     (sendRow b.2 x.modul x.tag (x.first + n) (rowHeader token ret i false b.1.length) b.1).count DRV_ROUTE_SENT_CNT 1)
  else ({ choice := c, row := none }, u, s.count DRV_ROUTE_DROP_CNT 1)

/-- The choices of a token tried in rank order (R157): rows taken, rows sent, and choices dropped and counted. -/
def placeChoices (op : DrvOp) (ret token : Nat) (vals : List Val) :
    List (Choice × Nat) → FMap Nat → State → List Placed × FMap Nat × State
  | [], u, s => ([], u, s)
  | (c, i) :: rest, u, s =>
    let q := placeChoice op ret token vals c i u s
    let r := placeChoices op ret token vals rest q.2.1 q.2.2
    (q.1 :: r.1, r.2)

/-- The words of a token's record (R160, R161): its entries, then zeros; and what the adder met. -/
def recordWords (renorm : Bool) (ps : List Placed) : List Nat × NumEvents :=
  let kept := (ps.filter (fun p => p.row.isSome)).map (fun p => p.choice.gate)
  let sum := match kept with
    | [] => (Val.zero, NumEvents.none)
    | g :: gs => gateSum g gs
  let words := ps.flatMap (fun p =>
    let g := if renorm ∧ p.row.isSome then div32 p.choice.gate sum.1 else p.choice.gate
    let w := recordEntry (bits32 g) p.choice.expert (p.row.getD 0) p.row.isNone p.row.isSome
    [w % 2 ^ 32, w / 2 ^ 32])
  (words ++ List.replicate (16 - words.length) 0, if renorm then sum.2 else .none)

/-- The return area that goes with a record tensor. [DESIGN CHOICE, log entry 50] -/
def returnOf (d : Desc) : Nat := (Config.returnArea (BitVec.ofNat 12 d.tag)).toNat

/-- A NaN-free token's choices placed and counted; its record. `scores` and `rows` are the tiles read of the two operands.
[DESIGN CHOICE, log entry 178] -/
def routeToken (op : DrvOp) (scores rows : FMap (List Val)) (r : List (List Nat) × FMap Nat × State) (t : Nat) :
    List (List Nat) × FMap Nat × State :=
  let s := r.2.2.count DRV_ROUTE_TOKEN_CNT 1
  let a := opDesc s op.a
  let b := opDesc s op.b
  match decideToken op (tilesRow a scores t) with
  | none => (r.1 ++ [List.replicate 16 0], r.2.1, s.count DRV_ROUTE_NAN_CNT 1)
  | some cs =>
    let q := placeChoices op (returnOf (opDesc s op.d)) t (tilesRow b rows t) cs.1.zipIdx r.2.1 (s.addEvents regionDRV cs.2)
    let skip := q.1 != [] && q.1.all (fun p => p.row.isNone)
    let w := recordWords (s.held DRV_ROUTE_CFG.RENORM == 1) q.1
    let s := q.2.2.addEvents regionDRV w.2
    (r.1 ++ [w.1], q.2.1, if skip then s.count DRV_ROUTE_SKIP_CNT 1 else s)

/-- The rows of its quota that a source left unused at every expert that has one for it, and its closes (R159). [DEDUCED, log entry 49] -/
def closeExperts (ret : Nat) (u : FMap Nat) (xs : List Expert) (s : State) : State :=
  xs.zipIdx.foldl (fun s x =>
    if x.1.modul = 0xFFFF ∨ x.1.quota = 0 then s
    else
      let n := (FMap.find u x.2).getD 0
      let s := (List.range (x.1.quota - n)).foldl (fun s i =>
        sendRow s x.1.modul x.1.tag (x.1.first + n + i) (rowHeader 0 ret 0 false 0) []) s
      sendClose s x.1.modul x.1.tag) s

/-- Int32 words of the rows of tile row `u` delivered through an int32 descriptor (R160). -/
def deliverWords (op : DrvOp) (rows : List (List Nat)) (open_ : Bool) (u : Nat) (s : State) : State :=
  let d := opDesc s op.d
  ((d.tileRow u).filter d.has).foldl (fun s p =>
    drvDeliver s op d op.d (d.numOf p) (vecLane (d.numOf p))
      ((List.range 1024).map (fun e => Val.ofInt (signed 32 ((rows.getD (e / 32) []).getD (32 * p.t0 + e % 32) 0)))) open_
      (fun _ e => decide (e / 32 < rows.length))) s

/-- The tokens of tile row `u` of a tensor of tokens. -/
def tokensOf (d : Desc) (u : Nat) : List Nat := ((List.range 32).map (32 * u + ·)).filter (fun t => decide (t < d.d1.size))

/-- A part of a SELECT_SEND: a tile row of 32 tokens, decided and dispatched in order; after the last, the closes (R153 to R162, R165). -/
def selectPart (op : DrvOp) (open_ : Bool) (u : Nat) (s : State) : State :=
  let a := opDesc s op.a
  let b := opDesc s op.b
  let c := opDesc s op.c
  if u < a.t1 then
    let alloc := if s.drv.alloc = some true then (allocTags s).map (·.2) else none
    let y := if s.drv.posted.isSome then (op.got.tiles, s) else readTiles op.func a (op.chan a op.a) (a.tileRow u) s
    let x := if u = 0 then readExperts y.2 (op.chan c op.c) c alloc a.d0.size else (op.experts, y.2)
    let op := { op with experts := x.1 }
    let z := readTiles op.func b (op.chan b op.b) (b.tileRow u) x.2
    let r := (tokensOf a u).foldl (routeToken op y.1 z.1) ([], op.used, z.2)
    deliverWords op r.1 open_ u (setRun r.2.2 { op with used := r.2.1 })
  else closeExperts (returnOf (opDesc s op.d)) op.used op.experts s

/-! The other sub-operations. -/

/-- Entry `c` of a record. -/
def entryOf (rec : List Nat) (c : Nat) : Nat := rec.getD (2 * c) 0 + rec.getD (2 * c + 1) 0 * 2 ^ 32

/-- The expert of a kept entry, from the table that goes with the record tensor (R156, R164). [DESIGN CHOICE, log entry 50] -/
def entryExpert (s : State) (recs : Desc) (w : Nat) : Expert × State :=
  let n := (Config.expertTable (BitVec.ofNat 12 recs.tag)).toNat
  match namedDesc s n with
  | none => (Expert.missing, s)
  | some d => readExpert s (d.chan .normal (s.chanNo (4 * 4096 + n))) d (bits w 32 12)

/-- A kept entry of token `t`: its row, scaled by the gate when SCALE is set, to the row that the record names. -/
def resendEntry (op : DrvOp) (t : Nat) (vals : List Val) (s : State) (x : Nat × Nat) : State :=
  let a := opDesc s op.a
  let e := entryExpert s a x.1
  let g := val32 (bits x.1 0 32)
  let b := rowBody e.2 op (opDesc s op.b).format (if op.scale then vals.map (fun v => mul32 (round32 v) g) else vals)
  if e.1.modul = 0xFFFF then e.2
  else sendRow b.2 e.1.modul e.1.tag (bits x.1 44 16) (rowHeader t (returnOf a) x.2 false b.1.length) b.1

/-- The kept entries of a record, with their places. -/
def keptEntries (rec : List Nat) : List (Nat × Nat) :=
  ((List.range 8).map (fun i => (entryOf rec i, i))).filter (fun x => bit x.1 63)

/-- A part of a RESEND: the kept entries of a tile row of 32 tokens (R164). -/
def resendPart (op : DrvOp) (u : Nat) (s : State) : State :=
  let a := opDesc s op.a
  let b := opDesc s op.b
  let x := readTiles op.func a (op.chan a op.a) (a.tileRow u) s
  let y := readTiles op.func b (op.chan b op.b) (b.tileRow u) x.2
  (tokensOf a u).foldl (fun s t =>
    let vals := tilesRow b y.1 t
    let kept := keptEntries (rowWords a x.1 t)
    kept.foldl (resendEntry op t vals) (if op.scale ∧ kept ≠ [] then s.enter vals else s)) y.2

/-- Row `j` of the expert output, if its return entry is valid, to its source's return area; the area is closed after the last row. -/
def returnRow (op : DrvOp) (rows : FMap (List Val)) (s : State) (j : Nat) : State :=
  let a := opDesc s op.a
  let b := opDesc s op.b
  let e := tagRead s (op.chan b op.b) (Int.ofNat (b.offset * 4096 + 8 * j)) 8
  let w := ofBytes e.1
  let s := match e.2.drv.run with
    | some o => setRun e.2 { o with used := FMap.put o.used (bits w 0 28) 1 }
    | none => e.2
  if bit w 31 then
    let r := rowBody s op a.format (tilesRow a rows j)
    sendRow r.2 (bits w 0 16) (bits w 16 12) (bits w 32 32 * op.k + bits w 28 3)
      (rowHeader (bits w 32 32) 0 (bits w 28 3) true r.1.length) r.1
  else s

/-- A part of a RETURN: the rows of a tile row; after the last, a close to each source (R164). [DESIGN CHOICE, log entry 50] -/
def returnPart (op : DrvOp) (u : Nat) (s : State) : State :=
  let a := opDesc s op.a
  if u < a.t1 then
    let x := readTiles op.func a (op.chan a op.a) (a.tileRow u) s
    (tokensOf a u).foldl (returnRow op x.1) x.2
  else op.used.foldl (fun s x => sendClose s (bits x.1 0 16) (bits x.1 16 12)) s

/-- A part of a COMBINE: a tile of Y, the residual plus the gated sum of the kept entries' returned rows (R164). -/
def combinePart (op : DrvOp) (open_ : Bool) (k : Nat) (s : State) : State :=
  let a := opDesc s op.a
  let b := opDesc s op.b
  let c := opDesc s op.c
  let d := opDesc s op.d
  let p := d.posOf k
  let z := readTiles op.func a (op.chan a op.a) (a.tileRow p.t1) s
  let kept := (List.range 32).map (fun e1 => (keptEntries (rowWords a z.1 (32 * p.t1 + e1))).map (fun x =>
    ((32 * p.t1 + e1) * op.k + x.2, val32 (bits x.1 0 32))))
  let place := fun r => ({ t0 := p.t0, t1 := r / 32, i2 := 0, i3 := 0, i4 := 0, i5 := 0 } : Desc.Pos)
  let ps := (kept.flatMap (fun ks => ks.map (fun x => place x.1))).eraseDups
  let y := readTiles op.func b (op.chan b op.b) ps z.2
  let x := readSrc y.2 op.func c (op.chan c op.c) { p with i2 := 0, i3 := 0, i4 := 0, i5 := 0 }
  let ts := ({ tiles := y.1, sectors := [] } : Fetched).tilesAt b ps
  let outs := (List.range 1024).map (fun e =>
    match kept.getD (e / 32) [] with
    | [] => (x.1.getD e .zero, NumEvents.none)
    | ks => ks.foldl (fun acc (y : Nat × Val) => accumulate acc (Val.mul y.2 (round32 (tileElem ts (place y.1, y.1 % 32 * 32 + e % 32)))))
        (round32 (x.1.getD e .zero), .none))
  let inside := d.inSize p
  let met := outs.zipIdx.foldl (fun n o => if inside o.2 then n.plus o.1.2 else n) .none
  let came := ((List.range 1024).filter inside).flatMap (fun e => match kept.getD (e / 32) [] with
    | [] => []
    | ks => x.1.getD e .zero :: ks.map (fun y => tileElem ts (place y.1, y.1 % 32 * 32 + e % 32)))
  drvDeliver ((x.2.addEvents regionDRV met).enter came) op d op.d k (vecLane k) (outs.map (·.1)) open_ (fun _ _ => true)

/-! Host-allocated capacity (R165, R166). -/

/-- How many choice-list entries name each expert. -/
def demand (op : DrvOp) (a : Desc) (scores : FMap (List Val)) : List Nat :=
  let named := (List.range a.d1.size).flatMap (fun t =>
    ((decideToken op (tilesRow a scores t)).map (fun c => c.1.map (·.expert))).getD [])
  (List.range a.d0.size).map (fun e => (named.filter (· == e)).length)

/-- No allocation came: the fixed quotas serve, counted and logged. [DEDUCED, log entry 49] -/
def allocMissing (s : State) : State :=
  setDrv ((s.count DRV_ROUTE_ALLOC_TIMEOUT_CNT 1).log { region := regionDRV, event := 32 + 7, level := 2, action := 2 })
    { s.drv with alloc := some false }

/-- The demand of a SELECT_SEND posted (R165): its scores read and kept, the table written under the next sequence number. -/
def postDemand (s : State) (op : DrvOp) (tag : Nat) : State :=
  let a := opDesc s op.a
  let seq := (s.get DRV_ROUTE_STATUS.SEQ + 1) % 2 ^ 16
  let s := (s.inOp 2).set DRV_ROUTE_STATUS.SEQ seq
  let x := readTiles op.func a (op.chan a op.a) ((List.range a.tiles).map a.posOf) s
  let s := setRun x.2 { op with got := { tiles := x.1, sectors := [] } }
  let s := tagWrite s (rawChan s tag) 0 ((demand op a x.1).flatMap (fun n => toBytes 8 (n % 2 ^ 32 + seq * 2 ^ 32)))
  setDrv s { s.drv with posted := some s.tick }

/-- A SELECT_SEND under host allocation may act: once every slot of its scores admits it, it posts its demand, or finds that the image names
no tags for it. -/
def routeBegin (s : State) : State :=
  match drvReady s with
  | none => s
  | some op =>
    if !hostAllocates s op ∨ s.drv.posted.isSome ∨ s.drv.alloc.isSome then s
    else match allocTags s with
      | none => allocMissing s
      | some (tag, _) =>
        let a := acquire s op.acq (descUses s (opDesc s op.a) false)
        let op := { op with acq := a.1 }
        if a.1.needs ≠ [] then setRun a.2 op else postDemand a.2 op tag

/-! The meanings. -/

/-- A ROUTE instruction: an operation of its sub-operation, or of a reserved one, which is refused (R151). -/
def runRoute (q : Fin 4) (i : SeqInsn) (s : State) : Issue :=
  match i with
  | .route f => issueDrv routeBegin q (opOfRoute s q f) s
  | _ => .wait s

/-- A ROUTE word that the command of a sub-operation names: it carries it, or a reserved one. -/
def wantsRoute (subop : Nat) (i : SeqInsn) : Bool :=
  match i with
  | .route f => f.subop == subop || decide (f.subop > 3)
  | _ => false

def issueRoute (subop : Nat) (q : Fin 4) (s : State) : State := tryIssue s q .other (wantsRoute subop) (runRoute q)

/-- SELECT_SEND. -/
def execSelectSend (q : Fin 4) (s : State) : Host.Outcome State Fault Refusal := .next (issueRoute 0 q s)

/-- RESEND. -/
def execResend (q : Fin 4) (s : State) : Host.Outcome State Fault Refusal := .next (issueRoute 1 q s)

/-- RETURN. -/
def execReturn (q : Fin 4) (s : State) : Host.Outcome State Fault Refusal := .next (issueRoute 2 q s)

/-- COMBINE. -/
def execCombine (q : Fin 4) (s : State) : Host.Outcome State Fault Refusal := .next (issueRoute 3 q s)

/-- A write of DRV_ROUTE_ALLOC_GO (R165). -/
def allocGo (s : State) (seq : Nat) : State :=
  if s.drv.posted.isSome ∧ s.drv.alloc.isNone ∧ seq % 2 ^ 16 = s.get DRV_ROUTE_STATUS.SEQ then
    noteFall (setDrv s { s.drv with alloc := some true })
  else s.count DRV_ROUTE_ALLOC_STALE_CNT 1

/-- ROUTE_ALLOC_GO. -/
def execRouteAllocGo (seq : BitVec 16) (s : State) : Host.Outcome State Fault Refusal := .next (allocGo s seq.toNat)

/-- ROUTE_ALLOC_TIMEOUT (R165): ALLOC_WAIT ran out. -/
def execRouteAllocTimeout (s : State) : Host.Outcome State Fault Refusal :=
  .next (match s.drv.posted with
    | some t =>
      if s.drv.alloc.isNone ∧ s.tick ≥ t + max 1 (s.held DRV_ROUTE_CFG.ALLOC_WAIT) * 1024 then noteFall (allocMissing s) else s
    | none => s)

end Sys2Proof.Machine
end

