-- ==== Sys2Proof/Machine/DroverOps.lean ====
section
/-!
DEFINITION. Machine/DroverOps.lean: the drover's instructions, one meaning for each function code of Table 4.7, and the
completion of its operations (04 R118).
-/

namespace Sys2Proof.Machine

open Reg

/-- What part `op.part` of an operation does to memory, to its tally records and to its counters. -/
def drvEffect (op : DrvOp) (s : State) : State :=
  let open_ := drvOpen s op
  let u := op.part
  match op.func with
  | 0x00 => s
  | 0x38 | 0x39 => updTile op u s
  | 0x40 => gatherPart op open_ u s
  | 0x41 => scatterPart op open_ u s
  | 0x42 => mergePart op open_ u s
  | 0x43 => spmmPart op open_ u s
  | 0x46 =>
    (match op.subop with
     | 0 => selectPart op open_ u s
     | 1 => resendPart op u s
     | 2 => returnPart op u s
     | _ => combinePart op open_ u s)
  | f => if isRowFn f then rowTile op open_ u s else elemTile op open_ u s

/-- The operation waiting to start starts (R118). -/
def startWaiting (s : State) : State :=
  match s.drv.wait with
  | none => s
  | some op => routeBegin (startDrv (setDrv s { s.drv with wait := none }) op)

/-- The running operation has written its last output: its slots close and drain, it is counted, and the next one starts
(R118, R208). [DEDUCED, log entry 43] -/
def finishDrv (s : State) (op : DrvOp) (cycles : Nat) : State :=
  let s := finishAcq s op.acq
  let s := setDrv s { s.drv with run := none, opTotal := s.drv.opTotal + 1, posted := none, alloc := none }
  startWaiting (noteDone ((s.count DRV_OP_CNT 1).count DRV_BUSY_CNT cycles) op.energy)

/-- A SELECT_SEND that waits for the host's allocation (R165). -/
def awaitsHost (s : State) (op : DrvOp) : Bool := hostAllocates s op && s.drv.alloc.isNone

/-- Close messages of the running operation wait for its rows to be accepted (R159). -/
def closesDue (s : State) : Bool := s.lnk.after.any (fun e => e.2 matches .close ..)

/-- DROVER_OP_COMPLETE: the parts of the running operation, as far as its accesses are admitted, once the dispatch of a SELECT_SEND under
host allocation is decided; after the last part the operation is over. `cycles` are the ACLK cycles it ran. -/
def execDroverOpComplete (cycles : Nat) (s : State) : Host.Outcome State Fault Refusal :=
  .next (match drvReady s with
    | none => s
    | some op =>
      if awaitsHost s op then s
      else
        let t := walkParts drvEffect (drvParts s op) (s.inOp 2)
        match drvReady t with
        | none => t
        | some o => if o.part ≥ drvParts t o ∧ !closesDue t then finishDrv t o cycles else t)

/-- NOP. -/
def execNop (q : Fin 4) (s : State) : Host.Outcome State Fault Refusal := .next (issueFn 0x00 q s)

/-- ADD. -/
def execAdd (q : Fin 4) (s : State) : Host.Outcome State Fault Refusal := .next (issueFn 0x01 q s)

/-- SUB. -/
def execSub (q : Fin 4) (s : State) : Host.Outcome State Fault Refusal := .next (issueFn 0x02 q s)

/-- MUL. -/
def execMul (q : Fin 4) (s : State) : Host.Outcome State Fault Refusal := .next (issueFn 0x03 q s)

/-- FMA. -/
def execFma (q : Fin 4) (s : State) : Host.Outcome State Fault Refusal := .next (issueFn 0x04 q s)

/-- AXPBY. -/
def execAxpby (q : Fin 4) (s : State) : Host.Outcome State Fault Refusal := .next (issueFn 0x05 q s)

/-- MAX. -/
def execMax (q : Fin 4) (s : State) : Host.Outcome State Fault Refusal := .next (issueFn 0x06 q s)

/-- MIN. -/
def execMin (q : Fin 4) (s : State) : Host.Outcome State Fault Refusal := .next (issueFn 0x07 q s)

/-- ABS. -/
def execAbs (q : Fin 4) (s : State) : Host.Outcome State Fault Refusal := .next (issueFn 0x08 q s)

/-- SEL. -/
def execSel (q : Fin 4) (s : State) : Host.Outcome State Fault Refusal := .next (issueFn 0x09 q s)

/-- RELU. -/
def execRelu (q : Fin 4) (s : State) : Host.Outcome State Fault Refusal := .next (issueFn 0x0A q s)

/-- CONVERT. -/
def execConvert (q : Fin 4) (s : State) : Host.Outcome State Fault Refusal := .next (issueFn 0x0B q s)

/-- RCP. -/
def execRcp (q : Fin 4) (s : State) : Host.Outcome State Fault Refusal := .next (issueFn 0x10 q s)

/-- RSQRT. -/
def execRsqrt (q : Fin 4) (s : State) : Host.Outcome State Fault Refusal := .next (issueFn 0x11 q s)

/-- SQRT. -/
def execSqrt (q : Fin 4) (s : State) : Host.Outcome State Fault Refusal := .next (issueFn 0x12 q s)

/-- EXP. -/
def execExp (q : Fin 4) (s : State) : Host.Outcome State Fault Refusal := .next (issueFn 0x13 q s)

/-- LOG. -/
def execLog (q : Fin 4) (s : State) : Host.Outcome State Fault Refusal := .next (issueFn 0x14 q s)

/-- TANH. -/
def execTanh (q : Fin 4) (s : State) : Host.Outcome State Fault Refusal := .next (issueFn 0x15 q s)

/-- SIGMOID. -/
def execSigmoid (q : Fin 4) (s : State) : Host.Outcome State Fault Refusal := .next (issueFn 0x16 q s)

/-- GELU. -/
def execGelu (q : Fin 4) (s : State) : Host.Outcome State Fault Refusal := .next (issueFn 0x17 q s)

/-- SILU. -/
def execSilu (q : Fin 4) (s : State) : Host.Outcome State Fault Refusal := .next (issueFn 0x18 q s)

/-- ROWSUM. -/
def execRowsum (q : Fin 4) (s : State) : Host.Outcome State Fault Refusal := .next (issueFn 0x20 q s)

/-- ROWMAX. -/
def execRowmax (q : Fin 4) (s : State) : Host.Outcome State Fault Refusal := .next (issueFn 0x21 q s)

/-- ROWSUMSQ. -/
def execRowsumsq (q : Fin 4) (s : State) : Host.Outcome State Fault Refusal := .next (issueFn 0x22 q s)

/-- SOFTMAX. -/
def execSoftmax (q : Fin 4) (s : State) : Host.Outcome State Fault Refusal := .next (issueFn 0x28 q s)

/-- LAYERNORM. -/
def execLayernorm (q : Fin 4) (s : State) : Host.Outcome State Fault Refusal := .next (issueFn 0x29 q s)

/-- RMSNORM. -/
def execRmsnorm (q : Fin 4) (s : State) : Host.Outcome State Fault Refusal := .next (issueFn 0x2A q s)

/-- UPD_SGDM. -/
def execUpdSgdm (q : Fin 4) (s : State) : Host.Outcome State Fault Refusal := .next (issueFn 0x38 q s)

/-- UPD_2MOM. -/
def execUpd2mom (q : Fin 4) (s : State) : Host.Outcome State Fault Refusal := .next (issueFn 0x39 q s)

/-- GATHER. -/
def execGather (q : Fin 4) (s : State) : Host.Outcome State Fault Refusal := .next (issueFn 0x40 q s)

/-- SCATTER. -/
def execScatter (q : Fin 4) (s : State) : Host.Outcome State Fault Refusal := .next (issueFn 0x41 q s)

/-- SCATTER_MERGE. -/
def execScatterMerge (q : Fin 4) (s : State) : Host.Outcome State Fault Refusal := .next (issueFn 0x42 q s)

/-- SPMM. -/
def execSpmm (q : Fin 4) (s : State) : Host.Outcome State Fault Refusal := .next (issueFn 0x43 q s)

/-- COMPRESS. -/
def execCompress (q : Fin 4) (s : State) : Host.Outcome State Fault Refusal := .next (issueFn 0x44 q s)

/-- EXPAND. -/
def execExpand (q : Fin 4) (s : State) : Host.Outcome State Fault Refusal := .next (issueFn 0x45 q s)

end Sys2Proof.Machine
end

