-- ==== Sys2Proof/Machine/Transfer.lean ====
section
/-!
DEFINITION. Machine/Transfer.lean: XFER (09 R275): tiles moved as they stand, within the module, to and from windows of
other modules, and to a neighbour (06 R180, R182; 10 R310 to R314).
-/

namespace Sys2Proof.Machine

open Reg

/-! Tiles as bit patterns. -/

/-- The element patterns and scale bytes of a tile's bytes. -/
def rawOfBytes (s : State) (f : Fmt) (bs : List Byte) : OutTile :=
  { elems := (List.range 1024).map (elemBitsOf f bs)
    scales := if f.isMx then (List.range 32).map (fun j => (bs.getD (128 * f.elemBits + j) 0).toNat) else []
    conv := s.conv regionDRV }

/-- Row `r` of an L0 tile: its first byte in the tag and how many of its elements lie within SIZE (R179). -/
def linearRow (d : Desc) (p : Desc.Pos) (r : Nat) : Nat × Nat :=
  (d.linearOff (32 * p.t0) (32 * p.t1 + r) p.i2 p.i3 p.i4 p.i5,
   if 32 * p.t1 + r < d.d1.size then min 32 (d.d0.size - 32 * p.t0) else 0)

/-- The bytes of an L0 tile, row by row, +0 beyond SIZE. -/
def readLinear (s : State) (d : Desc) (c : Chan) (p : Desc.Pos) : List Byte × State :=
  let b := d.format.elemBits / 8
  (List.range 32).foldl (fun acc r =>
    let x := linearRow d p r
    let q := if x.2 = 0 then ([], acc.2) else tagRead acc.2 c (Int.ofNat x.1) (x.2 * b)
    (acc.1 ++ q.1 ++ List.replicate ((32 - x.2) * b) 0, q.2)) ([], s)

/-- The tile with its broadcasts made and +0 for every element beyond SIZE (R180, R182). -/
def clipTile (d : Desc) (p : Desc.Pos) (o : OutTile) : OutTile :=
  let src := fun (e : Nat) => 32 * (if d.d1.bcast then 0 else e / 32) + (if d.d0.bcast then 0 else e % 32)
  { o with
    elems := (List.range 1024).map (fun e => if d.inSize p e then o.elems.getD (src e) 0 else 0)
    scales := (o.scales.zipIdx.map (fun q =>
      o.scales.getD (if (if d.sax then d.d0.bcast else d.d1.bcast) then 0 else q.2) 0)) }

/-- A structured-sparse tile in its parts (R110): the patterns of its compressed rows, 32 to a row, the metadata words of its columns, and its
scale bytes. -/
structure SparseTile where
  vals : List Nat
  words : List Nat
  scales : List Nat
  deriving DecidableEq, Repr

def SparseTile.ofBytes (f : Fmt) (mode : Nat) (bs : List Byte) : SparseTile :=
  let n := 32 * Desc.sparseRows mode
  let m := Desc.sparseMeta mode
  { vals := (List.range n).map (fun i => bitsOf bs (i * f.elemBits) f.elemBits)
    words := (List.range 32).map (fun c => bitsOf bs (n * f.elemBits + c * m) m)
    scales := if f.isMx then (List.range 32).map (fun j => (bs.getD (n * f.elemBits / 8 + 4 * m + j) 0).toNat) else [] }

def SparseTile.bytes (f : Fmt) (mode : Nat) (t : SparseTile) : List Byte :=
  toBytes (Desc.sparseRows mode * 4 * f.elemBits) (packBits f.elemBits t.vals)
    ++ toBytes (4 * Desc.sparseMeta mode) (packBits (Desc.sparseMeta mode) t.words) ++ t.scales.map (fun x => BitVec.ofNat 8 x)

/-- The row of the tile at which value `i` of a tile's compressed values stands, by the metadata in `bs`. -/
def sparseRow (d : Desc) (bs : List Byte) (i : Nat) : Nat :=
  let k := Desc.sparseKept d.sparse
  i / 32 / k * Desc.sparseGroup d.sparse + (sparseKeptIdx d.sparse d.format bs (i % 32) (i / 32 / k)).getD (i / 32 % k) 0

/-- A structured-sparse tile with its broadcasts made and +0 for every value beyond SIZE (R180, R182). Rows that all repeat a first row of values
do not fit the pattern: unspecified bytes (R111). [DEDUCED, log entry 73] -/
def clipSparse (s : State) (d : Desc) (p : Desc.Pos) (bs : List Byte) : List Byte × State :=
  let t := SparseTile.ofBytes d.format d.sparse bs
  let from_ := fun (c : Nat) => if d.d0.bcast then 0 else c
  let first := fun (c : Nat) => (List.range (Desc.sparseKept d.sparse)).any (fun i =>
    sparseRow d bs (32 * i + from_ c) == 0 && t.vals.getD (32 * i + from_ c) 0 != 0)
  if d.d1.bcast ∧ (List.range 32).any first then let f := s.fresh; ((List.range bs.length).map (fun i => (Config.openVal (f.1 * 65536 + i)).truncate 8), f.2)
  else
    (({ vals := t.vals.zipIdx.map (fun x =>
          let src := 32 * (x.2 / 32) + from_ (x.2 % 32)
          if d.d1.bcast ∨ !d.inSize p (32 * sparseRow d bs src + x.2 % 32) then 0 else t.vals.getD src 0)
        words := t.words.zipIdx.map (fun x => t.words.getD (from_ x.2) 0)
        scales := t.scales.zipIdx.map (fun x => t.scales.getD (from_ x.2) 0) } : SparseTile).bytes d.format d.sparse, s)

/-- A body of an L3 tile with +0 for every element that it holds beyond SIZE (R180). [DEDUCED, log entry 73] -/
def clipBody (d : Desc) (p : Desc.Pos) (w : Nat) (body : List Byte) : List Byte :=
  let es := d.format.elemBits / 8
  let zeroAt := fun (bs : List Byte) (i : Nat) => bs.take i ++ List.replicate es (0 : Byte) ++ bs.drop (i + es)
  match bits w 0 8 with
  | 1 =>
    let places := (List.range 32).flatMap (fun r =>
      (List.range (rowEnd body r - rowStart body r)).map (fun j => 32 * r + colByte body (rowStart body r + j)))
    places.zipIdx.foldl (fun bs x => if d.inSize p x.1 then bs else zeroAt bs (64 + pad8 (bits w 16 11) + x.2 * es)) body
  | 2 => (List.range 1024).foldl (fun bs e => if d.inSize p e then bs else zeroAt bs (e * es)) body
  | _ => body

/-- The directory entry and the body of an L3 tile as a transfer takes them (R133, R137): +0 in its padding; a tile of a tensor that is broadcast is
compressed again. [DEDUCED, log entry 73] -/
def takeL3 (s : State) (d : Desc) (c : Chan) (k : Nat) : (Nat × List Byte) × State :=
  let p := d.posOf k
  if d.d0.bcast || d.d1.bcast then
    let r := readSrc s 0 d c p
    let o := convTile d p { rmode := .nearest, sat := false } (fun _ => 0) r.1 (fun _ => true) (r.2.conv regionDRV)
    let l := packL3 d.format o.elems false
    ((l.1, l.2.1), r.2)
  else
    let w := tagWord s d.auxTag (Int.ofNat (d.dirOff k)) 8
    let n := min d.unit (if bits w.1 0 8 = 0 then 0 else l3Fetch w.1)
    let r := if n = 0 then ([], w.2) else tagRead w.2 c (d.tileOff p) n
    ((w.1, if dirOk d.format w.1 then clipBody d p w.1 r.1 else r.1), r.2)

/-- The bytes of tile `k` of a source, as a transfer takes them: with its broadcasts made and +0 beyond SIZE. The slot of an L3 tile travels whole,
its body at the start (R134). -/
def readMove (s : State) (d : Desc) (c : Chan) (k : Nat) : List Byte × State :=
  let p := d.posOf k
  if d.layout = 3 then
    let r := takeL3 s d c k
    let n := r.1.2.length
    let q := if n < d.unit then tagRead r.2 c (d.tileOff p + Int.ofNat n) (d.unit - n) else ([], r.2)
    (r.1.2.take d.unit ++ q.1, q.2)
  else if d.sparse ≠ 0 then
    let r := readTile s d c p
    clipSparse r.2 d p r.1
  else
    let r := if d.layout = 0 then readLinear s d c p else readTile s d c p
    ((clipTile d p (rawOfBytes r.2 d.format r.1)).bytes d.format, r.2)

/-- Runs of an L0 tile's elements written. -/
def writeLinear (s : State) (d : Desc) (c : Chan) (p : Desc.Pos) (o : OutTile) (inside : Nat → Bool) : State :=
  let f := d.format
  (rowRuns inside).foldl (fun s x =>
    let w := packBits f.elemBits ((o.elems.drop x.1).take x.2)
    tagWrite s c (Int.ofNat ((linearRow d p (x.1 / 32)).1 + (x.1 % 32) * (f.elemBits / 8)))
      (toBytes (x.2 * f.elemBits / 8) w)) s

/-- The scale bytes of a moved MX tile: 0x00 for a block with no element within SIZE (R180). -/
def clipScales (d : Desc) (p : Desc.Pos) (o : OutTile) : OutTile :=
  { o with
    elems := (List.range 1024).map (fun e => if d.inSize p e then o.elems.getD e 0 else 0)
    scales := o.scales.zipIdx.map (fun q => if (blockElems d.sax q.2).any (d.inSize p) then q.1 else 0) }

/-- What a structured-sparse tile holds after a write of `bs` over `old` (R180): values beyond SIZE, and metadata of groups that lie wholly beyond it,
are left as they were; an MX tile takes +0 and scale 0x00 there. [DEDUCED, log entry 73] -/
def mergeSparse (d : Desc) (p : Desc.Pos) (old bs : List Byte) (kept : Nat → Bool) : List Byte :=
  let t := SparseTile.ofBytes d.format d.sparse bs
  let o := SparseTile.ofBytes d.format d.sparse old
  let len := Desc.sparseGroup d.sparse
  let gw := Desc.sparseMeta d.sparse * len / 32
  let groupIn := fun (c g : Nat) => d.inSize p (32 * (g * len) + c)
  ({ vals := t.vals.zipIdx.map (fun x =>
       let e := 32 * sparseRow d bs x.2 + x.2 % 32
       if d.inSize p e then (if kept e then x.1 else o.vals.getD x.2 0) else if d.format.isMx then 0 else o.vals.getD x.2 0)
     words := t.words.zipIdx.map (fun x => packBits gw ((List.range (32 / len)).map (fun g =>
       bits (if groupIn x.2 g && kept (32 * (g * len) + x.2) then x.1 else o.words.getD x.2 0) (gw * g) gw)))
     scales := t.scales.zipIdx.map (fun x => if (List.range 32).any (fun r => d.inSize p (32 * r + x.2)) then x.1 else 0) } : SparseTile).bytes
    d.format d.sparse

/-- Bytes `lo` and on of tile `k` of a destination written (R180): padding is left untouched, but an MX tile is written whole
with +0 in it. `lo` is 0 for a whole tile. -/
def writeMove (s : State) (d : Desc) (c : Chan) (k lo : Nat) (bs : List Byte) : State :=
  let p := d.posOf k
  let v := survives s d k (fun _ _ => true)
  if d.layout = 3 ∨ (d.sparse ≠ 0 ∧ (lo ≠ 0 ∨ bs.length ≠ d.unit)) then
    if v.1 0 then tagWrite v.2 c (d.tileOff p + Int.ofNat lo) bs else v.2
  else if d.sparse ≠ 0 then
    tagWrite v.2 c (d.tileOff p) (mergeSparse d p (tagPeek v.2 c (d.tileOff p) d.unit) bs (fun e => v.1 (if d.format.isMx then 0 else e)))
  else if d.format.isMx then
    if v.1 0 then tagWrite v.2 c (d.tileOff p) ((clipScales d p (rawOfBytes s d.format bs)).bytes d.format) else v.2
  else
    let b := d.format.elemBits / 8
    let o := rawOfBytes s d.format (List.replicate lo 0 ++ bs)
    let inside := fun e => d.inSize p e && decide (lo ≤ e * b) && decide (e * b + b ≤ lo + bs.length) && v.1 e
    if d.layout = 0 then writeLinear v.2 d c p o inside else writeTile v.2 d c p o inside

/-- An L3 tile moved within the module: its directory entry goes with it, and of the slot its body alone is written (R133, R137).
[DEDUCED, log entry 73] -/
def moveL3 (s : State) (d e : Desc) (c c' : Chan) (k : Nat) : State :=
  let r := takeL3 s d c k
  let t := if r.1.2 = [] then r.2 else writeMove r.2 e c' k 0 r.1.2
  tagWrite t (rawChan t e.auxTag) (Int.ofNat (e.dirOff k)) (toBytes 8 r.1.1)

/-- Bytes that the spec leaves unspecified. [DESIGN CHOICE, log entry 41] -/
def openBytes (seed n : Nat) : List Byte :=
  (List.range n).map (fun i => (Config.openVal (seed * 65536 + i)).truncate 8)

/-- Two tensors between which tiles move as they stand. -/
def Desc.alike (d e : Desc) : Bool :=
  d.fmt == e.fmt && d.sparse == e.sparse && d.sax == e.sax && (d.layout == 3) == (e.layout == 3)

/-! Operations in progress. -/

def xferAt (s : State) (id : Nat) : Option XferOp := s.xfers.find? (fun x => x.id == id)

def putXfer (s : State) (x : XferOp) : State :=
  { s with xfers := s.xfers.map (fun y => if y.id = x.id then x else y) }

/-- A transfer is complete. -/
def doneXfer (s : State) (x : XferOp) : State :=
  noteDone { s with xfers := s.xfers.filter (fun y => y.id != x.id) } x.energy

/-- The unit that makes a transfer's accesses (Table 7.2). -/
def XferOp.unit (x : XferOp) : Nat := if x.mode = 2 then 7 else 6

def XferOp.srcChan (x : XferOp) (d : Desc) : Chan := d.chan (hintOf x.hsrc) (channel (16 + x.id) 0 x.src)
def XferOp.dstChan (x : XferOp) (d : Desc) : Chan := d.chan (hintOf x.hdst) (channel (16 + x.id) 1 x.dst)

/-- Slots closed, each once, when the transfer asks for it (R275). -/
def closeSlots (s : State) (unit tag : Nat) (slots : List Nat) : State :=
  slots.foldl (fun s n => closeSlot s unit tag n) s

/-- Tile `k` of a source as a transfer takes it, or unspecified bytes where the result of the transfer is unspecified. -/
def takeTileBytes (s : State) (x : XferOp) (d : Desc) (k : Nat) : List Byte × State :=
  let r := readMove s d (x.srcChan d) k
  if x.open_ then let f := r.2.fresh; (openBytes f.1 r.1.length, f.2) else r

/-- XFER mode 0: tile `k` copied (R275); unspecified where the tensors overlap (R186) or are not alike. [DEDUCED, log entry 73] -/
def moveLocal (s : State) (x : XferOp) (d e : Desc) (k : Nat) : State :=
  let c' := x.dstChan e
  if descsMeet s d e || !d.alike e then
    let f := s.fresh
    writeMove f.2 e c' k 0 (openBytes f.1 e.unit)
  else if d.layout = 3 ∧ !x.open_ then moveL3 s d e (x.srcChan d) c' k
  else
    let r := takeTileBytes s x d k
    writeMove r.2 e c' k 0 r.1

/-- A list cut into pieces of `n`. -/
def chunks {α : Type} (n : Nat) : Nat → List α → List (List α)
  | 0, _ => []
  | fuel + 1, l => if l = [] then [] else l.take n :: chunks n fuel (l.drop n)

/-- Word 1 of the header of a window packet (Table 10.6). -/
def winHdr (window offset transfer : Nat) : Nat :=
  window % 2 ^ 8 + (offset % 2 ^ 40) * 2 ^ 8 + (transfer % 2 ^ 16) * 2 ^ 48

/-- XFER mode 1: one packet for a tile, two for a tile above 4,096 bytes (R312). -/
def sendWindow (s : State) (x : XferOp) (d : Desc) (k : Nat) : State :=
  let r := takeTileBytes s x d k
  let ps := chunks 4096 2 r.1
  ps.zipIdx.foldl (fun s q =>
    let last := k + 1 == d.tiles && q.2 + 1 == ps.length
    routePacket s 6 (Packet.make x.modul s.lnk.ownId 3 (last && x.close) last
      (winHdr x.window (x.roff + k * d.unit + q.2 * 4096) x.id) q.1) none 0 (some (.transfer x.id))) r.2

/-- The bytes of a window read's responses: a tile, or half of one above 4,096 bytes. -/
def respSize (d : Desc) : Nat := if d.unit ≤ 4096 then d.unit else d.unit / 2

/-- A window read asked for: the whole range (R312). -/
def askWindow (s : State) (x : XferOp) (length rsize : Nat) : State :=
  routePacket s 6 (Packet.make x.modul s.lnk.ownId 4 false true (winHdr x.window x.roff x.id)
    (toBytes 16 (length % 2 ^ 40 + rsize * 2 ^ 40))) none 0 (some (.transfer x.id))

/-- XFER mode 2: tile `k` travels on port 2·DIR + (k mod 2), or on the usable one of the pair (R314). A tile for a lost neighbour
or for a vacant position has no route (R306, R441). -/
def sendTile (s : State) (x : XferOp) (d : Desc) (k : Nat) : State :=
  let r := takeTileBytes s x d k
  let last := k + 1 == d.tiles
  match r.2.lnk.topo with
  | none => noRoute r.2 0 0xFFFF
  | some t =>
    let id := t.idAt (t.neighbour (ownPos s) x.dir)
    if id = 0xFFFF ∨ r.2.lnk.lost.contains x.dir then noRoute r.2 (2 * x.dir) id
    else
      sendDir r.2 x.dir (k % 2)
        { vc := 6, cls := hopClass t (ownPos s) x.dir 0
          pkt := Packet.make id s.lnk.ownId 7 x.close last (x.dst + k * 2 ^ 12) r.1
          sent := 0, lastSeq := 0, xfer := some (.transfer x.id) }

/-- Packets of a transfer have not been sent. -/
def xferUnsent (s : State) (id : Nat) : Bool :=
  s.lnk.waitq.any (fun p => p.2.xfer == some (.transfer id))
    || s.lnk.ports.toList.any (fun p => p.txq.any (fun q => q.xfer == some (.transfer id) && decide (q.sent < q.pkt.bytes.length)))

/-- Neighbour sends whose every packet has been acknowledged are complete, and what waited for other packets is done. -/
def settleXfers (s : State) : State :=
  (s.xfers.filter (fun x => x.mode == 2 && x.moved && !stillQueued s (.transfer x.id))).foldl doneXfer (settleSent s)

/-- The slots that an access to tile `k` of a tensor touches; an L0 tensor is one piece. -/
def moveUses (s : State) (d : Desc) (k : Nat) (write : Bool) : List SlotUse :=
  if d.layout = 0 then descUses s d write else placeUses s d [d.posOf k] write

/-- What a transfer reads and writes here, tile by tile: its source, and the destination of mode 0; and how many tiles it moves. -/
structure XferWalk where
  src : Desc
  dst : Option Desc
  tiles : Nat
  deriving DecidableEq, Repr

def XferOp.walk (s : State) (x : XferOp) : Option XferWalk :=
  match x.mode, descAt s x.src, descAt s x.dst with
  | 0, some d, some e => some { src := d, dst := some e, tiles := min d.tiles e.tiles }
  | 1, some d, _ => some { src := d, dst := none, tiles := d.tiles }
  | 2, some d, _ => some { src := d, dst := none, tiles := d.tiles }
  | _, _, _ => none

/-- No tile of a walk after tile `k` touches a slot in the same direction. -/
def XferWalk.lastUse (w : XferWalk) (s : State) (k : Nat) (u : SlotUse) : Bool :=
  let rest := (List.range (w.tiles - (k + 1))).map (fun i => k + 1 + i)
  let uses := fun j => if u.write then (match w.dst with | some e => moveUses s e j true | none => []) else moveUses s w.src j false
  !(rest.any (fun j => (uses j).contains u))

/-- The next tile of a transfer: its slots are taken, and once they are the tile moves and the slots it has read for the last time are
drained (R208, R275). [DEDUCED, log entry 73] -/
def nextTile (s : State) (x : XferOp) (w : XferWalk) : State :=
  let k := x.next
  let writes := match w.dst with | some e => moveUses s e k true | none => []
  let a := enterUses s x.acq (moveUses s w.src k false) writes (w.lastUse s k)
  let x := { x with acq := a.1 }
  if a.1.needs ≠ [] then putXfer a.2 x
  else
    let s := match w.dst with
      | some e => moveLocal a.2 x w.src e k
      | none => if x.mode = 1 then sendWindow a.2 x w.src k else sendTile a.2 x w.src k
    let r := release s x.acq (fun u => !u.write && w.lastUse s k u)
    putXfer r.2 { x with acq := r.1, next := k + 1 }

/-- A transfer has moved its last tile: mode 0 closes the slots that it wrote if it is to, and is complete; the others wait for the far end. -/
def movedAll (s : State) (x : XferOp) (w : XferWalk) : State :=
  match w.dst with
  | some e => doneXfer (if x.close then closeSlots s 6 e.tag (e.slotsTouched (tagEntry s e.tag)) else s) x
  | none => settleXfers (putXfer s { x with moved := true })

/-- The tiles of a transfer, as far as its slots admit. -/
def moveTiles (id : Nat) : Nat → State → State
  | 0, s => s
  | fuel + 1, s =>
    match (xferAt s id).bind (fun x => (x.walk s).map (fun w => (x, w))) with
    | none => s
    | some (x, w) =>
      if x.acq.needs ≠ [] ∨ x.moved then s
      else if x.next ≥ w.tiles then movedAll s x w
      else moveTiles id fuel (nextTile s x w)

/-- A transfer whose stalled access, if it had one, has been admitted goes on; a window read asks for its whole range. -/
def actXfer (s : State) (id : Nat) : State :=
  match xferAt s id with
  | none => s
  | some x =>
    if x.acq.needs ≠ [] ∨ x.moved then s
    else
      let s := s.inOp (16 + id)
      match x.mode, x.fetch, descAt s x.dst with
      | 3, some t, _ => putXfer (askWindow s x (tagEntry s t).bytes 4096) { x with moved := true }
      | 3, none, some e => putXfer (askWindow s x (e.tiles * e.unit) (respSize e)) { x with moved := true }
      | 3, none, none => doneXfer s x
      | _, _, _ =>
        match x.walk s with
        | none => doneXfer s x
        | some w => moveTiles id (w.tiles + 1) s

/-- A transfer begins (R275), under the window timeout that stands now (Table 10.12). -/
def beginXfer (s : State) (x : XferOp) : State :=
  let id := s.lnk.xferNo
  let s := { s with lnk := { s.lnk with xferNo := id + 1 } }
  let s := s.newOp (16 + id)
  actXfer { s with xfers := s.xfers ++ [{ x with id := id, acq := Acq.none x.unit, limit := max 1 (s.get LNK_CFG.WIN_TIMEOUT) }] } id

/-! Operations of one sequencer without a done wait between them (R278). -/

/-- Two descriptors share memory. -/
def numsMeet (s : State) (a b : Nat) : Bool :=
  match descAt s a, descAt s b with
  | some d, some e => descsMeet s d e
  | _, _ => false

/-- An operation meets an earlier one of its sequencer: one of them writes what the other reads or writes.
[DEDUCED, log entry 150; DESIGN CHOICE, log entry 41] -/
def Unwaited.meets (s : State) (a b : Unwaited) : Bool :=
  a.seqr == b.seqr
    && (a.writes.any (fun n => (b.reads ++ b.writes).any (numsMeet s n)) || a.reads.any (fun n => b.writes.any (numsMeet s n)))

/-- Every tile of a tensor written with unspecified bytes. [DESIGN CHOICE, log entry 41] -/
def openTensor (s : State) (n : Nat) : State :=
  match descAt s n with
  | none => s
  | some d => (List.range d.tiles).foldl (fun s k =>
      let f := s.fresh
      writeMove f.2 d (rawChan f.2 d.tag) k 0 (openBytes f.1 d.unit)) s

/-- The packets of a transfer that have not begun to leave carry unspecified bytes from here on. [DESIGN CHOICE, log entry 41] -/
def openQueued (s : State) (id : Nat) : State :=
  let f := s.fresh
  let open_ := fun (x : TxPkt) =>
    if x.xfer = some (.transfer id) ∧ x.sent = 0 then { x with pkt := { x.pkt with data := openBytes f.1 x.pkt.data.length } } else x
  { f.2 with lnk := { f.2.lnk with
      waitq := f.2.lnk.waitq.map (fun e => (e.1, open_ e.2))
      ports := f.2.lnk.ports.map (fun p => { p with txq := p.txq.map open_ }) } }

/-- An XFER or REDUCE is issued with no done wait since others: whether its result is unspecified, and with it what the others that it meets have written,
sent and not yet let go, or are still to write or send (R278). [DESIGN CHOICE, log entry 41] -/
def raceWith (s : State) (u : Unwaited) : Bool × State :=
  let met := s.unwaited.filter (fun v => u.meets s v)
  let t := { s with unwaited := s.unwaited ++ [u] }
  if met = [] then (false, t)
  else
    let ns := met.flatMap (·.writes)
    let rs := (met.flatMap (·.reads)).filter (fun n => u.writes.any (numsMeet s n))
    let t := ns.foldl openTensor t
    let races := fun (x : XferOp) =>
      (ns.contains x.dst && (x.mode == 0 || x.mode == 3)) || (x.seqr == u.seqr && x.mode != 3 && rs.contains x.src)
    let t := (t.xfers.filter (fun x => races x && (x.mode == 1 || x.mode == 2))).foldl (fun t x => openQueued t x.id) t
    (true, { t with
      xfers := t.xfers.map (fun x => if races x then { x with open_ := true } else x)
      reduces := t.reduces.map (fun o => if ns.contains o.dst || rs.contains o.src then { o with open_ := true } else o) })

/-! Issue. -/

/-- A remote module may not be the far end of a window transfer (R310). -/
def badModule (s : State) (m : Nat) : Bool :=
  m == 0xFFFF || m == s.lnk.ownId
    || (match s.lnk.topo with
        | none => true
        | some t =>
          (match t.posOf m with
           | none => true
           | some q => t.mode == 2 && !(List.range 8).any (fun d => t.size (d / 2) != 1 && t.neighbour (ownPos s) d == q)))

/-- The work of a transfer (R426). -/
def xferWork (s : State) (mode : Nat) (ns : List Nat) : Work :=
  let b := ns.foldl (fun n k => n + ((namedDesc s k).map (fun d => d.tiles * d.unit)).getD 0) 0
  Work.ofDescs s { link := if mode = 0 then 0 else b } ns

/-- An XFER at issue (R182, R188, R275, R310; Tables 9.2 and 9.6). -/
def issueXfer (q : Fin 4) (mode : Nat) (f : XferFields) (modul window roff dir : Nat) (s : State) : Issue :=
  let src := effDesc s q f.doff 0 f.src
  let dst := effDesc s q f.doff 1 f.dst
  let reads := if mode = 3 then [] else [src]
  let writes := if mode = 0 ∨ mode = 3 then [dst] else []
  let named := reads ++ writes ++ (if mode = 2 then [dst] else [])
  let cls := if mode = 2 then Desc.clsLink else Desc.clsXfer
  if named.any (fun n => (namedDesc s n).isNone) then .refuse 4 false s
  else if named.any (fun n => ((namedDesc s n).map (·.cls)) != some cls) then .refuse 5 false s
  else if writes.any (fun n => ((namedDesc s n).map (fun d => d.dims.any (·.bcast))) == some true) then .refuse 5 false s
  else if (mode = 1 ∨ mode = 3) ∧ badModule s modul then .refuse 5 false (noRoute s 0 modul)
  else if (s.xfers.filter (fun x => x.seqr == q.val)).length ≥ 16 then .wait s
  else match gate s q (xferWork s mode (reads ++ writes)) with
    | (none, t) => .wait t
    | (some typ, t) =>
      let r := raceWith t { seqr := q.val, reads := reads, writes := writes }
      let x : XferOp :=
        { id := 0, seqr := q, mode := mode, src := src, dst := dst, hsrc := f.hsrc, hdst := f.hdst, close := f.close
          modul := modul, window := window, roff := roff, dir := dir, acq := Acq.none 6, next := 0, moved := false, got := []
          fetch := none, open_ := r.1, energy := typ, limit := 0 }
      .issued (issuedNext (beginXfer r.2 x) q)

/-- XFER with a mode. -/
def runXfer (q : Fin 4) (i : SeqInsn) (s : State) : Issue :=
  match i with
  | .xferLocal f => issueXfer q 0 f 0 0 0 0 s
  | .xferWindow read f modul window roff => issueXfer q (if read then 3 else 1) f modul window roff 0 s
  | .xferNeighbour f dir => issueXfer q 2 f 0 0 0 dir s
  | _ => .wait s

/-- XFER_LOCAL. -/
def execXferLocal (q : Fin 4) (s : State) : Host.Outcome State Fault Refusal :=
  .next (tryIssue s q .other (fun i => i matches .xferLocal _) (runXfer q))

/-- XFER_WINDOW_WRITE. -/
def execXferWindowWrite (q : Fin 4) (s : State) : Host.Outcome State Fault Refusal :=
  .next (tryIssue s q .other (fun i => match i with | .xferWindow r .. => !r | _ => false) (runXfer q))

/-- XFER_NEIGHBOUR_SEND. -/
def execXferNeighbourSend (q : Fin 4) (s : State) : Host.Outcome State Fault Refusal :=
  .next (tryIssue s q .other (fun i => i matches .xferNeighbour ..) (runXfer q))

/-- XFER_WINDOW_READ. -/
def execXferWindowRead (q : Fin 4) (s : State) : Host.Outcome State Fault Refusal :=
  .next (tryIssue s q .other (fun i => match i with | .xferWindow r .. => r | _ => false) (runXfer q))

end Sys2Proof.Machine
end

