-- ==== Sys2Proof/Machine/Link.lean ====
section
/-!
DEFINITION. Machine/Link.lean: the fabric ports (10 R283 to R296, R304 to R307): training and widths, flits with their CRC,
replay and credits, and packets on their way through the module.
-/

namespace Sys2Proof.Machine

open Reg

/-! The flit CRC (R288). -/

def crcStep (c : Nat) : Nat := if c % 2 = 1 then (c / 2) ^^^ 0xC96C5795D7870F42 else c / 2

def crcByte (c : Nat) (b : Byte) : Nat := iter crcStep 8 (c ^^^ b.toNat)

/-- CRC-64 of a byte string. -/
def crc64 (bs : List Byte) : Nat := bs.foldl crcByte (2 ^ 64 - 1) ^^^ (2 ^ 64 - 1)

/-! Flits (Table 10.2). -/

namespace Flit
def w0 (f : List Byte) : Nat := ofBytes (f.take 8)
def seq (f : List Byte) : Nat := bits (w0 f) 0 12
def ack (f : List Byte) : Nat := bits (w0 f) 12 12
def nak (f : List Byte) : Bool := bit (w0 f) 24
def vc (f : List Byte) : Nat := bits (w0 f) 25 3
def cls (f : List Byte) : Nat := bits (w0 f) 28 1
def idle (f : List Byte) : Bool := bit (w0 f) 29
def crVc (f : List Byte) : Nat := bits (w0 f) 32 3
def crCls (f : List Byte) : Nat := bits (w0 f) 35 1
def crN (f : List Byte) : Nat := bits (w0 f) 36 12
def payload (f : List Byte) : List Byte := (f.drop 8).take 240

/-- The CRC of a flit fits its bytes. -/
def ok (f : List Byte) : Bool := f.length == 256 && ofBytes ((f.drop 248).take 8) == crc64 (f.take 248)

/-- A flit from its first word and payload. [DEDUCED, log entry 64] -/
def make (word : Nat) (data : List Byte) : List Byte :=
  let body := toBytes 8 word ++ data ++ List.replicate (240 - data.length) 0
  body ++ toBytes 8 (crc64 body)

/-- The first word of a flit. -/
def word (seq ack : Nat) (nak : Bool) (vc cls : Nat) (idle : Bool) (crVc crCls crN : Nat) : Nat :=
  seq % 2 ^ 12 + (ack % 2 ^ 12) * 2 ^ 12 + b2n nak * 2 ^ 24 + (vc % 8) * 2 ^ 25 + (cls % 2) * 2 ^ 28 + b2n idle * 2 ^ 29
    + (crVc % 8) * 2 ^ 32 + (crCls % 2) * 2 ^ 35 + (crN % 2 ^ 12) * 2 ^ 36
end Flit

/-- The flits that the receive buffer of a channel and class holds (R292, Table 10.3). [DEDUCED, log entry 65] -/
def bufferFlits (key : Nat) : Nat :=
  if key ≤ 1 then 128 else if key = 2 then 256 else if key = 3 then 0
  else if key ≤ 11 then (if key % 2 = 0 then 2560 else 0) else 1152

/-- The credits a port holds after training. [DEDUCED, log entry 65] -/
def fullCredit : FMap Nat := (List.range 16).map (fun k => (k, bufferFlits k))

/-! Packets out of a channel's stream (R295). -/

/-- Whole packets taken from the front of a stream; a header of zeros is the padding that ends a burst. Answers the packets
and the bytes that wait for more. [DEDUCED, log entry 64] -/
def unpack : Nat → List Byte → List Packet × List Byte
  | 0, bs => ([], bs)
  | fuel + 1, bs =>
    if bs.length < 16 then ([], bs)
    else
      let h0 := ofBytes (bs.take 8)
      let h1 := ofBytes ((bs.drop 8).take 8)
      if h0 = 0 ∧ h1 = 0 then ([], [])
      else
        let n := bits h0 40 9 * 16
        if bs.length < 16 + n then ([], bs)
        else
          let r := unpack fuel (bs.drop (16 + n))
          ({ hdr0 := h0, hdr1 := h1, data := (bs.drop 16).take n } :: r.1, r.2)

/-! Packets for other modules. -/

/-- A packet that this module neither takes nor forwards (R6, R306). [DEDUCED, log entry 72] -/
def strayPacket (s : State) (x : RxPkt) : Bool :=
  let t := x.pkt.typ
  if x.pkt.src = 0xFFFF then true
  else if t = 1 ∨ t = 2 then false
  else if x.pkt.dest = 0xFFFF then true
  else if x.pkt.dest = s.lnk.ownId then
    -- a module without a position takes one control message only, ADOPT (R448)
    ownPos s == 0xFFFF && !(t == 0 && bits x.pkt.hdr1 0 8 == 7)
  else
    match s.lnk.topo with
    | none => true
    | some tp =>
      ownPos s == 0xFFFF || t == 7 || t == 11 || (tp.posOf x.pkt.dest).isNone || (decide (3 ≤ t) && decide (t ≤ 6) && tp.mode == 2)

/-- This module is the packet's destination, or its type is consumed at every hop. -/
def forUs (s : State) (x : RxPkt) : Bool := x.pkt.typ == 1 || x.pkt.typ == 2 || x.pkt.dest == s.lnk.ownId

/-- A packet or flit meets an error in the words of a port's link buffers (R24, R325): a single-bit error is corrected, a double-bit error is read
again; where it persists the event goes to LNK and to the chip, and the lost word is delivered as zero. [DEDUCED, log entry 151] -/
def meetBuffer (s : State) (n : Fin 16) (data : List Byte) : List Byte × State :=
  match meet s (fun | .link k e => if k = n then some e else none | _ => none) with
  | (some .persistent, s) =>
    (List.replicate (min 8 data.length) 0 ++ data.drop 8,
      s.escalate { region := regionLNK, event := (Config.unlistedEvent 9).toNat, level := 1, action := 1, block := n })
  | (_, s) => (data, s)

/-- A packet that has arrived whole: kept for this module, forwarded, or discarded and counted (R296, R306). [DEDUCED, log entry 72] -/
def acceptPacket (n : Fin 16) (s : State) (x : RxPkt) : State :=
  let m := meetBuffer s n x.pkt.data
  let s := m.2
  let x := { x with pkt := { x.pkt with data := m.1 } }
  let key := vcKey x.vc x.cls
  let gone := s.setPort n ((s.port n).free key x.pkt.bytes.length)
  if !typeOnVc x.pkt.typ x.vc || (x.pkt.typ == 0 && (bits x.pkt.hdr1 0 8 == 0 || decide (bits x.pkt.hdr1 0 8 > 7)))
      || strayPacket s x then
    noRoute gone n x.pkt.src
  else if forUs s x then
    s.setPort n { s.port n with inbox := (s.port n).inbox ++ [x] }
  else
    -- only what is passed on counts as forwarded (R327)
    routePacket (if (wayTo s x.pkt.dest).isSome then gone.count LNK_FWD_PKT_CNT 1 else gone) x.vc x.pkt (some (n.val / 4)) x.cls none

/-- The payload of an accepted flit joins its channel's stream (R295). -/
def acceptPayload (s : State) (n : Fin 16) (f : List Byte) : State :=
  let p := s.port n
  let key := vcKey (Flit.vc f) (Flit.cls f)
  let old := (FMap.find p.partials key).getD []
  let all := old ++ Flit.payload f
  let r := unpack (all.length / 16 + 1) all
  let used := r.1.foldl (fun k x => k + x.bytes.length) 0
  let pad := all.length - used - r.2.length
  let before := occupied p key
  let q := { p with
    expect := (p.expect + 1) % 4096, nakOn := false, nakDue := false
    partials := if r.2 = [] then FMap.del p.partials key else FMap.put p.partials key r.2
    stored := FMap.put p.stored key (countAt p.stored key + 240 - pad) }
  let q := { q with owed := FMap.put q.owed key (countAt q.owed key + (before + 1 - occupied q key)) }
  r.1.foldl (fun s x => acceptPacket n s { vc := Flit.vc f, cls := Flit.cls f, pkt := x }) (s.setPort n q)

/-! Acknowledgement and replay (R289, R290). -/

/-- Flits up to the acknowledged one leave the replay buffer, and packets all of whose flits have left it leave the queue. -/
def PortState.acked (p : PortState) (a : Nat) : PortState :=
  match p.replay.findIdx? (fun x => x.1 == a) with
  | none => p
  | some i =>
    let rest := p.replay.drop (i + 1)
    let done := fun (x : TxPkt) => decide (x.sent ≥ x.pkt.bytes.length) && !rest.any (fun y => y.1 == x.lastSeq)
    { p with
      replay := rest, replays := 0, txq := p.txq.filter (fun x => !done x)
      replayAt := match p.replayAt with
        | none => none
        | some q => if rest.any (fun y => y.1 == q) then some q else rest.head?.map (·.1) }

/-- Replay from the last acknowledged flit. -/
def PortState.rewind (p : PortState) : PortState := { p with replayAt := p.replay.head?.map (·.1) }

/-- A replay starts; one that has flits to send counts (R289). -/
def startReplay (s : State) (n : Fin 16) (p : PortState) : State :=
  (s.setPort n p.rewind).count (LNK_P_REPLAY_CNT n) (b2n (p.replay != []))

/-- A NAK starts a replay, or, when one flit has been replayed 8 times in a row, asks LNK for a retrain (R290). -/
def takeNak (s : State) (n : Fin 16) : State :=
  let p := s.port n
  if p.replay = [] then s
  else if p.replays ≥ 8 then
    setLnkLastErr (s.setPort n { p with retrainDue := 1 }) 1 n (s.get (LNK_P_STATUS.NEIGHBOUR n))
  else startReplay s n { p with replays := p.replays + 1 }

/-- What every good flit carries besides its payload: acknowledgement, NAK and credits. -/
def takeHeader (s : State) (n : Fin 16) (f : List Byte) : State :=
  let p := (s.port n).acked (Flit.ack f)
  let k := vcKey (Flit.crVc f) (Flit.crCls f)
  let p := if Flit.crN f = 0 then p else { p with credit := FMap.put p.credit k (countAt p.credit k + Flit.crN f) }
  let s := s.setPort n p
  settleXfers (if Flit.nak f then takeNak s n else s)

/-- A discarded flit starts the NAK that repeats until the replay arrives (R289). -/
def startNak (s : State) (n : Fin 16) : State :=
  let p := s.port n
  s.setPort n (if p.nakOn then p else { p with nakOn := true, nakDue := true })

/-- A flit received on a port that is up (R289, R291, R293). -/
def receiveFlit (s : State) (n : Fin 16) (f : List Byte) : State :=
  let s := s.count (LNK_P_RX_FLIT_CNT n) 1
  if !Flit.ok f then
    let s := s.count (LNK_P_CRC_ERR_CNT n) 1
    if Flit.idle f then s else startNak s n
  else if Flit.idle f then takeHeader s n f
  else
    let p := s.port n
    let key := vcKey (Flit.vc f) (Flit.cls f)
    if Flit.seq f ≠ p.expect then startNak s n
    else if occupied p key ≥ bufferFlits key then
      let s := setLnkLastErr (s.count (LNK_P_CREDIT_ERR_CNT n) 1) 11 n (s.get (LNK_P_STATUS.NEIGHBOUR n))
      s.setPort n { s.port n with retrainDue := 11 }
    else acceptPayload (takeHeader s n f) n f

/-- FLIT_RECEIVE: 256 bytes arrive on a port that is up. -/
def execFlitReceive (n : Fin 16) (data : List Byte) (s : State) : Host.Outcome State Fault Refusal :=
  .next (if s.get (LNK_P_STATUS.STATE n) = 2 then receiveFlit s n data else s)

/-! Sending (R291, R293, R294). -/

/-- Bytes of the packets of one channel and class, up to a flit's payload, and the queue with them sent. [DEDUCED, log entry 64] -/
def fillFlit (vc cls seq : Nat) : Nat → List TxPkt → List Byte × List TxPkt
  | _, [] => ([], [])
  | room, x :: xs =>
    let bs := x.pkt.bytes
    if x.vc = vc ∧ x.cls = cls ∧ x.sent < bs.length ∧ 0 < room then
      let k := min room (bs.length - x.sent)
      let r := fillFlit vc cls seq (room - k) xs
      ((bs.drop x.sent).take k ++ r.1, { x with sent := x.sent + k, lastSeq := seq } :: r.2)
    else
      let r := fillFlit vc cls seq room xs
      (r.1, x :: r.2)

/-- The class of the packet that a channel may send next: one with bytes to send and a credit. -/
def sendable (s : State) (n : Fin 16) (vc : Nat) : Option Nat :=
  let p := s.port n
  -- a module without a position carries VC0 and VC1 only (R299)
  if vc ≥ 2 ∧ (!p.opened ∨ s.get (LNK_P_STATUS.HELD n) = 1 ∨ ownPos s = 0xFFFF) then none
  else (p.txq.find? (fun x => x.vc == vc && decide (x.sent < x.pkt.bytes.length)
      && decide (0 < countAt p.credit (vcKey x.vc x.cls)))).map (·.cls)

/-- The weight of a data channel (R294). -/
def vcWeight (s : State) (vc : Nat) : Nat := max 1 (bits (s.get LNK_VC_CFG.WEIGHT) (4 * (vc - 2)) 4)

/-- The channel whose turn it is: VC1, VC0, then VC2 to VC7 by weighted round robin. Answers the channel, its class and the
round robin's state afterwards. -/
def chooseVc (s : State) (n : Fin 16) : Option (Nat × Nat × Nat × Nat) :=
  let p := s.port n
  match sendable s n 1, sendable s n 0 with
  | some c, _ => some (1, c, p.turnVc, p.turnLeft)
  | none, some c => some (0, c, p.turnVc, p.turnLeft)
  | none, none =>
    match (if p.turnLeft > 0 then sendable s n p.turnVc else none) with
    | some c => some (p.turnVc, c, p.turnVc, p.turnLeft - 1)
    | none =>
      ((List.range 6).map (fun i => 2 + (p.turnVc - 2 + 1 + i) % 6)).findSome? (fun v =>
        (sendable s n v).map (fun c => (v, c, v, vcWeight s v - 1)))

/-- The credits that the next flit returns: those of the lowest channel and class that has some due (R293); none for a held
port's data channels (R318). -/
def dueCredit (s : State) (n : Fin 16) : Nat × Nat :=
  match (s.port n).owed.find? (fun e => decide (0 < e.2)
      && !(decide (e.1 ≥ 4) && s.get (LNK_P_STATUS.HELD n) == 1)) with
  | some (k, c) => (k, min c 4095)
  | none => (0, 0)

/-- A flit leaves the port; `idle` are the credits that it carries as an idle one. -/
def emit (s : State) (n : Fin 16) (p : PortState) (f : List Byte) (idle : Nat × Nat) : State :=
  (s.setPort n { p with wire := f, idleCr := idle, nakDue := false }).count (LNK_P_TX_FLIT_CNT n) 1

/-- The credits that an idle flit carried which failed its CRC at the partner are due again (R291). [DESIGN CHOICE, log entry 152] -/
def PortState.idleFailed (p : PortState) : PortState :=
  if p.idleCr.2 = 0 then p
  else { p with owed := FMap.put p.owed p.idleCr.1 (countAt p.owed p.idleCr.1 + p.idleCr.2), idleCr := (0, 0) }

/-- The next flit of a port (R294). [DEDUCED, log entry 151] -/
def transmit (s : State) (n : Fin 16) : State :=
  let p := s.port n
  let ack := (p.expect + 4095) % 4096
  match p.replayAt.bind (fun q => p.replay.findIdx? (fun x => x.1 == q)) with
  | some i =>
    -- the replay buffer lies in the link buffers too (R292)
    let f := ((p.replay[i]?).map (·.2)).getD []
    let m := meetBuffer s n (Flit.payload f)
    let s := m.2
    let w := setBits (setBits (Flit.w0 f) 12 12 ack) 24 1 (b2n p.nakDue)
    emit s n { p with replayAt := (p.replay[i + 1]?).map (·.1) } (Flit.make w m.1) (0, 0)
  | none =>
    let c := dueCredit s n
    let p := if c.2 = 0 then p else { p with owed := FMap.put p.owed c.1 (countAt p.owed c.1 - c.2) }
    match (if p.replay.length ≥ 1024 then none else chooseVc s n) with
    | none => emit s n p (Flit.make (Flit.word 0 ack p.nakDue 0 0 true (c.1 / 2) (c.1 % 2) c.2) []) c
    | some (vc, cls, turnVc, turnLeft) =>
      let r := fillFlit vc cls p.nextSeq 240 p.txq
      let f := Flit.make (Flit.word p.nextSeq ack p.nakDue vc cls false (c.1 / 2) (c.1 % 2) c.2) r.1
      let k := vcKey vc cls
      emit s n
        { p with
          txq := r.2, replay := p.replay ++ [(p.nextSeq, f)], nextSeq := (p.nextSeq + 1) % 4096
          credit := FMap.put p.credit k (countAt p.credit k - 1), turnVc := turnVc, turnLeft := turnLeft } f (0, 0)

/-- FLIT_TRANSMIT: an idle flit that was lost is known before the next flit leaves. [DESIGN CHOICE, log entry 152] -/
def execFlitTransmit (a : SendTurn) (s : State) : Host.Outcome State Fault Refusal :=
  .next (if s.get (LNK_P_STATUS.STATE a.port) = 2 then
      transmit (if a.idleLost then s.setPort a.port (s.port a.port).idleFailed else s) a.port
    else s)

/-- NAK_REPEAT. -/
def execNakRepeat (n : Fin 16) (s : State) : Host.Outcome State Fault Refusal :=
  let p := s.port n
  .next (if p.nakOn then s.setPort n { p with nakDue := true } else s)

/-! Ports in and out of service (R285, R286, R290, R307). -/

/-- The direction that serves a packet waiting for one: for a reduction block on an axis of size 2 it may be the other (R333). -/
def waitDir (s : State) (d vc : Nat) : Nat :=
  match s.lnk.topo with
  | some t => if 2 ≤ vc ∧ vc ≤ 5 then redDir s t (vc - 2) d else d
  | none => d

/-- Packets that waited for a usable port of their direction go out (R304, R333). -/
def releaseWait (s : State) : State :=
  let q := s.lnk.waitq
  q.foldl (fun s e => sendDir s (waitDir s e.1 e.2.vc) e.2.pkt.portIndex e.2) { s with lnk := { s.lnk with waitq := [] } }

/-- `n / d` as a register shows it. [DESIGN CHOICE, log entry 26] -/
def shownQuot (n d : Nat) : Nat := n / d + (if n % d = 0 then 0 else b2n (Config.roundUp n))

/-- The link delay that a training echo measured: half its round trip, in nanoseconds, of which a CCLK cycle takes one (R412). -/
def setDelay (s : State) (n delay : Nat) : State :=
  let f := match n % 4 with
    | 0 => CAD_PORT_DELAY.DELAY0 (n / 4)
    | 1 => CAD_PORT_DELAY.DELAY1 (n / 4)
    | 2 => CAD_PORT_DELAY.DELAY2 (n / 4)
    | _ => CAD_PORT_DELAY.DELAY3 (n / 4)
  s.set f (shownQuot delay 2)

/-- The packets of a port that its partner has not acknowledged, when it leaves service (R307). -/
def resendPackets (s : State) (n : Fin 16) : State :=
  let q := (s.port n).txq
  let s := s.setPort n { PortState.reset with inbox := (s.port n).inbox }
  settleXfers (q.foldl (fun s x =>
    if x.vc = 0 ∨ x.vc = 6 ∨ x.vc = 7 then
      sendDir (s.count LNK_RESEND_CNT 1) (n.val / 2) (n.val + 1) { x with sent := 0, lastSeq := 0 }
    else s) s)

/-- An entry for a link event on a port (Table 10.11); code 0 for an event that LNK_LAST_ERR does not record. -/
def linkLog (s : State) (event level action n code : Nat) : State :=
  s.log { region := regionLNK, event := event, level := level, action := action, block := n
          modul := s.get (LNK_P_STATUS.NEIGHBOUR n)
          detail := if code = 0 then 0 else lnkLastErr s code n (s.get (LNK_P_STATUS.NEIGHBOUR n)) }

/-- A port goes DOWN. -/
def portDown (s : State) (n : Fin 16) : State :=
  let s := setLnkLastErr s 3 n (s.get (LNK_P_STATUS.NEIGHBOUR n))
  resendPackets (((linkLog s 3 2 2 n 3).set (LNK_P_STATUS.STATE n) 3).set (LNK_P_STATUS.NARROW n) 0) n

/-- The width at which a port comes up: ×8, or ×4 on the half that trained, or on lanes 0 to 3 at supply stage 3. -/
def setWidth (s : State) (n : Fin 16) (low high : Bool) : State :=
  let full := low && high
  let shed := full && (decide (s.get PWR_STATUS.STAGE ≥ 3) || (s.port n).asked)
  let s := (s.setFlag (LNK_P_STATUS.NARROW n) (!full || shed)).setFlag (LNK_P_STATUS.UPPER n) (!low)
  s.setPort n { s.port n with shed := shed }

/-- A change of a port's width, counted and logged (R286). -/
def noteWidth (s : State) (n : Fin 16) : State :=
  linkLog (s.count (LNK_P_RETRAIN_CNT n) 1) (Config.unlistedEvent 5).toNat 2 0 n 0

/-- Full training of a port with a partner: which halves of its lanes train, and the delay measured. A port that was up when it began keeps its
replay buffer and its packets; a change of its width counts (R286). -/
def trainPort (s : State) (n : Fin 16) (low high : Bool) (delay : Nat) : State :=
  let fresh := (s.port n).credit == []
  if !low && !high then portDown s n
  else
    let p := s.port n
    let narrow := s.get (LNK_P_STATUS.NARROW n)
    let s := if fresh then s.setPort n { PortState.reset with inbox := p.inbox, txq := p.txq, credit := fullCredit }
      else startReplay s n { p with opened := false, retrainDue := 0, replays := 0 }
    let s := setDelay (((s.set (LNK_P_STATUS.STATE n) 2).set (LNK_P_STATUS.EQ_SAVED n) 1)) n delay
    let s := setWidth s n low high
    releaseWait (
      if !(low && high) then
        linkLog ((setLnkLastErr s 2 n (s.get (LNK_P_STATUS.NEIGHBOUR n))).count (LNK_P_RETRAIN_CNT n) 1) 2 2 0 n 2
      else if !fresh && s.get (LNK_P_STATUS.NARROW n) != narrow then noteWidth s n
      else s)

/-- A port may train: the fabric is released, the port is not disabled, and its axis has more than one place (R300). -/
def mayTrain (s : State) (n : Fin 16) : Bool :=
  s.pwr.fabric && !bit (s.get LNK_PORT_CTL.DISABLE) n
    && (match s.lnk.topo with
        | none => true
        | some t => t.size (n.val / 4) != 1)

/-- A port in electrical idle, or in training, looks for a partner and trains with it; without one it stays in electrical idle, and a port that was up
goes DOWN. -/
def findPartner (s : State) (n : Fin 16) (partner low high : Bool) (delay : Nat) : State :=
  if partner then trainPort s n low high delay
  else if (s.port n).credit = [] then s.set (LNK_P_STATUS.STATE n) 0
  else portDown s n

/-- PORT_TRAIN: the training of a port, at release step 6, on its return to service, or after a write of LNK_PORT_CTL.FULLTRAIN. -/
def execPortTrain (n : Fin 16) (partner low high : Bool) (delay : Nat) (s : State) : Host.Outcome State Fault Refusal :=
  .next (if mayTrain s n ∧ s.get (LNK_P_STATUS.STATE n) ≤ 1 then findPartner s n partner low high delay else s)

/-- PARTNER_DETECT_RETRY: a port in electrical idle looks for a partner again. -/
def execPartnerDetectRetry (n : Fin 16) (partner low high : Bool) (delay : Nat) (s : State) :
    Host.Outcome State Fault Refusal :=
  .next (if mayTrain s n ∧ s.get (LNK_P_STATUS.STATE n) = 0 then findPartner s n partner low high delay else s)

/-- DOWN_RETRY: a port that is DOWN tries full training again. -/
def execDownRetry (n : Fin 16) (low high : Bool) (delay : Nat) (s : State) : Host.Outcome State Fault Refusal :=
  .next (if mayTrain s n ∧ s.get (LNK_P_STATUS.STATE n) = 3 ∧ (low ∨ high) then trainPort s n low high delay else s)

/-- WIDTH_CHANGE: the ends of a port agree on the narrower width that either asks for: ×4 while this module is at supply stage 3 or its
partner asks for it, its flits in flight replayed, and ×8 again when neither does (R286). [DESIGN CHOICE, log entry 152] -/
def execWidthChange (a : WidthAsk) (s : State) : Host.Outcome State Fault Refusal :=
  let n := a.port
  .next (if s.get (LNK_P_STATUS.STATE n) ≠ 2 then s
    else
      let p := { s.port n with asked := a.partner }
      let s := s.setPort n p
      if s.get PWR_STATUS.STAGE ≥ 3 ∨ a.partner then
        if s.get (LNK_P_STATUS.NARROW n) = 0 then
          noteWidth (startReplay ((s.set (LNK_P_STATUS.NARROW n) 1).set (LNK_P_STATUS.UPPER n) 0) n { p with shed := true }) n
        else s
      else if p.shed then noteWidth ((s.set (LNK_P_STATUS.NARROW n) 0).setPort n { p with shed := false }) n
      else s)

/-- The row of Table 10.11 under which a quick retrain is logged, and its code of LNK_LAST_ERR. -/
def retrainEvent (cause : Nat) : Nat × Nat :=
  if cause = 1 then (1, 1) else if cause = 11 then (4, 11) else ((Config.unlistedEvent 6).toNat, 0)

/-- A quick retrain for a cause (R290): the replay buffer survives it, and sending resumes with replay. After a credit violation the partner's
free space, by channel and class, is `credits`, and every credit of this port has been given anew (R293). -/
def quickRetrain (s : State) (n : Fin 16) (low high : Bool) (delay cause : Nat) (credits : List Nat) : State :=
  let s := s.count (LNK_P_RETRAIN_CNT n) 1
  if !low && !high then portDown s n
  else
    let p := s.port n
    let p := if cause = 11 then { p with credit := (List.range 16).map (fun k => (k, credits.getD k 0)), owed := [] } else p
    let s := setDelay (startReplay s n { p with retrainDue := 0, replays := 0 }) n delay
    let s := setWidth s n low high
    if low && high then linkLog s (retrainEvent cause).1 2 1 n (retrainEvent cause).2
    else linkLog (setLnkLastErr s 2 n (s.get (LNK_P_STATUS.NEIGHBOUR n))) 2 2 0 n 2

/-- QUICK_RETRAIN: LNK retrains a port for the cause that asked for it. -/
def execQuickRetrain (n : Fin 16) (low high : Bool) (delay : Nat) (credits : List Nat) (s : State) :
    Host.Outcome State Fault Refusal :=
  .next (if s.get (LNK_P_STATUS.STATE n) = 2 ∧ (s.port n).retrainDue ≠ 0 then
      quickRetrain s n low high delay (s.port n).retrainDue credits
    else s)

/-- RETRAIN: a write of a port's LNK_PORT_CTL.RETRAIN bit. -/
def execRetrain (n : Fin 16) (low high : Bool) (delay : Nat) (s : State) : Host.Outcome State Fault Refusal :=
  .next (if s.get (LNK_P_STATUS.STATE n) = 2 then quickRetrain s n low high delay 12 [] else s)

/-- A register write asks for a quick retrain of a port. [DESIGN CHOICE, log entry 22] -/
def askRetrain (s : State) (n : Fin 16) : State :=
  if s.get (LNK_P_STATUS.STATE n) = 2 ∧ (s.port n).retrainDue = 0 then s.setPort n { s.port n with retrainDue := 12 } else s

/-- The saved coefficients of a port are discarded, and where it may train it begins full training. [DESIGN CHOICE, log entry 22] -/
def askFulltrain (s : State) (n : Fin 16) : State :=
  let s := s.set (LNK_P_STATUS.EQ_SAVED n) 0
  if mayTrain s n then s.set (LNK_P_STATUS.STATE n) 1 else s

/-- FULLTRAIN: a write of a port's LNK_PORT_CTL.FULLTRAIN bit, and the training that it begins. -/
def execFulltrain (n : Fin 16) (partner low high : Bool) (delay : Nat) (s : State) : Host.Outcome State Fault Refusal :=
  .next (if mayTrain s n then findPartner (askFulltrain s n) n partner low high delay else askFulltrain s n)

/-- A port leaves service for electrical idle. -/
def idlePort (s : State) (n : Fin 16) : State :=
  resendPackets (((s.set (LNK_P_STATUS.STATE n) 0).set (LNK_P_STATUS.NARROW n) 0).set (LNK_P_STATUS.UPPER n) 0) n

/-- The ports that `p` picks and that are not off go into electrical idle. -/
def idlePorts (p : Fin 16 → Bool) (s : State) : State :=
  (List.range 16).foldl (fun s k =>
    if p (portNo k) ∧ s.get (LNK_P_STATUS.STATE k) ≠ 0 then idlePort s (portNo k) else s) s

/-- Ports leave service, or may return to it, at a step boundary, as LNK_PORT_CTL.DISABLE says. -/
def applyDisable (s : State) : State := idlePorts (fun n => bit (s.get LNK_PORT_CTL.DISABLE) n) s

/-- The ports of an axis of size 1 stay in electrical idle (R300). -/
def idleAxes (s : State) : State :=
  match s.lnk.topo with
  | none => s
  | some t => idlePorts (fun n => t.size (n.val / 4) == 1) s

end Sys2Proof.Machine
end

