-- ==== Sys2Proof/Machine/Fabric.lean ====
section
/-!
DEFINITION. Machine/Fabric.lean: what modules tell one another: heartbeats and holds, lost neighbours and stand-down,
epoch changes, the census, notices and deadline adjustments (10 R315 to R323; 15 R441 to R448).
-/

namespace Sys2Proof.Machine

open Reg

/-! Messages along a tree. -/

/-- A control message received on a port, taken once for each pair of SRC and MSEQ (R297). -/
def withControl (s : State) (n : Fin 16) (sub : Nat) (act : Packet → State → State) : State :=
  match peekRx s n (isControl sub) with
  | none => s
  | some x =>
    let t := takeRx s n (isControl sub)
    let id := (x.pkt.src, bits x.pkt.hdr1 8 16)
    if t.lnk.seen.contains id then t
    else act x.pkt { t with lnk := { t.lnk with seen := id :: t.lnk.seen } }

/-- A field of a payload. -/
def field (p : Packet) (off n : Nat) : Nat := ofBytes ((p.data.drop off).take n)

/-- The position of a message's sender, which is the root of the tree that it travels down. -/
def rootOf (s : State) (t : Topology) (src : Nat) : Nat := if src = s.lnk.ownId then ownPos s else (t.posOf src).getD 0

/-- A control message passed on to the children in a group's tree, under the same SRC and MSEQ. [DEDUCED, log entry 153] -/
def passDown (s : State) (mask : Nat) (src hdr1 : Nat) (data : List Byte) : State :=
  match s.lnk.topo with
  | none => s
  | some t =>
    ((t.under (rootOf s t src)).children mask (ownPos s)).foldl (fun s c =>
      sendPacket s 0 (Packet.make (t.idAt c.1) src 0 false true hdr1 data)) s

/-- A control message that this module starts down a tree: one message number for all its children. -/
def startDown (s : State) (mask sub : Nat) (data : List Byte) : State :=
  let m := s.lnk.mseq
  passDown { s with lnk := { s.lnk with mseq := (m + 1) % 2 ^ 16 } } mask s.lnk.ownId (sub + m * 2 ^ 8) data

/-- This module acts as system ringmaster, or as its deputy (R320). -/
def isSysRm (s : State) : Bool := ownPos s != 0xFFFF && sysRm s == some (ownPos s)

/-! Stand-down (R442). -/

/-- The positions of this module's tensor, pipeline and sequence groups. -/
def partners (s : State) : List Nat :=
  match s.lnk.topo with
  | none => []
  | some t =>
    if ownPos s = 0xFFFF then []
    else [0, 1, 2].flatMap (fun k => t.groupOf (t.kindMask k) (ownPos s))

/-- A case of R442 holds. -/
def mustStandDown (s : State) : Bool :=
  match s.lnk.topo with
  | none => false
  | some t => (partners s).any (fun p => t.idAt p == 0xFFFF || s.lnk.lostPos.contains p)

/-- Stand-down begins or ends. -/
def settleStanding (s : State) : State :=
  let b := mustStandDown s
  let t := { s with lnk := { s.lnk with standing := b } }
  if b && !s.lnk.standing then
    ((t.count FLT_STANDDOWN_CNT 1).set FLT_FLAGS.STANDDOWN 1).log { region := regionFLT, event := 5, level := 3, action := 2 }
  else t

/-- The loss of the module at a position has been told. -/
def noteLoss (s : State) (pos : Nat) : State :=
  settleStanding { s with lnk := { s.lnk with
    lostPos := if s.lnk.lostPos.contains pos then s.lnk.lostPos else pos :: s.lnk.lostPos } }

/-! Heartbeats (R315 to R318). -/

/-- The heartbeat of a port (Table 10.10). -/
def heartbeat (s : State) (n : Nat) : Packet :=
  let dest := match s.lnk.topo with
    | none => 0xFFFF
    | some t => if ownPos s = 0xFFFF then 0xFFFF else t.idAt (t.neighbour (ownPos s) (n / 2))
  Packet.make dest s.lnk.ownId 1 false true 0
    (toBytes 8 (s.lnk.ownId + ownPos s * 2 ^ 16 + n * 2 ^ 32 + s.get PWR_STATUS.STAGE * 2 ^ 36
        + s.get LNK_STATUS.CENSUS_OK * 2 ^ 39 + s.get (LNK_P_STATUS.HELD n) * 2 ^ 40)
      ++ toBytes 8 (s.get LNK_EPOCH.EPOCH + (s.step.number % 2 ^ 32) * 2 ^ 32)
      ++ toBytes 8 (s.get LNK_DIGEST.DIGEST) ++ toBytes 8 s.tick ++ toBytes 16 0)

/-- HEARTBEAT_SEND: every trained port sends one. -/
def execHeartbeatSend (s : State) : Host.Outcome State Fault Refusal :=
  .next ((List.range 16).foldl (fun s n =>
    if s.get (LNK_P_STATUS.STATE n) = 2 then sendOnPort s n 1 (heartbeat s n) else s) s)

/-- The fields of a heartbeat fit R300: the neighbour's identifier and position, on a port of the opposite direction. -/
def wiringOk (s : State) (n : Nat) (p : Packet) : Bool :=
  match s.lnk.topo with
  | none => false
  | some t =>
    let d := n / 2
    let q := t.neighbour (ownPos s) d
    ownPos s != 0xFFFF && field p 0 2 == t.idAt q && field p 0 2 != 0xFFFF && field p 2 2 == q
      && (field p 4 1 % 16) / 2 == d + 1 - 2 * (d % 2)

/-- The epoch of a heartbeat is one away from this module's. -/
def epochNear (s : State) (e : Nat) : Bool :=
  e == (s.get LNK_EPOCH.EPOCH + 1) % 2 ^ 32 || s.get LNK_EPOCH.EPOCH == (e + 1) % 2 ^ 32

/-- A digest that R317 tolerates at an epoch one away: one that a pending change names, or the one in force before the change
just applied. -/
def digestTolerated (s : State) (d : Nat) : Bool :=
  (heldChanges s).any (fun c => c.digest == d)
    || s.lnk.applied.any (fun a => a.1 == s.get LNK_EPOCH.EPOCH && a.2 == d)

/-- The cause for which a heartbeat fails, as a code of LNK_LAST_ERR; none when it passes (R316, R317). `grace` is how many
heartbeats in a row have been tolerated on the port. [DEDUCED, log entry 66] -/
def heartbeatFault (s : State) (n grace : Nat) (p : Packet) : Option Nat :=
  let e := field p 8 4
  let d := field p 16 8
  let near := e != s.get LNK_EPOCH.EPOCH && epochNear s e && decide (grace < s.get LNK_CFG.GRACE)
  if !wiringOk s n p then some 6
  else if d ≠ s.get LNK_DIGEST.DIGEST ∧ !(near && digestTolerated s d) then some 5
  else if e ≠ s.get LNK_EPOCH.EPOCH ∧ !near then some 4
  else none

/-- A heartbeat judged (R316 to R318). -/
def judgeHeartbeat (n : Fin 16) (p : Packet) (s : State) : State :=
  let port := s.port n
  let e := field p 8 4
  let s := ((s.set (LNK_P_STATUS.NEIGHBOUR n) (field p 0 2)).set (LNK_P_STATUS.NPORT n) (field p 4 1 % 16)).set
    (LNK_P_STATUS.HB_TICK n) s.tick
  let fault := heartbeatFault s n port.grace p
  let near := e != s.get LNK_EPOCH.EPOCH && epochNear s e
  let s := s.setPort n { port with grace := if near then port.grace + 1 else 0 }
  match fault with
  | none =>
    releaseWait ((s.set (LNK_P_STATUS.HELD n) 0).setPort n { s.port n with opened := true })
  | some code =>
    let s := s.count LNK_MISMATCH_CNT 1
    if s.get (LNK_P_STATUS.HELD n) = 1 then s
    else
      let id := field p 0 2
      let s := setLnkLastErr ((s.set (LNK_P_STATUS.HELD n) 1).count LNK_HOLD_CNT 1) code n id
      notifyRm (s.escalate { region := regionLNK, event := 5, level := 2, action := 2, block := n, modul := id
                             detail := lnkLastErr s code n id }) code n id

/-- HEARTBEAT: the heartbeat at the head of a port's VC1. -/
def execHeartbeat (n : Fin 16) (s : State) : Host.Outcome State Fault Refusal :=
  .next (match peekRx s n (isType 1) with
    | none => s
    | some x => judgeHeartbeat n x.pkt (takeRx s n (isType 1)))

/-! A neighbour is lost (R319, R441). -/

/-- Packets queued toward a lost neighbour, or with a route through it, are discarded and counted; heartbeats and timecodes are
not. -/
def discardQueued (s : State) (d : Nat) : State :=
  let drop := fun (s : State) (n : Fin 16) =>
    let p := s.port n
    let gone := (p.txq.filter (fun x => x.vc != 1)).length
    (s.setPort n { p with txq := p.txq.filter (fun x => x.vc == 1) }).count LNK_NOROUTE_CNT gone
  let s := drop (drop s (portNo (2 * d))) (portNo (2 * d + 1))
  let gone := (s.lnk.waitq.filter (fun e => e.1 == d)).length
  settleXfers (({ s with lnk := { s.lnk with waitq := s.lnk.waitq.filter (fun e => e.1 != d) } }).count LNK_NOROUTE_CNT gone)

/-- The directions in which the neighbour of direction `d` lies: both of an axis of size 2 (R300). -/
def sameWay (t : Topology) (d : Nat) : List Nat := if t.size (d / 2) = 2 then [d, d + 1 - 2 * (d % 2)] else [d]

/-- The groups of R301 that this module belongs to, by their axis masks, the reduction groups first. -/
def ownMasks (t : Topology) : List Nat := ([0, 1, 2, 3].map t.redMask ++ [0, 1, 2, 3].map t.kindMask).eraseDups

/-- Who hears of a lost neighbour besides the system ringmaster: the members of this module's tensor, pipeline and sequence groups (R441), and, for each
group that it was the ringmaster of, the next-lowest position (R320). -/
def lossTold (s : State) (t : Topology) (q : Nat) : List Nat :=
  let next := (ownMasks t).filterMap (fun m =>
    if t.ringmaster m (ownPos s) = some q then (t.groupOf m (ownPos s)).find? (fun p => t.idAt p != 0xFFFF && !s.lnk.lostPos.contains p) else none)
  (partners s ++ next).eraseDups.filter (fun p => p != ownPos s && p != q && sysRm s != some p && t.idAt p != 0xFFFF)

/-- NEIGHBOUR_LOST: three heartbeat periods without a heartbeat from the neighbour in direction `d`. -/
def execNeighbourLost (d : Fin 8) (s : State) : Host.Outcome State Fault Refusal :=
  .next (match s.lnk.topo with
    | none => s
    | some t =>
      let q := t.neighbour (ownPos s) d
      let id := t.idAt q
      if ownPos s = 0xFFFF ∨ q = ownPos s ∨ id = 0xFFFF ∨ s.lnk.lost.contains d.val then s
      else
        let s := (sameWay t d).foldl discardQueued { s with lnk := { s.lnk with lost := sameWay t d ++ s.lnk.lost } }
        let s := setLnkLastErr ((s.count LNK_HB_MISS_CNT 1).set FLT_FLAGS.LOST 1) 7 (2 * d) id
        let s := s.escalate { region := regionLNK, event := 6, level := 3, action := 2, block := 2 * d, modul := id
                              detail := lnkLastErr s 7 (2 * d) id }
        let s := noteLoss s q
        (lossTold s t q).foldl (fun s p => notifyTo s (t.idAt p) 7 0xFF id) (notifyRm s 7 0xFF id))

/-! Epoch changes (R321). -/

/-- The payload of an EPOCH_CHANGE (Table 10.7). -/
def changeData (c : EpochChange) : List Byte :=
  toBytes 8 c.epoch ++ toBytes 8 c.base ++ toBytes 8 c.digest ++ toBytes 8 c.amend.length
    ++ c.amend.flatMap (fun a => toBytes 2 a.1 ++ toBytes 2 a.2)

def changeOf (p : Packet) : EpochChange :=
  { epoch := field p 0 4, base := field p 8 8, digest := field p 16 8
    amend := (List.range (min 1016 (field p 24 2))).map (fun i => (field p (32 + 4 * i) 2, field p (34 + 4 * i) 2)) }

/-- A change held as pending; the amendments of one that it overtakes still stand before its own. [DEDUCED, log entry 67] -/
def holdChange (s : State) (c : EpochChange) : State :=
  let old := (s.lnk.change.map (·.amend)).getD []
  ({ s with lnk := { s.lnk with change := some { c with amend := old ++ c.amend } } }).set LNK_EPOCH.PENDING c.epoch
    |>.set LNK_STATUS.EPOCH_PENDING 1

/-- A change sent down the system tree by the ringmaster, which holds it too. -/
def sendChange (s : State) (c : EpochChange) : State := holdChange (startDown s systemMask 1 (changeData c)) c

/-- A change received: forwarded before it is acted on, then held. -/
def receiveChange (s : State) (n : Fin 16) : State :=
  withControl s n 1 (fun p s => holdChange (passDown s systemMask p.src p.hdr1 p.data) (changeOf p))

/-- The step period of the image, in ticks (Table 16.3). -/
def stepPeriod (s : State) : Nat := max 1 (imgField s 1 0 4)

/-- The scheduled start tick of the second step to begin from now on. -/
def secondStep (s : State) : Nat :=
  match s.step.next with
  | some t => t + stepPeriod s
  | none => s.tick + 2 * stepPeriod s

/-- The epoch after the one in force or pending. -/
def nextEpoch (s : State) : Nat := (s.get LNK_EPOCH.PENDING + 1) % 2 ^ 32

/-! The census (R322). -/

/-- This module agrees with a census: same epoch and digest, no port held, no adoption in progress (R451). -/
def agrees (s : State) (epoch digest : Nat) : Bool :=
  s.get LNK_EPOCH.EPOCH == epoch && s.get LNK_DIGEST.DIGEST == digest
    && (List.range 16).all (fun n => s.get (LNK_P_STATUS.HELD n) == 0) && s.get FLT_STATUS.ADOPTING == 0

/-- The positions that hold an identifier. [DEDUCED, log entry 85] -/
def memberCount (s : State) : Nat :=
  match s.lnk.topo with
  | none => 0
  | some t => ((List.range t.count).filter (fun p => t.idAt p != 0xFFFF)).length

def lowest (a b : Nat) : Nat := min a b

/-- An adoption is complete, on the adopter and on the ringmaster (R451). -/
def noteAdopted (s : State) : State :=
  ((s.set FLT_FLAGS.ADOPTED 1).count FLT_ADOPT_CNT 1).log { region := regionFLT, event := 6, level := 3, action := 5 }

/-- What a census has gathered, at its root: recorded, and either confirmed down the tree or logged. [DEDUCED, log entry 85] -/
def closeCensus (s : State) (c : Census) : State :=
  let all := memberCount s
  let ok := c.reached == all && c.agree == all
  let s := ((((((s.set LNK_CENSUS_STATUS.RUNNING 0).set LNK_CENSUS_STATUS.DONE 1).setFlag LNK_CENSUS_STATUS.AGREED ok).set
    LNK_CENSUS_STATUS.REACHED c.reached).set LNK_CENSUS_STATUS.AGREE c.agree).set LNK_CENSUS_STATUS.FIRST_BAD c.firstBad).set
    LNK_CENSUS_STATUS.NUMBER c.number
  let s := s.attend 9
  if ok then
    let s := startDown (if c.epoch = s.get LNK_EPOCH.EPOCH then s.set LNK_STATUS.CENSUS_OK 1 else s) systemMask 4 (toBytes 2 c.number ++ toBytes 2 0 ++ toBytes 4 c.epoch)
    if c.epoch = 0 ∧ s.lnk.change.isNone then
      -- the first agreeing census starts the first epoch (R474)
      sendChange s { epoch := 1, base := s.tick + imgField s 1 8 4, digest := c.digest, amend := [] }
    else if s.lnk.adoptEpoch = some c.epoch then
      noteAdopted { s with lnk := { s.lnk with adoptEpoch := none } }
    else s
  else
    s.log { region := regionLNK, event := 10, level := 3, action := 5, modul := s.lnk.ownId }

/-- A census with every child accounted for: closed at the root, answered to the parent elsewhere. -/
def finishCensus (s : State) (c : Census) : State :=
  let s := { s with lnk := { s.lnk with census := none } }
  match s.lnk.topo with
  | none => s
  | some t =>
    if c.root = ownPos s then closeCensus s c
    else match (t.under c.root).parent systemMask (ownPos s) with
      | none => s
      | some q => sendControl s (t.idAt q) 3 (toBytes 2 c.number ++ toBytes 2 c.reached ++ toBytes 2 c.agree ++ toBytes 2 c.firstBad)

/-- This module takes part in a census. [DEDUCED, log entry 153] -/
def joinCensus (s : State) (root number epoch digest : Nat) : State :=
  match s.lnk.topo with
  | none => s
  | some t =>
    let ok := agrees s epoch digest
    let c : Census :=
      { number := number, root := root, epoch := epoch, digest := digest
        waiting := ((t.under root).children systemMask (ownPos s)).map (·.1), reached := 1, agree := b2n ok
        firstBad := if ok then 0xFFFF else ownPos s }
    if c.waiting = [] then finishCensus s c else { s with lnk := { s.lnk with census := some c } }

/-- The payload of a CENSUS_REQ (Table 10.7). -/
def censusData (number epoch digest : Nat) : List Byte :=
  toBytes 2 number ++ toBytes 2 0 ++ toBytes 4 epoch ++ toBytes 8 digest

/-- The system ringmaster begins a census. -/
def beginCensus (s : State) : State :=
  if isSysRm s ∧ s.lnk.census.isNone ∧ (s.get LNK_EPOCH.EPOCH ≠ 0 ∨ s.flag CAD_STATUS.SYNCED) then
    let number := (s.lnk.censusNo + 1) % 2 ^ 16
    let e := s.get LNK_EPOCH.EPOCH
    let d := s.get LNK_DIGEST.DIGEST
    let s := ({ s with lnk := { s.lnk with censusNo := number } }).count LNK_CENSUS_CNT 1
    let s := ((s.set LNK_CENSUS_STATUS.RUNNING 1).set LNK_CENSUS_STATUS.DONE 0).set LNK_CENSUS_STATUS.NUMBER number
    joinCensus (startDown s systemMask 2 (censusData number e d)) (ownPos s) number e d
  else s

/-- A reply joins the result of the census. -/
def takeReply (s : State) (src number reached agree bad : Nat) : State :=
  match s.lnk.census, s.lnk.topo with
  | some c, some t =>
    (match t.posOf src with
     | none => s
     | some q =>
       if c.number ≠ number ∨ !c.waiting.contains q then s
       else
         let c := { c with
           waiting := c.waiting.filter (· != q), reached := c.reached + reached, agree := c.agree + agree
           firstBad := lowest c.firstBad bad }
         if c.waiting = [] then finishCensus s c else { s with lnk := { s.lnk with census := some c } })
  | _, _ => s

/-- The wait for replies to a census is over: children that have not replied are absent. -/
def endWait (s : State) (number : Nat) : State :=
  match s.lnk.census with
  | none => s
  | some c => if c.number = number then finishCensus s { c with waiting := [], firstBad := c.waiting.foldl lowest c.firstBad } else s

/-- What firmware does about an event of a census. -/
def censusDo (s : State) (e : FwEvent) : State :=
  match e with
  | .censusDue => beginCensus s
  | .census root number epoch digest => joinCensus s root number epoch digest
  | .reply src number reached agree bad => takeReply s src number reached agree bad
  | .censusEnd number => endWait s number
  | _ => s

/-- An event of a census: firmware acts on it at once, or it waits for firmware to run (R439). -/
def censusAsk (s : State) (e : FwEvent) : State := if fwRuns s then censusDo s e else fwAsk s e

/-- CENSUS_START: the system ringmaster begins a census: every 100 ms at epoch 0 once SYNCED is set, and after each epoch is
applied (R443, R474). -/
def censusStart (s : State) : State := censusAsk s .censusDue

/-- CENSUS_REQ: a request is forwarded and judged. -/
def censusReq (n : Fin 16) (s : State) : State :=
  (withControl s n 2 (fun p s =>
    censusAsk (passDown s systemMask p.src p.hdr1 p.data) (.census ((s.lnk.topo.map (fun t => rootOf s t p.src)).getD 0)
      (field p 0 2) (field p 4 4) (field p 8 8))))

/-- CENSUS_REPLY: a child's reply joins the result. -/
def censusReply (n : Fin 16) (s : State) : State :=
  (withControl s n 3 (fun p s => censusAsk s (.reply p.src (field p 0 2) (field p 2 2) (field p 4 2) (field p 6 2))))

/-- CENSUS_WAIT_EXPIRE: children that have not replied are absent. -/
def censusWaitExpire (s : State) : State :=
  (match s.lnk.census with
    | none => s
    | some c => censusAsk s (.censusEnd c.number))

/-- CENSUS_OK: the census of the epoch is complete. -/
def execCensusOk (n : Fin 16) (s : State) : Host.Outcome State Fault Refusal :=
  .next (withControl s n 4 (fun p s =>
    let s := passDown s systemMask p.src p.hdr1 p.data
    if field p 4 4 = s.get LNK_EPOCH.EPOCH then s.set LNK_STATUS.CENSUS_OK 1 else s))

/-! Notices (R297, R442). -/

/-- NOTIFY: a loss is noted by every receiver; the system ringmaster's firmware acts on every notice. -/
def execNotify (n : Fin 16) (s : State) : Host.Outcome State Fault Refusal :=
  .next (withControl s n 5 (fun p s =>
    let code := field p 0 1
    let s := match s.lnk.topo.bind (fun t => t.posOf (field p 2 2)) with
      | some q => if code = 7 then noteLoss s q else s
      | none => s
    if isSysRm s then fwAsk s (.notice p.src code (field p 1 1) (field p 2 2)) else s))

/-- The position of R448: the vacant one in the direction of the port on which a standby was found. -/
def standbyPlace (s : State) (src port : Nat) : Option Nat :=
  match s.lnk.topo with
  | none => none
  | some t =>
    match t.posOf src with
    | none => none
    | some p =>
      let q := t.neighbour p (port / 2)
      if port < 16 ∧ t.idAt q = 0xFFFF ∧ s.step.based ∧ s.tick ≥ s.step.baseTick then some q else none

/-- The direction from a position to the replica to fetch from: the first along an axis of the replica set with a member. -/
def replicaDir (t : Topology) (q : Nat) : Option Nat :=
  (List.range 8).find? (fun d => bit (t.kindMask 3) (d / 2) && t.size (d / 2) != 1 && t.idAt (t.neighbour q d) != 0xFFFF)

/-- The payload of an ADOPT (Table 15.3). -/
def adoptData (epoch pos standby base digest relay replica : Nat) : List Byte :=
  toBytes 4 epoch ++ toBytes 2 pos ++ toBytes 2 standby ++ toBytes 8 base ++ toBytes 8 digest ++ toBytes 1 relay
    ++ toBytes 1 replica ++ toBytes 6 0

/-- An ADOPT sent on, to the standby, on the trained ports of a direction (R448). [DEDUCED, log entry 69] -/
def relayAdopt (s : State) (dir standby src hdr1 : Nat) (data : List Byte) : State :=
  [2 * dir, 2 * dir + 1].foldl (fun s n =>
    if s.get (LNK_P_STATUS.STATE n) = 2 then sendOnPort s n 0 (Packet.make standby src 0 false true hdr1 data) else s) s

/-- A change that vacates a position is pending: a further notice of the same loss asks for no other (R443). [DEDUCED, log entry 156] -/
def vacating (s : State) (p : Nat) : Bool := ((s.lnk.change.map (·.amend)).getD []).contains (p, 0xFFFF)

/-- What the ringmaster's firmware does about a notice: a lost, withdrawn or yielding module's position is vacated (R443); a standby
at a vacant position is given it (R448). None where the notice must wait. [DEDUCED, log entry 156] -/
def actNotice (s : State) (src code port modul : Nat) : Option State :=
  match s.lnk.topo with
  | none => some s
  | some t =>
    let e := nextEpoch s
    let base := secondStep s
    let digest := s.get LNK_DIGEST.DIGEST
    if code = 7 ∨ code = 12 ∨ code = 13 then
      match t.posOf modul with
      | none => some s
      | some p =>
        if vacating s p then some s
        else some (sendChange (s.set FLT_FLAGS.LOST 1) { epoch := e, base := base, digest := digest, amend := [(p, 0xFFFF)] })
    else if code = 6 ∧ modul ≠ 0xFFFF ∧ (t.posOf modul).isNone then
      match standbyPlace s src port with
      | none => none
      | some q =>
        match replicaDir t q with
        | none => some s
        | some r =>
          let s := sendChange s { epoch := e, base := base, digest := digest, amend := [(q, modul)] }
          let s := { s with lnk := { s.lnk with adoptEpoch := some e } }
          let data := adoptData e q modul base digest (port / 2) r
          some (if src = s.lnk.ownId then
              relayAdopt { s with lnk := { s.lnk with mseq := (s.lnk.mseq + 1) % 2 ^ 16 } } (port / 2) modul s.lnk.ownId
                (7 + s.lnk.mseq * 2 ^ 8) data
            else sendControl s src 7 data)
    else some s

/-- The firmware queue without its first notice that can be acted on, and the state after acting. -/
def firstNotice (s : State) : List FwEvent → List FwEvent → Option (State × List FwEvent)
  | _, [] => none
  | before, .notice src code port modul :: rest =>
    match actNotice s src code port modul with
    | some t => some (t, before ++ rest)
    | none => firstNotice s (before ++ [.notice src code port modul]) rest
  | before, e :: rest => firstNotice s (before ++ [e]) rest

/-- VACATE_EPOCH: the ringmaster's firmware acts on the first notice it can act on. -/
def vacateEpoch (s : State) : State :=
  (if !isSysRm s ∨ !fwRuns s then s
    else match firstNotice s [] s.flt.fwq with
      | none => s
      | some (t, q) =>
        -- what acting adds to the queue stands behind what was there
        { t with flt := { t.flt with fwq := q ++ t.flt.fwq.drop s.flt.fwq.length } })

/-! Deadline adjustments (R323). -/

/-- The largest adjustment of a group (Table 16.5). -/
def adjMax (s : State) (g : Nat) : Int := Int.ofNat (imgField s 7 (8 + 4 * g) 4)

/-- The adjustments of deadlines that hold from a step on are taken up, that of the latest step last (R323). -/
def applyAdjs (s : State) (step : Nat) : State :=
  let now := (s.lnk.adjNext.filter (fun a => decide (a.2.2 ≤ step))).mergeSort (fun a b => decide (a.2.2 ≤ b.2.2))
  { s with lnk := { s.lnk with
    adj := now.foldl (fun l a => l.set a.1 a.2.1) s.lnk.adj
    adjNext := s.lnk.adjNext.filter (fun a => decide (a.2.2 > step)) } }

/-- A group's adjustment holds from a step that has begun: it moves the deadlines of that step's REDUCEs that are already issued (R323). -/
def moveDeadlines (s : State) (g : Nat) (by_ : Int) (fromStep : Nat) : State :=
  { s with reduces := s.reduces.map (fun x =>
      if x.group = g ∧ fromStep ≤ x.step then { x with deadline := x.deadline + by_ } else x) }

/-- An adjustment taken up for a group from a step on, clamped; those for other steps stand beside it (R323). -/
def takeAdj (s : State) (g : Nat) (adj : Int) (fromStep : Nat) : State :=
  let a := max (-65536) (min adj (adjMax s g))
  let t := { s with lnk := { s.lnk with
    adjNext := s.lnk.adjNext.filter (fun x => !(x.1 == g && x.2.2 == fromStep)) ++ [(g, a, fromStep)] } }
  let t := if 0 < s.step.count ∧ fromStep ≤ s.step.number then
      let u := applyAdjs t s.step.number
      moveDeadlines u g (u.lnk.adj.getD g 0 - s.lnk.adj.getD g 0) fromStep
    else t
  if a = adj then t
  else t.log { region := regionRED, event := (Config.unlistedEvent 7).toNat, level := 2, action := 0, block := g }

/-- DEADLINE_ADJ: forwarded down its group's tree and taken up. -/
def execDeadlineAdj (n : Fin 16) (s : State) : Host.Outcome State Fault Refusal :=
  .next (withControl s n 6 (fun p s =>
    let g := field p 0 1
    if g ≥ 4 then s
    else
      let mask := (s.lnk.topo.map (fun t => t.redMask g)).getD 0
      takeAdj (passDown s mask p.src p.hdr1 p.data) g (signed 32 (field p 4 4)) (field p 8 8)))

end Sys2Proof.Machine
end

