-- ==== Sys2Proof/Machine/Reduce.lean ====
section
/-!
DEFINITION. Machine/Reduce.lean: gradient reduction in the fabric (11; 15 R442, R446): G16 blocks, source blocks, combines
with their residue checks, results, deadlines, lateness and carry-in.
-/

namespace Sys2Proof.Machine

open Reg

/-! Blocks (R328). -/

/-- A significand list's residue (R342). -/
def residue (q : List Int) : Nat := ((q.foldl (· + ·) 0) % 127).toNat

namespace G16

def zeros : List Int := List.replicate 64 0

def ofBytes (bs : List Byte) : G16 :=
  let h := Sys2Proof.ofBytes (bs.take 8)
  { exp := bits h 0 8, res := bits h 8 7, withheld := bit h 15, sat := bit h 16, carry := bit h 17, isPartial := bit h 18
    lost := bit h 19, count := bits h 20 16, block := bits h 36 28
    q := (List.range 64).map (fun i => signed 16 (Sys2Proof.ofBytes ((bs.drop (8 + 2 * i)).take 2))) }

def bytes (b : G16) : List Byte :=
  toBytes 8 (b.exp + b.res * 2 ^ 8 + b2n b.withheld * 2 ^ 15 + b2n b.sat * 2 ^ 16 + b2n b.carry * 2 ^ 17
      + b2n b.isPartial * 2 ^ 18 + b2n b.lost * 2 ^ 19 + (b.count % 2 ^ 16) * 2 ^ 20 + (b.block % 2 ^ 28) * 2 ^ 36)
    ++ b.q.flatMap (fun x => toBytes 2 (unsigned 16 x))

/-- A block that carries nothing. -/
def none (block : Nat) : G16 :=
  { exp := 0, res := 0, withheld := true, sat := false, carry := false, isPartial := false, lost := false, count := 0
    block := block, q := zeros }

/-- A result that was lost, or never arrived. -/
def gone (block : Nat) : G16 := { none block with withheld := false, lost := true }

/-- The exact value of element `i` (R346). -/
def val (b : G16) (i : Nat) : Val :=
  if b.withheld || b.lost then Val.zero
  else (Val.ofInt (b.q.getD i 0)).scale (Int.ofNat b.exp - 142)

end G16

/-! The reduction tree of a group (R331, R332, R348). -/

def redMask (s : State) (g : Nat) : Nat := (s.lnk.topo.map (fun t => t.redMask g)).getD 0

/-- This module is the root of a group's tree. -/
def isRoot (s : State) (g : Nat) : Bool :=
  match s.lnk.topo with
  | none => false
  | some t => t.ringmaster (t.redMask g) (ownPos s) == some (ownPos s)

/-- This module is cut off from the root (R446). -/
def isCut (s : State) (g : Nat) : Bool :=
  match s.lnk.topo with
  | none => true
  | some t => !isRoot s g && (t.parentDir (t.redMask g) (ownPos s)).isNone

/-- The children of this module, as 1 plus the position, with their directions. -/
def redChildren (s : State) (g : Nat) : List (Nat × Nat) :=
  match s.lnk.topo with
  | none => []
  | some t => (t.children (t.redMask g) (ownPos s)).map (fun c => (c.1 + 1, c.2))

/-- Hops from a member to the root through the tree; none when a cut-off member stands between. -/
def hopsToRoot (t : Topology) (mask : Nat) : Nat → Nat → Option Nat
  | 0, _ => none
  | fuel + 1, p =>
    if t.ringmaster mask p = some p then some 0
    else match t.parent mask p with
      | none => none
      | some q => (hopsToRoot t mask fuel q).map (· + 1)

/-- The depth by which this module closes its combines (R348). -/
def closeDepth (s : State) (g : Nat) : Nat :=
  match s.lnk.topo with
  | none => 0
  | some t =>
    let m := t.redMask g
    if (t.groupOf m (ownPos s)).all (fun q => t.idAt q != 0xFFFF) then t.depth m (ownPos s)
    else (hopsToRoot t m (t.count + 1) (ownPos s)).getD 0

/-- The position that has the duties of a group's ringmaster: the lowest that holds an identifier and that this module has not judged lost (R320).
[DEDUCED, log entry 153] -/
def redRm (s : State) (g : Nat) : Option Nat :=
  s.lnk.topo.bind (fun t => (t.groupOf (t.redMask g) (ownPos s)).find? (fun q => t.idAt q != 0xFFFF && !s.lnk.lostPos.contains q))

/-! Operations in progress. -/

def redAt (s : State) (tid : Nat) : Option ReduceOp := s.reduces.find? (fun x => x.tid == tid)

/-- The REDUCE whose source blocks are being formed: first one that is complete and has some left. [DEDUCED, log entry 76] -/
def srcAt (s : State) (tid : Nat) : Option ReduceOp :=
  match s.red.forming.find? (fun x => x.tid == tid) with
  | some op => some op
  | none => redAt s tid

def putRed (s : State) (op : ReduceOp) : State :=
  { s with
    reduces := s.reduces.map (fun x => if x.id = op.id then op else x)
    red := { s.red with forming := s.red.forming.map (fun x => if x.id = op.id then op else x) } }

/-- The blocks of a REDUCE. -/
def redBlocks (s : State) (op : ReduceOp) : Nat := ((descAt s op.dst).map (fun d => 16 * d.tiles)).getD 0

/-- RED_LAST_ERR records an event (Table 11.11). -/
def setRedLastErr (s : State) (code unit tid : Nat) : State :=
  ((((s.set RED_LAST_ERR.CODE code).set RED_LAST_ERR.VALID 1).set RED_LAST_ERR.UNIT unit).set RED_LAST_ERR.TID tid).set
    RED_LAST_ERR.TICK s.tick

def redDetail (s : State) (code unit tid : Nat) : Nat :=
  code + 2 ^ 3 + unit * 2 ^ 4 + tid * 2 ^ 16 + (s.tick % 2 ^ 32) * 2 ^ 32

/-- An entry for a reduction event (Table 11.4). -/
def redEvent (s : State) (event level action code unit tid : Nat) : LogEvent :=
  { region := regionRED, event := event, level := level, action := action, block := unit
    detail := if code = 0 then 0 else redDetail s code unit tid }

/-- The most combines of a group member fit these counters (R353): REDUCEs that may be incomplete at once. -/
def redLimit : Nat := 64

/-! Issue (R276, R345). -/

def redRefuse (s : State) : Issue :=
  .refuse 5 true ((s.count RED_OP_REFUSED_CNT 1).log { region := regionRED, event := 9, level := 2, action := 2 })

/-- The deadline adjustment of a group in force. -/
def adjOf (s : State) (g : Nat) : Int := s.lnk.adj.getD g 0

def runReduce (q : Fin 4) (i : SeqInsn) (s : State) : Issue :=
  match i with
  | .reduce doff src dst group late tid deadline =>
    let a := effDesc s q doff 0 src
    let b := effDesc s q doff 1 dst
    (match namedDesc s a, namedDesc s b with
     | none, _ => refuseNoDesc s RED_OP_REFUSED_CNT a
     | _, none => refuseNoDesc s RED_OP_REFUSED_CNT b
     | some d, some e =>
       if d.cls ≠ Desc.clsLink ∨ e.cls ≠ Desc.clsResult ∨ (e.fmt ≠ 0 ∧ e.fmt ≠ 10) ∨ (e.layout ≠ 1 ∧ e.layout ≠ 2)
           ∨ d.sizes ≠ e.sizes ∨ 16 * e.tiles > 2 ^ 28 ∨ (redAt s tid).isSome ∨ redMask s group = 0 then redRefuse s
       else if s.reduces.length ≥ redLimit then .wait s
       else match gate s q (Work.ofDescs s { link := 16 * 136 * e.tiles } [a, b]) with
         | (none, t) => .wait t
         | (some typ, t) =>
           let id := t.red.next
           let r := raceWith t { seqr := q.val, reads := [a], writes := [b] }
           let op : ReduceOp :=
             { id := id, src := a, dst := b, group := group, late := late, tid := tid
               deadline := Int.ofNat (t.step.sched + deadline) + adjOf t group, step := t.step.number, formed := 0
               closed := false, inputs := [], fired := [], results := [], written := [], done := []
               acq := Acq.none 8, acqW := Acq.none 8, partials := false, lastFire := 0
               open_ := r.1 || descsMeet t d e, energy := typ }
           let t := r.2.newOp (2 ^ 20 + id)
           .issued (issuedNext { t with reduces := t.reduces ++ [op], red := { t.red with next := id + 1 } } q))
  | _ => .wait s

/-- REDUCE. -/
def execReduce (q : Fin 4) (s : State) : Host.Outcome State Fault Refusal :=
  .next (tryIssue s q .other (fun i => i matches .reduce ..) (runReduce q))

/-! Slots, tile by tile (R206 to R208). -/

/-- The synchronised accesses to the slots of one tile. -/
def redUses (s : State) (d : Desc) (k : Nat) (write : Bool) : List SlotUse := placeUses s d [d.posOf k] write

/-- The tiles of a tensor whose accesses touch a slot. -/
def slotTiles (s : State) (d : Desc) (u : SlotUse) : List Nat := (List.range d.tiles).filter (fun k => (redUses s d k u.write).contains u)

/-! Sending (R333). -/

/-- A block joins the last packet that waits to be sent on its channel, when that one carries blocks of the same REDUCE and phase and has room; `q` is the
queue, newest first. [DEDUCED, log entry 70] -/
def joinBlock (x : TxPkt) : List TxPkt → Option (List TxPkt)
  | [] => none
  | y :: ys =>
    if y.vc = x.vc then
      let n := bits y.pkt.hdr1 17 5
      if y.sent = 0 ∧ n < 30 ∧ y.pkt.dest = x.pkt.dest ∧ setBits y.pkt.hdr1 17 5 1 = x.pkt.hdr1 then
        some ({ y with pkt := Packet.make y.pkt.dest y.pkt.src 11 false true (setBits y.pkt.hdr1 17 5 (n + 1))
                         (y.pkt.data.take (136 * n) ++ x.pkt.data.take 136) } :: ys)
      else none
    else (joinBlock x ys).map (y :: ·)

/-- A block sent in a direction, on the port of its pair that its index gives, on the other when that one is unusable, in a packet with other blocks of
that port. [DEDUCED, log entry 70] -/
def sendBlock (s : State) (g d : Nat) (tid step : Nat) (down : Bool) (b : G16) : State :=
  match s.lnk.topo with
  | none => s
  | some t =>
    let s := s.count RED_BLOCK_SENT_CNT 1
    let d := redDir s t g d
    let id := t.idAt (t.neighbour (ownPos s) d)
    if s.lnk.lost.contains d then noRoute s (2 * d) id
    else
      let x : TxPkt :=
        { vc := 2 + g, cls := 0
          pkt := Packet.make id s.lnk.ownId 11 false true
            (tid + b2n down * 2 ^ 16 + 1 * 2 ^ 17 + (step % 2 ^ 32) * 2 ^ 32) b.bytes
          sent := 0, lastSeq := 0, xfer := none }
      let a := 2 * d + (b.block / 30) % 2
      let o := 2 * d + (b.block / 30 + 1) % 2
      let n := portNo (if portUsable s a x.vc then a else o)
      match (if portUsable s a x.vc || portUsable s o x.vc then joinBlock x (s.port n).txq.reverse else none) with
      | some q => s.setPort n { s.port n with txq := q.reverse }
      | none => sendDir s d (b.block / 30) x

/-- A result sent to every child. -/
def sendDown (s : State) (op : ReduceOp) (b : G16) : State :=
  (redChildren s op.group).foldl (fun s c => sendBlock s op.group c.2 op.tid op.step true b) s

/-! Results (R346, R351). -/

/-- The result-info entry of a block (Table 11.3). -/
def infoWord (b : G16) : Nat :=
  (if b.lost then 0 else b.count) + b2n b.sat * 2 ^ 16 + b2n b.carry * 2 ^ 17 + b2n b.isPartial * 2 ^ 18 + b2n b.lost * 2 ^ 19

/-- A REDUCE's channels: operand 0 reads SRC, operand 1 writes DST. -/
def redChan (op : ReduceOp) (d : Desc) (n : Nat) : Chan := d.chan .normal (channel (2 ^ 20 + op.id) 0 n)

/-- The values of a result block's elements; open ones where the operation's result is unspecified. -/
def resultVals (op : ReduceOp) (b : G16) : List Val :=
  if op.open_ then openVals (2 ^ 64 * (op.id + 1) + b.block) 64 else (List.range 64).map b.val

/-- A result block written to DST, with its info entry. Over a block that the operation has written at the same place either may survive (R183). -/
def writeBlock (s : State) (op : ReduceOp) (d : Desc) (b : G16) : State :=
  let k := b.block / 16
  let j := b.block % 16
  let p := d.posOf k
  let vals := resultVals op b
  let o : OutTile :=
    { elems := (List.range 1024).map (fun e =>
        match d.format.fp with
        | some f => if e / 64 = j then (f.encode .rne 0 (vals.getD (e % 64) Val.zero)).1 else 0
        | none => 0)
      scales := [], conv := s.conv regionRED }
  let js := (List.range d.tiles).filter (fun i =>
    i != k && d.tileDist (d.posOf i) == d.tileDist p && (op.done.contains i || op.written.contains (16 * i + j)))
  let v := survivesOver s d js (fun _ e => e / 64 == j)
  let s := writeTile v.2 d (redChan op d 1) p o (fun e => e / 64 == j && d.inSize p e && v.1 e)
  tagWrite s (rawChan s d.auxTag) (Int.ofNat (d.auxOffset * 4096 + 8 * d.tiles + 4 * b.block)) (toBytes 4 (infoWord b))

/-- The tally record of a tile whose sixteen blocks have been written: every value is exact in its format, and one below the smallest normal
number counts as subnormal (R61, R68). -/
def writeRedTally (s : State) (op : ReduceOp) (d : Desc) (k : Nat) : State :=
  let p := d.posOf k
  let blocks := (List.range 16).map (fun j => ((FMap.find op.results (16 * k + j)).map (resultVals op)).getD [])
  let vals := insideVals (d.inSize p) ((List.range 1024).map (fun e => (blocks.getD (e / 64) []).getD (e % 64) Val.zero))
  let o := d.tileOff p
  let stale := op.acq.stale || op.acqW.staleAt d.tag (if d.sync then slotsOf (tagEntry s d.tag) o.toNat (o + Int.ofNat d.unit).toNat else [])
  let ev := match d.format.fp with
    | some f => NumEvents.ofCats (vals.map (fun v => (f.encode .rne 0 v).2))
    | none => .none
  writeTally s d k (Tally.ofTile d.format (s.cvt regionRED 0) stale vals ev)

/-- The results at hand of one tile written, each of them an access to its slots (R210), once those admit it, and the tile's record when all are; then the slots every tile of which is
complete close (R208, R346). -/
def settleTile (r : ReduceOp × State) (d : Desc) (k : Nat) : ReduceOp × State :=
  let new := (List.range 16).filterMap (fun j =>
    if r.1.written.contains (16 * k + j) then none else FMap.find r.1.results (16 * k + j))
  if r.1.acqW.needs ≠ [] ∨ new = [] then r
  else
    let uses := redUses r.2 d k true
    let a := askSlots r.2 r.1.acqW uses
    let op := { r.1 with acqW := a.1 }
    if a.1.needs ≠ [] then (op, a.2)
    else
      let s := new.foldl (fun s b => writeBlock (countForeign s a.1.unit uses) op d b) a.2
      let op := { op with written := op.written ++ new.map (·.block) }
      if (List.range 16).all (fun j => op.written.contains (16 * k + j)) then
        let s := writeRedTally s op d k
        let op := { op with
          done := k :: op.done, written := op.written.filter (fun b => b / 16 != k)
          results := FMap.drop op.results (fun b => b / 16 == k) }
        let f := release s op.acqW (fun u => (slotTiles s d u).all op.done.contains)
        ({ op with acqW := f.1 }, f.2)
      else (op, s)

/-- Results at hand written, tile by tile, as far as DST's slots admit. -/
def settleResults (s : State) (op : ReduceOp) : State :=
  match descAt s op.dst with
  | none => s
  | some d =>
    let tiles := (op.results.map (fun e => e.1 / 16)).eraseDups
    let r := tiles.foldl (fun r k => settleTile r d k) (op, s)
    putRed r.2 r.1

/-- A block's result has been decided and is to be written. -/
def hasResult (op : ReduceOp) (b : Nat) : Bool :=
  op.done.contains (b / 16) || (FMap.find op.results b).isSome

/-- A result taken on this module and sent to its children. -/
def takeResult (s : State) (op : ReduceOp) (b : G16) : State :=
  let op := { op with results := FMap.put op.results b.block b, partials := op.partials || b.isPartial }
  settleResults (sendDown (putRed s op) op b) op

/-! Lateness and carry-in (R349, R350). -/

/-- The carry-in tag, and the entries that each half of it holds. -/
def carryArea (s : State) : Option (Nat × Nat) :=
  let t := imgField s 7 2 2
  if imgSection s 7 = [] ∨ t = 0xFFFF then none else some (t % 4096, (tagEntry s (t % 4096)).bytes / 288)

/-- The offset of an entry within the carry-in tag. -/
def carryOff (s : State) (tag half place : Nat) : Int :=
  Int.ofNat (half * ((tagEntry s tag).bytes / 2) + place * 144)

/-- A late input: carried into the next step, or dropped. [DEDUCED, log entry 76] -/
def lateInput (s : State) (id tid step : Nat) (late : Bool) (b : G16) : State :=
  let s := (s.inOp (2 ^ 20 + id)).logOnce 7 (redEvent s 7 1 2 0 0 tid)
  let drop := s.count RED_LATE_DROP_CNT 1
  if late then drop
  else match carryArea s with
    | none => drop
    | some (tag, n) =>
      let half := step % 2
      let used := (s.red.carry.filter (fun e => e.half == half)).map (·.place)
      match (List.range (min n (used.length + 1))).find? (fun i => !used.contains i) with
      | none => drop
      | some place =>
        let s := tagWrite s (rawChan s tag) (carryOff s tag half place)
          (toBytes 8 (tid + 2 ^ 16 + (step % 2 ^ 32) * 2 ^ 32) ++ b.bytes)
        ({ s with red := { s.red with
            carry := s.red.carry ++ [(⟨half, place, tid, b.block, step⟩ : CarryEntry)] } }).count
          RED_LATE_CARRY_CNT 1

/-- The carried entries for a block, taken as inputs; their VALID bits are cleared. -/
def takeCarried (s : State) (op : ReduceOp) (block : Nat) : List G16 × State :=
  match carryArea s with
  | none => ([], s)
  | some (tag, _) =>
    let mine := fun (e : CarryEntry) => e.tid == op.tid && e.block == block && e.step + 1 == op.step
    let es := s.red.carry.filter mine
    es.foldl (fun (r : List G16 × State) (e : CarryEntry) =>
      let off := carryOff r.2 tag e.half e.place
      let x := tagRead r.2 (rawChan r.2 tag) (off + 8) 136
      let s := tagWrite x.2 (rawChan x.2 tag) off (toBytes 8 (op.tid + (e.step % 2 ^ 32) * 2 ^ 32))
      (r.1 ++ [G16.ofBytes x.1], s))
      ([], { s with red := { s.red with carry := s.red.carry.filter (fun e => !mine e) } })

/-- A half of the carry-in area cleared: each entry still valid is dropped and counted (R350). -/
def clearCarry (s : State) (p : Nat → Bool) : State :=
  let es := s.red.carry.filter (fun e => p e.half)
  let s := match carryArea s with
    | none => s
    | some (tag, _) =>
      es.foldl (fun (s : State) (e : CarryEntry) => tagWrite s (rawChan s tag) (carryOff s tag e.half e.place)
        (toBytes 8 (e.tid + (e.step % 2 ^ 32) * 2 ^ 32))) s
  ({ s with red := { s.red with carry := s.red.carry.filter (fun e => !p e.half) } }).count RED_LATE_DROP_CNT es.length

/-! Combining (R339 to R343). -/

/-- What rounding adds to the floor `q` of a value whose last `n` bits are `t`: to nearest even where the region's conversions are so forced
(R67), else stochastically with the number `r` (R340). -/
def roundUpBy (near : Bool) (q : Int) (t n r : Nat) : Int :=
  if near then (if 2 * t > 2 ^ n ∨ (2 * t = 2 ^ n ∧ q % 2 = 1) then 1 else 0)
  else if topDiscarded t n + r ≥ 65536 then 1 else 0

/-- Elements narrowed by `n` places, each on its lane (R340): the results, the discarded values, and the generators. -/
def narrow (near : Bool) (lane : Nat) (n : Nat) : List Int → Gens → List Int × List Int × Gens
  | [], g => ([], [], g)
  | w :: ws, g =>
    if n = 0 then
      let r := narrow near lane n ws g
      (w :: r.1, 0 :: r.2.1, r.2.2)
    else
      let x := if near then (0, g) else g.draw lane
      let q := w / 2 ^ n
      let t := (w % 2 ^ n).toNat
      let u := roundUpBy near q t n x.1
      let r := narrow near (lane + 1) n ws x.2
      ((q + u) :: r.1, (Int.ofNat t - u * 2 ^ n) :: r.2.1, r.2.2)

/-- The places by which a sum is narrowed: the fewest that let every element fit 16 bits (R341). -/
def narrowBy (ws : List Int) : Nat :=
  ((List.range 12).find? (fun k => ws.all (fun w =>
    decide (-(2 ^ (15 + k) : Int) ≤ w) && decide (w ≤ (2 ^ 15 - 1) * 2 ^ k)))).getD 12

/-- Elements of two blocks added. -/
def addElems (a b : List Int) : List Int := List.zipWith (· + ·) a b

/-- Inputs aligned to the exponent `ea`: for each, its elements and whether it passes the input check (R342). -/
def alignInputs (near : Bool) (lane ea : Nat) : List G16 → Gens → List (List Int × Bool) × Gens
  | [], g => ([], g)
  | b :: bs, g =>
    if b.withheld then
      let r := alignInputs near lane ea bs g
      ((G16.zeros, b.res == 0 && b.q.all (· == 0)) :: r.1, r.2)
    else
      let d := ea - b.exp
      let x := narrow near lane d b.q g
      let ok := (residue x.1 * 2 ^ (d % 7) + residue x.2.1) % 127 == b.res
      let r := alignInputs near lane ea bs x.2.2
      ((x.1, ok) :: r.1, r.2)

/-- The flags of a combine's output (R339): those of its inputs, CARRY for a carried entry among them, PARTIAL for an expected input that was absent or
excluded. -/
def withFlags (absent carried : Bool) (ins : List G16) (b : G16) : G16 :=
  { b with sat := ins.any (·.sat), carry := carried || ins.any (·.carry), isPartial := absent || ins.any (·.isPartial) }

/-- The numeric events of a combine's output: the elements lost to an exponent beyond 254 (R341), and those that narrowing made 0 (R73). -/
structure SumEvents where
  inf : Nat
  ftz : Nat
  deriving DecidableEq, Repr

/-- One attempt at a combine on the lanes of an adder: the output block, the places of the inputs that fail their check, its events, and the
generators. `near` says that the region rounds to nearest even, `absent` that an expected input was absent or excluded, `carried` that a carried entry is
among the inputs. [DESIGN CHOICE, log entry 75] -/
def attempt (near : Bool) (lane block : Nat) (absent carried : Bool) (ins : List G16) (g : Gens) : G16 × List Nat × SumEvents × Gens :=
  let ea := (ins.filter (fun b => !b.withheld)).foldl (fun e b => max e b.exp) 0
  let al := alignInputs near lane ea ins g
  let bad := (al.1.zipIdx.filter (fun x => !x.1.2)).map (·.2)
  if ins.all (·.withheld) then (withFlags absent carried ins (G16.none block), bad, ⟨0, 0⟩, al.2)
  else
    let w := al.1.foldl (fun acc x => addElems acc x.1) G16.zeros
    let k := narrowBy w
    let n := narrow near lane k w al.2
    if ea + k > 254 then (withFlags true carried ins (G16.none block), bad, ⟨64, 0⟩, n.2.2)
    else
      (withFlags absent carried ins
        { G16.none block with
          exp := ea + k, res := residue n.1, withheld := false
          count := min 65535 (ins.foldl (fun c b => c + b.count) 0), q := n.1 }, bad,
        ⟨0, (List.zipWith (fun x y => b2n (x != 0 && y == 0)) w n.1).sum⟩, n.2.2)

/-- The inputs not at the given places. -/
def without (ins : List G16) (bad : List Nat) : List G16 :=
  (ins.zipIdx.filter (fun x => !bad.contains x.2)).map (·.1)

/-- The generators of RED's lanes kept. -/
def keepGens (s : State) (g : Gens) : State := { s with genLanes := FMap.put s.genLanes regionRED g.lanes }

def redGens (s : State) : Gens := (s.conv regionRED).gens

/-- RED's conversions round to nearest even (R67). -/
def redNear (s : State) : Bool := s.held (numForce regionRED) == 1

/-- The inputs that fail their check in attempt `i`: those of wrong residue, and one in whose reading or alignment a fault strikes. -/
def failing (n : Nat) (hw : List Nat) (i : Nat) (bad : List Nat) : List Nat :=
  let f := hw.getD i 0
  if 4 ≤ f ∧ f - 4 < n ∧ !bad.contains (f - 4) then bad ++ [f - 4] else bad

/-- A combine with its recomputations (R343). `port` is the adder's, none for the local combiner. `hw` gives, attempt by attempt, a fault
of the circuits: 0 none, 2 one that the sum check finds, 3 one that the narrowing check finds, 4 + `i` one that the check of input `i` finds. -/
def combine3 (s : State) (port : Option Nat) (tid block : Nat) (absent carried : Bool) (ins : List G16) (hw : List Nat) :
    G16 × State :=
  let failing := failing ins.length hw
  let fault := fun (i : Nat) (bad : List Nat) => if failing i bad ≠ [] then 1 else if hw.getD i 0 < 4 then hw.getD i 0 else 0
  let unit := port.getD 16
  let lane := match port with | some n => 4096 + 64 * n | none => 5120
  let sumEvents := fun (s : State) (e : SumEvents) => (s.count (numInf regionRED) e.inf).count (numFtz regionRED) e.ftz
  let a := attempt (redNear s) lane block absent carried ins (redGens s)
  let s := keepGens s a.2.2.2
  if fault 0 a.2.1 = 0 then (a.1, sumEvents s a.2.2.1)
  else
    let s := setRedLastErr ((s.count RED_RES_FAIL_CNT 1).count RED_RECOMPUTE_CNT 1) (fault 0 a.2.1) unit tid
    let b := attempt (redNear s) lane block absent carried ins (redGens s)
    let s := keepGens s b.2.2.2
    if fault 1 b.2.1 = 0 then (b.1, sumEvents s b.2.2.1)
    else
      let s := setRedLastErr (s.count RED_RES_FAIL_CNT 1) (fault 1 b.2.1) unit tid
      let gone := failing 1 b.2.1
      if gone ≠ [] then
        let s := (s.count RED_INPUT_DROP_CNT gone.length).log (redEvent s 1 1 1 1 unit tid)
        let c := attempt (redNear s) lane block true carried (without ins gone) (redGens s)
        (c.1, sumEvents (keepGens s c.2.2.2) c.2.2.1)
      else
        let c := attempt (redNear s) 5120 block absent carried ins (redGens s)
        let s := keepGens s c.2.2.2
        if fault 2 [] = 0 then
          let s := match port with
            | some n => setRedLastErr (s.set RED_STATUS.ADDER_FAIL (s.get RED_STATUS.ADDER_FAIL ||| 2 ^ n)) 4 n tid
            | none => s
          (c.1, sumEvents (s.escalate (redEvent s 2 2 0 4 unit tid)) c.2.2.1)
        else
          let s := setRedLastErr ((s.count RED_RES_FAIL_CNT 1).set RED_STATUS.COMB_FAIL 1) (fault 2 []) 16 tid
          (withFlags true carried ins (G16.none block), s.escalate (redEvent s 2 2 2 (fault 2 []) 16 tid))

/-- The port whose adder combines a block below the root (R333); none at the root and where that adder has failed. -/
def adderPort (s : State) (g block : Nat) : Option Nat :=
  match s.lnk.topo with
  | none => none
  | some t =>
    match t.parentDir (t.redMask g) (ownPos s) with
    | none => none
    | some d =>
      let d := redDir s t g d
      let a := 2 * d + (block / 30) % 2
      let b := 2 * d + (block / 30 + 1) % 2
      let n := if portUsable s a (2 + g) || !portUsable s b (2 + g) then a else b
      if bit (s.get RED_STATUS.ADDER_FAIL) n then none else some n

/-- The combine of a block fires with the inputs present (R339). [DESIGN CHOICE, log entry 75] -/
def fire (s : State) (op : ReduceOp) (block : Nat) (hw : List Nat) : State :=
  let ins := (FMap.find op.inputs block).getD []
  let whos := 0 :: (redChildren s op.group).map (·.1)
  let absent := !whos.all (fun w => ins.any (fun x => x.who == w))
  -- own block, then children by position, then carried entries
  let ordered := whos.filterMap (fun w => (ins.find? (fun x => x.who == w)).map (·.blk))
  let c := takeCarried s op block
  let root := isRoot s op.group
  let port := if root then none else adderPort s op.group block
  let s := freeBlocks c.2 op.group ins
  let r := combine3 s port op.tid block absent (c.1 ≠ []) (ordered ++ c.1) hw
  let s := r.2.count RED_COMBINE_CNT 1
  let op := { op with
    inputs := FMap.del op.inputs block, fired := block :: op.fired, lastFire := Int.ofNat s.tick }
  let s := putRed s op
  if root then takeResult s op r.1
  else match s.lnk.topo.bind (fun t => t.parentDir (t.redMask op.group) (ownPos s)) with
    | none => s
    | some d => sendBlock s op.group d op.tid op.step false r.1

/-- Every expected input of a block is present (R332). -/
def inputsPresent (s : State) (op : ReduceOp) (block : Nat) : Bool :=
  let ins := (FMap.find op.inputs block).getD []
  (0 :: (redChildren s op.group).map (·.1)).all (fun w => ins.any (fun x => x.who == w))

/-- An input arrives: kept for its combine, or late (R349). A source block that a REDUCE forms after it has completed has no combine to wait for. -/
def takeInput (s : State) (op : ReduceOp) (x : RedInput) : State :=
  if op.fired.contains x.blk.block then
    lateInput (freeBlocks s op.group [x]) op.id op.tid op.step op.late x.blk
  else
    let old := ((FMap.find op.inputs x.blk.block).getD []).filter (fun y => y.who != x.who)
    putRed s { op with inputs := FMap.put op.inputs x.blk.block (old ++ [x]) }

/-- The block may fire: every expected input is present (R339), and no lower block could fire before it (R334); a cut-off member fires none (R446).
[DEDUCED, log entry 154] -/
def mayFire (s : State) (op : ReduceOp) (block : Nat) : Bool :=
  decide (block < redBlocks s op) && !op.fired.contains block && !isCut s op.group && inputsPresent s op block
    && (List.range block).all (fun b => op.fired.contains b || !inputsPresent s op b)

/-- COMBINE_FIRE. [DEDUCED, log entry 154] -/
def execCombineFire (tid : BitVec 16) (block : Nat) (hw : List Nat) (s : State) : Host.Outcome State Fault Refusal :=
  .next (match redAt s tid.toNat with
    | none => s
    | some op =>
      if mayFire s op block then fire s op block hw else s)

/-! Source blocks (R335 to R338). -/

/-- The exponent under which the blocks of a tile are formed (R336). -/
def sourceExp (s : State) (op : ReduceOp) (k : Nat) : Nat × State :=
  let n := if (FMap.find s.red.history op.tid).isSome then op.dst else op.src
  match descAt s n with
  | none => (1, s)
  | some d =>
    let r := tagWord s d.auxTag (Int.ofNat (d.tallyOff k)) 8
    let m := (Tally.decode r.1).maxexp
    (if m = 0 then 1 else min 254 (m + 1 + s.held RED_CFG.MARGIN), r.2)

/-- One element converted (R337): its significand, whether it was clamped, whether it became 0, and the generators. -/
def sourceElem (near : Bool) (e : Nat) (lane : Nat) (v : Val) (g : Gens) : Int × Bool × Bool × Gens :=
  let r := if near then (0, g) else g.draw lane
  match v.scale (142 - Int.ofNat e) with
  | .fin neg m x =>
    let i : Int := if neg then -Int.ofNat m else Int.ofNat m
    let d := (-x).toNat
    let fl : Int := if 0 ≤ x then i * 2 ^ x.toNat else i / 2 ^ d
    let t := if 0 ≤ x then 0 else (i % 2 ^ d).toNat
    let q := fl + roundUpBy near fl t d r.1
    let c := max (-32768) (min 32767 q)
    (c, c != q, m != 0 && c == 0, r.2)
  | _ => (0, false, false, r.2)

def sourceElems (near : Bool) (e : Nat) : Nat → List Val → Gens → List Int × Nat × Nat × Gens
  | _, [], g => ([], 0, 0, g)
  | lane, v :: vs, g =>
    let a := sourceElem near e lane v g
    let r := sourceElems near e (lane + 1) vs a.2.2.2
    (a.1 :: r.1, b2n a.2.1 + r.2.1, b2n a.2.2.1 + r.2.2.1, r.2.2.2)

/-- A withheld source block, counted (R338, R442). -/
def withhold (s : State) (op : ReduceOp) (block : Nat) : G16 × State :=
  let s := setRedLastErr (s.count RED_WITHHELD_CNT 1) 6 16 op.tid
  (G16.none block, (s.inOp (2 ^ 20 + op.id)).logOnce 4 (redEvent s 4 1 2 6 16 op.tid))

/-- The elements of source block `b` as the local combiner reads them, padding as +0; open ones where the operation's result is unspecified. -/
def sourceVals (s : State) (op : ReduceOp) (d : Desc) (b : Nat) : List Val × State :=
  let p := d.posOf (b / 16)
  let r := tagRead s (redChan op d 0) (d.tileOff p + Int.ofNat (128 * (b % 16))) 128
  let f := if op.open_ then r.2.fresh else (0, r.2)
  let raw := if op.open_ then (openVals f.1 64).map (fun v => FpFmt.bf16.decode (FpFmt.bf16.encode .rne 0 v).1)
    else (List.range 64).map (fun i => FpFmt.bf16.decode (bitsOf r.1 (16 * i) 16))
  (raw.zipIdx.map (fun x => if d.inSize p (64 * (b % 16) + x.2) then x.1 else Val.zero), f.2)

/-- The source block `b` of a REDUCE. -/
def formBlock (s : State) (op : ReduceOp) (d : Desc) (b : Nat) : G16 × State :=
  let r := sourceVals s op d b
  if r.2.lnk.standing ∨ r.1.any (fun v => !v.isFin) then withhold r.2 op b
  else
    let e := sourceExp r.2 op (b / 16)
    let x := sourceElems (redNear s) e.1 5120 r.1 (redGens e.2)
    let s := keepGens e.2 x.2.2.2
    let s := (s.count (numSat regionRED) x.2.1).count (numFtz regionRED) x.2.2.1
    ({ exp := e.1, res := residue x.1, withheld := false, sat := decide (x.2.1 > 0), carry := false, isPartial := false
       lost := false, count := 1, block := b, q := x.1 }, s)

/-- A block formed joins its combine; one that its REDUCE, now complete, still forms is late if its combine has fired, and of no use otherwise.
[DEDUCED, log entry 76] -/
def offerBlock (s : State) (op : ReduceOp) (b : G16) : State :=
  if op.fired.contains b.block ∨ s.reduces.any (fun x => x.id == op.id) then takeInput s op { who := 0, port := none, blk := b } else s

/-- After the last block of a tile the slots that no later tile reads drain (R208, R335), and after the last block of all a complete REDUCE is gone. -/
def leaveTile (s : State) (op : ReduceOp) (d : Desc) : State :=
  if op.formed % 16 ≠ 0 then s
  else
    match srcAt s op.tid with
    | none => s
    | some op =>
      let f := release s op.acq (fun u => (slotTiles s d u).all (fun k => decide (k < op.formed / 16)))
      let s := putRed f.2 { op with acq := f.1 }
      if op.formed ≥ 16 * d.tiles then { s with red := { s.red with forming := s.red.forming.filter (fun x => x.id != op.id) } } else s

/-- The next source block of a REDUCE, once the slots of its tile admit the read (R335). -/
def formNext (s : State) (op : ReduceOp) : State :=
  match descAt s op.src with
  | none => s
  | some d =>
    if op.formed ≥ 16 * d.tiles ∨ op.acq.needs ≠ [] then s
    else
      let s := s.inOp (2 ^ 20 + op.id)
      let a := acquire s op.acq (redUses s d (op.formed / 16) false)
      let op := { op with acq := a.1 }
      if a.1.needs ≠ [] then putRed a.2 op
      else
        let b := formBlock a.2 op d op.formed
        let op := { op with formed := op.formed + 1 }
        leaveTile (offerBlock (putRed b.2 op) op b.1) op d

/-- SOURCE_BLOCK_FORM. -/
def execSourceBlockForm (tid : BitVec 16) (s : State) : Host.Outcome State Fault Refusal :=
  .next (match srcAt s tid.toNat with
    | none => s
    | some op => formNext s op)

/-! Closes, missing results and completion (R348, R351). -/

/-- REDUCE_CLOSE: at the member's close every combine that has not fired fires; a cut-off member fires none. The command gives, by block, the faults of
the circuits, attempt by attempt. [DEDUCED, log entry 154] -/
def execReduceClose (c : CloseFire) (s : State) : Host.Outcome State Fault Refusal :=
  .next (match redAt s c.tid.toNat with
    | none => s
    | some op =>
      let close := op.deadline - Int.ofNat (closeDepth s op.group * s.held RED_CFG.HOP_TICKS)
      if op.closed ∨ Int.ofNat s.tick < close then s
      else
        let s := putRed s { op with closed := true }
        if isCut s op.group then s
        else
          (List.range (redBlocks s op)).foldl (fun s b =>
            match redAt s c.tid.toNat with
            | none => s
            | some op => if op.fired.contains b then s else fire s op b ((FMap.find c.hw b).getD [])) s)

/-- RESULT_MISSING: results that have not arrived RED_CFG.RESULT_WAIT ticks after the deadline are written MISSING. -/
def execResultMissing (tid : BitVec 16) (s : State) : Host.Outcome State Fault Refusal :=
  .next (match redAt s tid.toNat with
    | none => s
    | some op =>
      if Int.ofNat s.tick < op.deadline + Int.ofNat (max 1 (s.held RED_CFG.RESULT_WAIT)) then s
      else
        let gone := (List.range (redBlocks s op)).filter (fun b => !hasResult op b)
        if gone = [] then s
        else
          let s := setRedLastErr (s.count RED_MISSING_CNT gone.length) 7 16 op.tid
          let s := (s.inOp (2 ^ 20 + op.id)).logOnce 8 (redEvent s 8 2 2 7 16 op.tid)
          let op := { op with results := gone.foldl (fun m b => FMap.put m b (G16.gone b)) op.results }
          settleResults (putRed s op) op)

/-- A REDUCE leaves the list of the incomplete; what its group's ringmaster reviews is noted (R352). -/
def doneReduce (s : State) (op : ReduceOp) : State :=
  let margin := op.deadline - op.lastFire
  let s := freeInputs s op
  let red := { s.red with
    forming := if op.formed < redBlocks s op then s.red.forming ++ [{ op with inputs := [], results := [], written := [] }] else s.red.forming
    history := FMap.put s.red.history op.tid (op.late, op.step, op.id)
    partials := if op.partials && !s.red.partials.contains op.group then op.group :: s.red.partials else s.red.partials
    margins := FMap.put s.red.margins op.group
      (match FMap.find s.red.margins op.group with | some m => min m margin | none => margin) }
  noteDone (({ s with reduces := s.reduces.filter (fun x => x.id != op.id), red := red }).count RED_REDUCE_CNT 1) op.energy

/-- REDUCE_COMPLETE: every block of DST has been written. [DEDUCED, log entry 76] -/
def execReduceComplete (tid : BitVec 16) (s : State) : Host.Outcome State Fault Refusal :=
  .next (match redAt s tid.toNat with
    | none => s
    | some op => if 16 * op.done.length < redBlocks s op then s else doneReduce s op)

/-! Blocks received (R330, R344, R349). -/

/-- The blocks of a G16 packet. [DEDUCED, log entry 70] -/
def packetBlocks (p : Packet) : List G16 :=
  (List.range (bits p.hdr1 17 5)).map (fun i => G16.ofBytes ((p.data.drop (136 * i)).take 136))

/-- A down-phase block (R344): checked, re-read once, written as a result or as LOST, and passed on; one that comes LOST goes on unchanged (R331). `upset` is a first check that
fails and a re-read that does not. -/
def takeDown (s : State) (op : ReduceOp) (port : Nat) (upset : Bool) (b : G16) : State :=
  if hasResult op b.block ∨ b.block ≥ redBlocks s op then s.count RED_LATE_DROP_CNT 1
  else
    let bad := residue b.q != b.res
    let s := if upset || bad then setRedLastErr (s.count RED_RES_FAIL_CNT (if bad then 2 else 1)) 5 port op.tid else s
    if bad then takeResult (s.count RED_MISSING_CNT 1) op (G16.gone b.block)
    else takeResult (if b.lost then s.count RED_MISSING_CNT 1 else s) op b

/-- A block of a REDUCE that is complete: late where its combine here has fired, and of no use, without a count, on a member that is cut off
(R349, R446). -/
def takeLate (s : State) (g tid step : Nat) (down : Bool) (b : G16) : State :=
  match FMap.find s.red.history tid with
  | some (late, st, id) =>
    if down || st % 2 ^ 32 != step then s.count RED_LATE_DROP_CNT 1
    else if isCut s g then s
    else lateInput s id tid st late b
  | none => s.count RED_LATE_DROP_CNT 1

/-- One block of a packet of step `step`. -/
def takeBlock (s : State) (g : Nat) (port src tid step : Nat) (down upset : Bool) (b : G16) : State :=
  let free := fun (s : State) => freeBlocks s g [{ who := 0, port := some port, blk := b }]
  match redAt s tid with
  | some op =>
    if op.step % 2 ^ 32 ≠ step then takeLate (free s) g tid step down b
    else if down then takeDown (free s) op port upset b
    else
      let who := ((s.lnk.topo.bind (fun t => t.posOf src)).map (· + 1)).getD 0
      if isCut s g ∨ !((redChildren s g).any (fun c => c.1 == who)) ∨ b.block ≥ redBlocks s op then free s
      else takeInput s op { who := who, port := some port, blk := b }
  | none => takeLate (free s) g tid step down b

/-- A G16 packet waits in its buffer: its REDUCE of the running step has not been issued here yet (R353). -/
def mustWait (s : State) (tid step : Nat) : Bool :=
  step == s.step.number % 2 ^ 32 && (redAt s tid).isNone
    && (match FMap.find s.red.history tid with
        | some (_, st, _) => st % 2 ^ 32 != step
        | none => true)

/-- A G16 packet that may be taken: one that waits keeps back its own channel alone (R353). -/
def isG16 (s : State) (x : RxPkt) : Bool := isType 11 x && !mustWait s (bits x.pkt.hdr1 0 16) (bits x.pkt.hdr1 32 32)

/-- G16: the packet at the head of a reduction channel of a port. -/
def execG16 (n : Fin 16) (upset : Bool) (s : State) : Host.Outcome State Fault Refusal :=
  .next (match peekRx s n (isG16 s) with
    | none => s
    | some x =>
      let tid := bits x.pkt.hdr1 0 16
      let step := bits x.pkt.hdr1 32 32
      let now := s.step.number % 2 ^ 32
      let bs := packetBlocks x.pkt
      let t := takeRx s n (isG16 s)
      if step ≠ now ∧ (step + 1) % 2 ^ 32 ≠ now then t.count RED_LATE_DROP_CNT bs.length
      else
        -- the blocks keep their place in the receive buffer until they are done with
        let key := vcKey x.vc x.cls
        let p := s.port n
        let q := { p with inbox := (t.port n).inbox }
        let t := s.setPort n (q.free key (x.pkt.bytes.length - 136 * bs.length))
        bs.foldl (fun s b => takeBlock s (x.vc - 2) n x.pkt.src tid step (bit x.pkt.hdr1 16) upset b) t)

/-! The review of a completed step (R352). -/

/-- What the steps' results say of each group is set aside for review when a step completes. [DEDUCED, log entry 77] -/
def noteStepEnd (s : State) : State :=
  let r := s.red
  { s with red := { r with
      review := r.review ++ r.margins.map (fun m => (m.1, s.step.number, r.partials.contains m.1, some m.2))
      partials := [], margins := [] } }

/-- The latest adjustment of a group: the one to come, else the one in force. -/
def adjLatest (s : State) (g : Nat) : Int :=
  ((s.lnk.adjNext.reverse.find? (fun x => x.1 == g)).map (fun x => x.2.1)).getD (adjOf s g)

/-- A ringmaster changes its group's adjustment from step `fromStep` on. -/
def sendAdj (s : State) (g : Nat) (adj : Int) (fromStep : Nat) : State :=
  takeAdj (startDown s (redMask s g) 6
    (toBytes 1 g ++ toBytes 3 0 ++ toBytes 4 (unsigned 32 adj) ++ toBytes 8 fromStep)) g adj fromStep

/-- ADJ_REVIEW: the ringmaster of a group, or its deputy (R320), reviews the completed step; while firmware is down the step waits
for its review (R439). [DEDUCED, log entries 77, 87] -/
def execAdjReview (g : Fin 4) (s : State) : Host.Outcome State Fault Refusal :=
  .next (match s.red.review.find? (fun r => r.1 == g.val) with
    | none => s
    | some (_, step, part, margin) =>
      if !fwRuns s then s else
      let s := { s with red := { s.red with review := s.red.review.eraseP (fun r => r.1 == g.val) } }
      if s.held RED_ADJ_CFG.AUTO = 0 ∨ redRm s g ≠ some (ownPos s) then s
      else if part then
        sendAdj { s with red := { s.red with calm := FMap.put s.red.calm g 0 } } g
          (adjLatest s g + Int.ofNat (s.held RED_ADJ_CFG.UP)) (step + 2)
      else if (match margin with | some m => decide (m > Int.ofNat (s.held RED_ADJ_CFG.TARGET)) | none => true) then
        let c := (FMap.find s.red.calm g).getD 0 + 1
        let s := { s with red := { s.red with calm := FMap.put s.red.calm g c } }
        if c < max 1 (s.held RED_ADJ_CFG.CALM) then s
        else sendAdj s g (adjLatest s g - Int.ofNat (s.held RED_ADJ_CFG.DOWN)) (step + 2)
      else { s with red := { s.red with calm := FMap.put s.red.calm g 0 } })

end Sys2Proof.Machine
end

