-- ==== Sys2Proof/Machine/Window.lean ====
section
/-!
DEFINITION. Machine/Window.lean: window requests at their owner and their responses at the source, tiles that a neighbour
sends, routed rows, route closes and shuffled samples as they arrive (10 R309 to R314; 05 R158, R159; 07 R209).
-/

namespace Sys2Proof.Machine

open Reg

/-! Requests at the owner of a window. -/

/-- A window's two words (Table 10.9). -/
def winWord (s : State) (n w : Nat) : Nat := s.get (LNK_WIN_TABLE.WORD (2 * (n % 256) + w))

/-- The window admits a source (Table 10.9). -/
def winAdmits (s : State) (n src : Nat) : Bool :=
  match s.lnk.topo with
  | none => false
  | some t =>
    match t.posOf src with
    | none => false
    | some p =>
      if t.mode = 1 then decide (p < 64) && bit (winWord s n 1) p
      else (List.range 8).any (fun d =>
        bit (winWord s n 1) d && t.size (d / 2) != 1 && t.neighbour (ownPos s) d == p)

/-- A window request is accepted (R311). -/
def winAccepts (s : State) (src hdr1 : Nat) (write : Bool) (len : Nat) : Bool :=
  let n := bits hdr1 0 8
  let w := winWord s n 0
  bit w 15 && bit w (if write then 13 else 12) && winAdmits s n src
    && decide (bits hdr1 8 40 + len ≤ (tagEntry s (bits w 0 12)).bytes)

/-- The record of a transfer at the owner. -/
def winOwn (s : State) (src xfer window : Nat) : WinOwn :=
  (s.lnk.wins.find? (fun o => o.src == src && o.xfer == xfer && o.window == window)).getD
    { src := src, xfer := xfer, window := window, accepted := 0, refused := false, slots := [] }

def putWin (s : State) (o : WinOwn) : State :=
  { s with lnk := { s.lnk with
      wins := o :: s.lnk.wins.filter (fun x => !(x.src == o.src && x.xfer == o.xfer && x.window == o.window)) } }

def dropWin (s : State) (o : WinOwn) : State :=
  { s with lnk := { s.lnk with
      wins := s.lnk.wins.filter (fun x => !(x.src == o.src && x.xfer == o.xfer && x.window == o.window)) } }

/-- A refusal counted, the first of its transfer logged (R311). -/
def winRefuse (s : State) (port : Nat) (o : WinOwn) : WinOwn × State :=
  let s := setLnkLastErr (s.count LNK_WIN_REFUSED_CNT 1) 8 port o.src
  let s := if o.refused then s else
    s.log { region := regionLNK, event := 8, level := 1, action := 2, block := port, modul := o.src
            detail := lnkLastErr s 8 port o.src }
  ({ o with refused := true }, s)

/-- A window access is an operation of its own as far as the log and the prefetchers are concerned. -/
def winCtx (s : State) (src xfer : Nat) : State := (s.count LNK_WIN_REQ_CNT 1).inOp (2 ^ 40 + src * 2 ^ 16 + xfer)

/-- WIN_WRITE (R311 to R313): the packet is written or refused; after the last one the slots close and WIN_DONE goes back. [DEDUCED, log entry 73] -/
def takeWinWrite (s : State) (port : Nat) (p : Packet) : State :=
  let window := bits p.hdr1 0 8
  let off := bits p.hdr1 8 40
  let o := winOwn s p.src p.transfer window
  let tag := bits (winWord s window 0) 0 12
  let r :=
    if winAccepts s p.src p.hdr1 true p.data.length then
      let s := winCtx s p.src p.transfer
      let s := tagWrite s (streamChan s tag) (Int.ofNat off) p.data
      ({ o with
         accepted := o.accepted + p.data.length
         slots := (o.slots ++ slotsOf (tagEntry s tag) off (off + p.data.length)).eraseDups }, s)
    else winRefuse s port o
  if !p.last then putWin r.2 r.1
  else
    let allowed := bit (winWord s window 0) 14
    let r := if p.close && !allowed then winRefuse r.2 port r.1 else r
    let closing := p.close && allowed && r.1.slots != []
    let s := if closing then closeSlots r.2 0x0B tag r.1.slots else r.2
    sendPacket (dropWin s r.1) 6 (Packet.make p.src s.lnk.ownId 6 false true p.hdr1
      (toBytes 16 (r.1.accepted % 2 ^ 40 + b2n r.1.refused * 2 ^ 40 + b2n closing * 2 ^ 41)))

/-- WIN_READ (R311, R312): the range is returned in packets of RSIZE bytes, +0 where the request is refused. [DEDUCED, log entry 73] -/
def takeWinRead (s : State) (port : Nat) (p : Packet) : State :=
  let window := bits p.hdr1 0 8
  let off := bits p.hdr1 8 40
  let len := field p 0 5
  let rsize := max 16 (bits (field p 5 2) 0 13)
  let tag := bits (winWord s window 0) 0 12
  let r :=
    if winAccepts s p.src p.hdr1 false len then
      let s := winCtx s p.src p.transfer
      tagRead s (streamChan s tag) (Int.ofNat off) len
    else (List.replicate len 0, (winRefuse s port (winOwn s p.src p.transfer window)).2)
  let parts := if len = 0 then [[]] else chunks rsize (len / rsize + 1) r.1
  parts.zipIdx.foldl (fun s x =>
    sendPacket s 6 (Packet.make p.src s.lnk.ownId 5 false (x.2 + 1 == parts.length)
      (winHdr window (off + x.2 * rsize) p.transfer) x.1)) r.2

/-- WIN_WRITE. -/
def execWinWrite (n : Fin 16) (s : State) : Host.Outcome State Fault Refusal :=
  .next (match peekRx s n (isType 3) with
    | none => s
    | some x => takeWinWrite (takeRx s n (isType 3)) n x.pkt)

/-- WIN_READ. -/
def execWinRead (n : Fin 16) (s : State) : Host.Outcome State Fault Refusal :=
  .next (match peekRx s n (isType 4) with
    | none => s
    | some x => takeWinRead (takeRx s n (isType 4)) n x.pkt)

/-! Responses at the source. -/

/-- The transfer that a response belongs to. -/
def xferOf (s : State) (mode : Nat) (p : Packet) : Option XferOp :=
  s.xfers.find? (fun x => x.mode == mode && x.moved && x.id % 2 ^ 16 == p.transfer && x.modul == p.src)

/-- Slots of DST that a window read closes: those that no unread tile touches. -/
def readSlots (s : State) (x : XferOp) (d : Desc) : List Nat :=
  let rs := respSize d
  let per := max 1 (d.unit / max 1 rs)
  let unread := (List.range d.tiles).filter (fun k =>
    !(List.range per).all (fun j => x.got.contains (per * k + j)))
  let e := tagEntry s d.tag
  let touch := fun (k : Nat) =>
    let o := d.tileOff (d.posOf k)
    slotsOf e o.toNat (o + Int.ofNat d.unit).toNat
  (d.slotsTouched e).filter (fun n => !unread.any (fun k => (touch k).contains n))

/-- A window read ends: its slots close when it asks for it, and it is complete (R275, R313). [DEDUCED, log entry 74] -/
def endRead (s : State) (x : XferOp) : State :=
  match x.fetch, descAt s x.dst with
  | none, some d => doneXfer (if x.close then closeSlots s 6 d.tag (readSlots s x d) else s) x
  | _, _ => doneXfer s x

/-- WIN_DATA: read data is written to its destination once the slots of its tile admit it; the last response completes the transfer. Answers whether
the packet has been taken. [DEDUCED, log entry 74] -/
def takeWinData (s : State) (p : Packet) : Bool × State :=
  match xferOf s 3 p with
  | none => (true, s)
  | some x =>
    let s := s.inOp (16 + x.id)
    let off := bits p.hdr1 8 40 - x.roff
    let stop := fun (x : XferOp) (s : State) => (true, if p.last then endRead (putXfer s x) x else putXfer s x)
    match x.fetch, descAt s x.dst with
    | some t, _ =>
      stop { x with got := p.data.length :: x.got }
        (tagWrite s (streamChan s t) (Int.ofNat off) (p.data.take ((tagEntry s t).bytes - off)))
    | none, some d =>
      let k := off / max 1 d.unit
      let a := if x.acq.needs = [] then acquire s x.acq (moveUses s d k true) else (x.acq, s)
      let x := { x with acq := a.1 }
      if a.1.needs ≠ [] then (false, putXfer a.2 x)
      else
        let bs := p.data.take (respSize d)
        let f := if x.open_ then a.2.fresh else (0, a.2)
        stop { x with got := off / max 1 (respSize d) :: x.got }
          (writeMove f.2 d (x.dstChan d) k (off % max 1 d.unit) (if x.open_ then openBytes f.1 bs.length else bs))
    | none, none => stop x s

/-- WIN_DATA. -/
def execWinData (n : Fin 16) (s : State) : Host.Outcome State Fault Refusal :=
  .next (match peekRx s n (isType 5) with
    | none => s
    | some x =>
      let r := takeWinData s x.pkt
      if r.1 then takeRx r.2 n (isType 5) else r.2)

/-- WIN_DONE: the window write is complete. -/
def execWinDone (n : Fin 16) (s : State) : Host.Outcome State Fault Refusal :=
  .next (match peekRx s n (isType 6) with
    | none => s
    | some x =>
      let s := takeRx s n (isType 6)
      match xferOf s 1 x.pkt with
      | none => s
      | some op => doneXfer s op)

/-- A fetch of an adoption asked for (R450): the tag's bytes through a window of the replica. `attempt` counts its tries. -/
def beginFetch (s : State) (tag window modul attempt : Nat) : State :=
  beginXfer s
    { id := 0, seqr := 4, mode := 3, src := 0, dst := 0, hsrc := 0, hdst := 0, close := false, modul := modul
      window := window, roff := 0, dir := attempt, acq := Acq.none 6, next := 0, moved := false, got := [], fetch := some tag
      open_ := false, energy := 0, limit := 0 }

/-- WIN_TIMEOUT: a window transfer whose last packet was sent LNK_CFG.WIN_TIMEOUT µs ago completes anyway (R313); a fetch of an
adoption is repeated once, and what the second did not bring is not fetched (R451, R524). -/
def execWinTimeout (w : WinWait) (s : State) : Host.Outcome State Fault Refusal :=
  .next (match s.xfers.find? (fun x => x.id % 2 ^ 16 == w.transfer.toNat && (x.mode == 1 || x.mode == 3)) with
    | none => s
    | some x =>
      if !x.moved || xferUnsent s x.id || decide (w.us < x.limit) then s
      else
        let s := setLnkLastErr (s.count LNK_WIN_TIMEOUT_CNT 1) 9 0 x.modul
        let s := s.log { region := regionLNK, event := 9, level := 1, action := 2, modul := x.modul
                         detail := lnkLastErr s 9 0 x.modul }
        let t := if x.mode = 3 then endRead s x else doneXfer s x
        match x.fetch with
        | none => t
        | some tag =>
          if x.dir = 0 then beginFetch t tag x.window x.modul 1
          else notifyRm { t with lnk := { t.lnk with
            adoptTry := 2, unfetched := t.lnk.unfetched + ((tagEntry s tag).bytes - x.got.sum) } } 9 0xFF x.modul)

/-! Tiles from a neighbour (R314). -/

/-- A tile of a neighbour send: written through the LINK descriptor once its slots admit it; none where it must wait. A tile that the
descriptor does not have has no route. -/
def takeTile (s : State) (port : Nat) (p : Packet) : Option State × State :=
  let n := bits p.hdr1 0 12
  let k := bits p.hdr1 12 32
  match descAt s n with
  | none => (some (noRoute s port p.src), s)
  | some d =>
    if d.cls ≠ Desc.clsLink ∨ k ≥ d.tiles then (some (noRoute s port p.src), s)
    else
      let s := if (FMap.find s.lnk.nbrs n).isSome then s.inOp (2 ^ 30 + n) else s.newOp (2 ^ 30 + n)
      let r := (FMap.find s.lnk.nbrs n).getD { no := s.opCount, tiles := [], acq := Acq.none 7, close := false }
      let a := if r.acq.needs = [] then acquire s r.acq (moveUses s d k true) else (r.acq, s)
      let put := fun (s : State) (x : NbrRecv) => { s with lnk := { s.lnk with nbrs := FMap.put s.lnk.nbrs n x } }
      if a.1.needs ≠ [] then (none, put a.2 { r with acq := a.1 })
      else
        let s := writeMove a.2 d (d.chan .normal (channel (2 ^ 30 + n) r.no 0)) k 0 (p.data.take d.unit)
        let r : NbrRecv := { no := r.no, tiles := if r.tiles.contains k then r.tiles else k :: r.tiles, acq := a.1, close := r.close || p.close }
        if r.tiles.length < d.tiles then (some (put s r), s)
        else
          let s := { s with lnk := { s.lnk with nbrs := FMap.del s.lnk.nbrs n } }
          (some (if r.close then closeSlots s 7 d.tag (d.slotsTouched (tagEntry s d.tag)) else s), s)

/-- NEIGHBOUR. -/
def execNeighbour (n : Fin 16) (s : State) : Host.Outcome State Fault Refusal :=
  .next (match peekRx s n (isType 7) with
    | none => s
    | some x =>
      match takeTile s n x.pkt with
      | (some t, _) => takeRx t n (isType 7)
      | (none, t) => t)

/-! Routed rows and samples. -/

/-- ROUTED_ROW. -/
def execRoutedRow (n : Fin 16) (s : State) : Host.Outcome State Fault Refusal :=
  .next (match peekRx s n (isType 8) with
    | none => s
    | some x =>
      let h := x.pkt.hdr1
      acceptRow (takeRx s n (isType 8)) x.pkt.src (bits h 0 12) (bits h 12 28) (bits h 40 24) x.pkt.data)

/-- ROUTE_CLOSE. -/
def execRouteClose (n : Fin 16) (s : State) : Host.Outcome State Fault Refusal :=
  .next (match peekRx s n (isType 9) with
    | none => s
    | some x => acceptClose (takeRx s n (isType 9)) (bits x.pkt.hdr1 0 12))

/-- A piece of a shuffled sample written into its tag; after its last tile the slot it fills closes (R209). -/
def takeSample (s : State) (tag off : Nat) (last : Bool) (bs : List Byte) : State :=
  let s := s.newOp 4
  let s := tagWrite s (streamChan s tag) (Int.ofNat off) bs
  if last then closeSlots s 0x0A tag (slotsOf (tagEntry s tag) off (off + max 1 bs.length)) else s

end Sys2Proof.Machine
end

