-- ==== Sys2Proof/Machine/Ingest.lean ====
section
/-!
DEFINITION. Machine/Ingest.lean: the ingest region: its ports, the RoCE v2 requester, the fetching, decoding, tokenising and delivery of
samples (13 R374 to R402; 05 R167, R168). What the video standards say of a stream is brought by the commands.
-/

namespace Sys2Proof.Machine

open Reg

/-! The permutation (R167). -/

def mix (v : Nat) : Nat :=
  let v := (v * 0x7FEB352D) % 2 ^ 32
  let v := v ^^^ (v >>> 15)
  let v := (v * 0x846CA68B) % 2 ^ 32
  v ^^^ (v >>> 16)

/-- Half the width of the Feistel network for `n` samples. -/
def shufHalf (n : Nat) : Nat := (max 2 (Nat.log2 (n - 1) + 1) + 1) / 2

/-- Round key `i` of a pass. -/
def shufKey (keys : List Nat) (pass i : Nat) : Nat := mix (keys.getD i 0 ^^^ ((pass * 4 + i) % 2 ^ 32))

def shufEnc (w : Nat) (k : Nat → Nat) (v : Nat) : Nat :=
  let round := fun (p : Nat × Nat) i => (p.2, p.1 ^^^ (mix (p.2 ^^^ k i) % 2 ^ w))
  let r := [0, 1, 2, 3].foldl round (v >>> w, v % 2 ^ w)
  r.1 <<< w ||| r.2

def shufDec (w : Nat) (k : Nat → Nat) (v : Nat) : Nat :=
  let round := fun (p : Nat × Nat) i => (p.2 ^^^ (mix (p.1 ^^^ k i) % 2 ^ w), p.1)
  let r := [3, 2, 1, 0].foldl round (v >>> w, v % 2 ^ w)
  r.1 <<< w ||| r.2

/-- A walk from `v` on until the value is below `n`, with the steps that it takes. `fuel` exceeds the length of any cycle. -/
def walk (f : Nat → Nat) (n : Nat) : Nat → Nat → Nat → Nat × Nat
  | 0, v, c => (v, c)
  | fuel + 1, v, c => if v < n then (v, c) else walk f n fuel (f v) (c + 1)

/-- The place that a sample has in a pass, and the extra steps. -/
def shufPosition (keys : List Nat) (n pass v : Nat) : Nat × Nat :=
  if n ≤ 1 then (0, 0)
  else
    let w := shufHalf n
    walk (shufEnc w (shufKey keys pass)) n (2 ^ (2 * w)) (shufEnc w (shufKey keys pass) v) 0

/-- The sample at a place of a pass, and the extra steps. -/
def shufSample (keys : List Nat) (n pass p : Nat) : Nat × Nat :=
  if n ≤ 1 then (0, 0)
  else
    let w := shufHalf n
    walk (shufDec w (shufKey keys pass)) n (2 ^ (2 * w)) (shufDec w (shufKey keys pass) p) 0

/-! The image's ingest and shuffle settings (Tables 16.6 and 16.7). -/

def ingField (s : State) (off n : Nat) : Nat := imgField s 9 off n
def shufField (s : State) (off n : Nat) : Nat := imgField s 10 off n

def manifestTag (s : State) : Nat := ingField s 0x24 2
def fetchTag (s : State) : Nat := ingField s 0x26 2
def areaSize (s : State) : Nat := ingField s 0x28 4
def stagingTag (s : State) : Nat := ingField s 0x2C 2
def frameTag (s : State) : Nat := ingField s 0x32 2

def shufN (s : State) : Nat := shufField s 0 8
def shufB (s : State) : Nat := shufField s 8 4
def shufG (s : State) : Nat := max 1 (shufField s 0x0C 4)
def shufKeys (s : State) : List Nat := [0x18, 0x1C, 0x20, 0x24].map (fun o => shufField s o 4)

/-- ING and the shuffle are not idle: the image has both sections and names the tags, the shuffle is enabled, and no kill has stopped them. -/
def ingestOn (s : State) : Bool :=
  !(imgSection s 9).isEmpty && !(imgSection s 10).isEmpty && s.held DRV_SHUF_CFG.ENABLE == 1 && !s.ing.stopped
    && decide (manifestTag s < 4096) && decide (fetchTag s < 4096) && decide (stagingTag s < 4096)

def setIng (s : State) (g : IngState) : State := { s with ing := g }

/-- ING_LAST_ERR records an event (Table 13.13). -/
def setIngErr (s : State) (code qp entry : Nat) : State :=
  (((s.set ING_LAST_ERR.CODE code).set ING_LAST_ERR.VALID 1).set ING_LAST_ERR.QP qp).set ING_LAST_ERR.SAMPLE entry

/-- The log entry of an event of ING, with what ING_LAST_ERR then holds. [DEDUCED, log entry 93] -/
def logIng (s : State) (event level action block : Nat) : State :=
  s.log { region := regionING, event := event, level := level, action := action, block := block, detail := regValue s 0x700028 }

/-! Queue pairs (R378, R379). -/

/-- A word of a queue pair's entry (Table 13.1). -/
def qpWord (s : State) (i w : Nat) : Nat := ingField s (0x440 + 64 * i + 8 * w) 8

def qpErr (s : State) (i : Nat) : Bool := bit (s.get (ING_QP_ERR.ERR (i / 64))) (i % 64)

def setQpErr (s : State) (i : Nat) (b : Bool) : State :=
  s.set (ING_QP_ERR.ERR (i / 64)) (setBits (s.get (ING_QP_ERR.ERR (i / 64))) (i % 64) 1 (b2n b))

/-- A queue pair is in use and not in error. [DEDUCED, log entry 90] -/
def qpUsable (s : State) (i : Nat) : Bool := decide (i < ingField s 0x22 2) && bit (qpWord s i 0) 0 && !qpErr s i

def qpAt (s : State) (i : Nat) : QpState :=
  (FMap.find s.ing.qps i).getD { psn := bits (qpWord s i 0) 40 24, reads := [], tries := 0, resetDue := false, due := false }

def putQp (s : State) (i : Nat) (q : QpState) : State := setIng s { s.ing with qps := FMap.put s.ing.qps i q }

/-- The bytes of a response packet. -/
def qpMtu (s : State) (i : Nat) : Nat :=
  let c := bits (qpWord s i 0) 7 2
  1024 * 2 ^ (if c = 3 then Config.reservedPmtu.val else c)

/-- The packets of the response to a read. -/
def qpPackets (s : State) (i len : Nat) : Nat := ceilDiv len (qpMtu s i)

/-- The queue pair that has a local number (R378). -/
def localQp (s : State) (qpn : Nat) : Option Nat :=
  if 0x1000 ≤ qpn ∧ qpn < 0x1000 + ingField s 0x22 2 then some (qpn - 0x1000) else none

def qpPort (s : State) (i : Nat) : Nat := bits (qpWord s i 0) 1 1

/-- Reads outstanding on both ports. -/
def readsOut (s : State) : Nat := s.ing.qps.foldl (fun n e => n + e.2.reads.length) 0

def portUp (s : State) (e : Nat) : Bool := if e = 0 then s.flag ING_E0_STATUS.UP else s.flag ING_E1_STATUS.UP
def portPaused (s : State) (e : Nat) : Bool := if e = 0 then s.flag ING_E0_STATUS.PFC_PAUSED else s.flag ING_E1_STATUS.PFC_PAUSED

/-- The frames that a command sends. -/
def sendEth (s : State) (xs : List (Nat × EthTx)) : State := setIng s { s.ing with tx := xs }

/-- A port uses IPv6, and its own address (R375). [DESIGN CHOICE, log entry 166] -/
def portV6 (s : State) (port : Nat) : Bool := bit (ingField s 0x20 1) port
def portAddr (s : State) (port : Nat) : Nat := ofBytesBE (((imgSection s 9).drop (16 * port)).take (if portV6 s port then 16 else 4))

/-- The head of a packet that a queue pair sends, ECT(0) in its ECN field (Table 13.1; R377, R378, R381). [DESIGN CHOICE, log entry 166] -/
def roceHead (s : State) (i psn : Nat) : RoceHead :=
  let w := qpWord s i
  let e := qpPort s i
  let v6 := bit (w 0) 2
  { dmac := bits (w 1) 0 48, smac := (Config.portMac e).toNat
    vlan := if bits (w 1) 48 12 = 0 then none else some (bits (w 1) 48 12, bits (w 1) 60 3)
    v6 := v6, sip := portAddr s e, dip := if v6 then w 2 + w 3 * 2 ^ 64 else bits (w 2) 0 32
    dscp := bits (w 0) 9 6, ecn := 2, sport := bits (w 4) 0 16, dport := 4791, qpn := bits (w 0) 16 24, psn := psn }

/-- A queue pair back at START_PSN (R379). -/
def resetQp (s : State) (i : Nat) : State := setQpErr (setIng s { s.ing with qps := FMap.del s.ing.qps i }) i false

/-! Samples. -/

def sampleById (s : State) (id : Nat) : Option IngSample := s.ing.samples.find? (fun x => x.id == id)

def putSample (s : State) (x : IngSample) : State :=
  setIng s { s.ing with samples := s.ing.samples.map (fun y => if y.id = x.id then x else y) }

def onSample (s : State) (id : Nat) (f : IngSample → IngSample) : State :=
  match sampleById s id with
  | some x => putSample s (f x)
  | none => s

/-- A sample leaves ING: its reads complete for nobody, and its pipe and fetch area are free. -/
def dropSample (s : State) (id : Nat) : State :=
  let qps := s.ing.qps.map (fun e => (e.1, { e.2 with reads := e.2.reads.map (fun r => if r.sample = some id then { r with sample := none } else r) }))
  setIng s { s.ing with
    samples := s.ing.samples.filter (fun x => x.id != id), frames := s.ing.frames.filter (fun f => f.sample != id), qps := qps }

/-- A sample whose fetch has failed (R384). [DEDUCED, log entry 92] -/
def failFetch (s : State) (id : Nat) : State := (onSample s id (fun x => { x with failed := true })).count ING_FETCH_FAIL_CNT 1

/-- A queue pair enters the error state: the samples being fetched on it lose it (R379, R384). [DEDUCED, log entry 92] -/
def failQp (s : State) (i code : Nat) : State :=
  let q := qpAt s i
  let entry := ((q.reads.findSome? (·.sample)).bind (sampleById s)).map (·.entry)
  let s := setIngErr (setQpErr (s.count ING_QP_ERR_CNT 1) i true) code i (entry.getD 0)
  let s := logIng s (code + 1) 1 (if code = 1 then 1 else 3) i
  let s := putQp s i { q with reads := [], tries := 0, due := false }
  let lost := (s.ing.samples.filter (fun x => x.qp == i && !x.failed && decide (x.received < x.length))).map (·.id)
  let s := lost.foldl failFetch s
  if q.resetDue then resetQp s i else s

/-- The reads that a queue pair sends again: from its first unanswered PSN on. -/
def resendTx (s : State) (i : Nat) (q : QpState) : List (Nat × EthTx) :=
  q.reads.map (fun r => (qpPort s i, .read (roceHead s i ((r.psn + r.got) % 2 ^ 24)) ((r.addr + r.bytes) % 2 ^ 64) r.rkey (r.len - r.bytes)))

/-- A request is unanswered: the queue pair resends it, or enters error after RETRY resends (R379). While the priority of its port is paused the resend
waits (R376). -/
def retryQp (s : State) (i : Nat) : State :=
  let q := qpAt s i
  if q.reads = [] then s
  else if q.tries ≥ bits (qpWord s i 4) 21 3 then failQp s i 1
  else
    let held := portPaused s (qpPort s i)
    let q := { q with tries := q.tries + 1, due := held }
    let s := (putQp s i q).count ING_RETRY_CNT 1
    if held then s else sendEth s (resendTx s i q)

/-- The resends that a port's pause has held are sent (R376). -/
def resumePort (s : State) (e : Nat) : State :=
  let due := s.ing.qps.filter (fun x => x.2.due && qpPort s x.1 == e)
  if due = [] then s
  else sendEth (due.foldl (fun s x => putQp s x.1 { x.2 with due := false }) s) (due.flatMap (fun x => resendTx s x.1 x.2))

/-! The ports (R374 to R376). -/

/-- ETH_PORT_TRAIN: `lanes` are those that have trained. -/
def execEthPortTrain (port : Fin 2) (lanes : BitVec 8) (s : State) : Host.Outcome State Fault Refusal :=
  .next (
    let ok := b2n (lanes == 0xFF)
    if !s.pwr.fabric then s
    else if port = 0 then
      (((s.set ING_E0_STATUS.LANES_OK lanes.toNat).set ING_E0_STATUS.UP ok).set ING_E0_STATUS.AN_DONE ok).set ING_E0_STATUS.FEC_LOCK ok
    else
      (((s.set ING_E1_STATUS.LANES_OK lanes.toNat).set ING_E1_STATUS.UP ok).set ING_E1_STATUS.AN_DONE ok).set ING_E1_STATUS.FEC_LOCK ok)

/-- The port's own address answers a request for it. -/
def ownIpv4 (s : State) (port target : Nat) : Bool := !portV6 s port && portAddr s port == target
def ownIpv6 (s : State) (port target : Nat) : Bool := portV6 s port && portAddr s port == target

/-- ETH_FRAME_RECEIVE: a frame of `len` bytes with `tags` IEEE 802.1Q tags. -/
def execEthFrameReceive (port : Fin 2) (frame : EthFrame) (len tags : Nat) (s : State) : Host.Outcome State Fault Refusal :=
  .next (
    let drop := s.count ING_RX_DROP_CNT 1
    if 9216 < len ∨ 1 < tags then drop
    else match frame with
      | .damaged | .other => drop
      | .requester => s
      | .arp t mac ip =>
        if ownIpv4 s port.val t.toNat then sendEth s [(port.val, .arpReply (Config.portMac port.val).toNat t.toNat mac.toNat ip.toNat)] else drop
      | .solicit t mac ip =>
        if ownIpv6 s port.val t.toNat then sendEth s [(port.val, .advertisement (Config.portMac port.val).toNat t.toNat mac.toNat ip.toNat)] else drop)

/-- PFC_FRAME: the link partner pauses or resumes a priority; resends that have waited leave as it resumes. -/
def execPfcFrame (port : Fin 2) (prio : Fin 8) (pause : Bool) (s : State) : Host.Outcome State Fault Refusal :=
  .next (
    if (imgSection s 9).isEmpty ∨ ingField s 0x21 1 ≠ prio.val then s
    else
      let s := if port = 0 then s.setFlag ING_E0_STATUS.PFC_PAUSED pause else s.setFlag ING_E1_STATUS.PFC_PAUSED pause
      if pause then s else resumePort s port.val)

/-! Fetching (R380, R383, R384). -/

/-- The data steps that ING serves: from the one that follows the running step to AHEAD steps ahead of it (R168, R383). [DEDUCED, log entry 88] -/
def firstServed (s : State) : Nat := s.step.count
def servedEnd (s : State) : Nat := s.step.count + max 1 (s.held ING_CFG.AHEAD)

/-- The next data step and position of this module's rank, at or after the place where ING stands. [DEDUCED, log entry 88] -/
def nextPlace (s : State) : Option (Nat × Nat) :=
  let r := max 1 (shufField s 0x10 2)
  let rank := shufField s 0x12 2
  let (d, q) := if s.ing.dstep < firstServed s then (firstServed s, 0) else (s.ing.dstep, s.ing.q)
  let q := q + (rank + r - q % r) % r
  let p := if q < shufB s then (d, q) else (d + 1, rank)
  if p.1 < servedEnd s ∧ p.2 < shufB s ∧ shufB s ≤ shufN s then some p else none

/-- Fetch areas that no sample holds, lowest first. -/
def freeArea (s : State) : Option Nat :=
  let n := (tagEntry s (fetchTag s)).size / max 1 (areaSize s)
  (List.range (min n (s.ing.samples.length + 1))).find? (fun a => !s.ing.samples.any (fun x => x.area == some a))

/-- The queue pair of a sample: the one that its entry gives, or the next of its range that can be used (R383). [DEDUCED, log entry 90] -/
def chooseQp (s : State) (first count n : Nat) : Option Nat :=
  let c := max 1 count
  ((List.range c).map (fun k => first + (n + k) % c)).find? (qpUsable s)

/-- The pass and the step-in-pass of a data step, and the sample at a position of it with the extra steps of the walk (R167, R168). -/
def placeSample (s : State) (d q : Nat) : Nat × Nat × Nat × Nat :=
  let per := max 1 (shufN s / shufB s)
  let pass := (shufField s 0x14 4 + d / per) % 2 ^ 32
  (pass, d % per, shufSample (shufKeys s) (shufN s) pass (d % per * shufB s + q))

/-- SAMPLE_FETCH: ING takes up its next sample, once an area is free for it. -/
def execSampleFetch (s : State) : Host.Outcome State Fault Refusal :=
  .next (if !ingestOn s then s
    else match nextPlace s with
      | none => s
      | some (d, q) =>
        let (pass, i, n, extra) := placeSample s d q
        let (bs, t) := tagRead (s.newOp 5) (rawChan (s.newOp 5) (manifestTag s)) (Int.ofNat (32 * n)) 32
        let w := fun k => ofBytes ((bs.drop (8 * k)).take 8)
        let length := bits (w 1) 32 32
        let qp := chooseQp s (bits (w 2) 0 12) (bits (w 2) 12 12) n
        let bad := decide (areaSize s * 4096 < length) || qp.isNone
        let area := freeArea s
        if !bad ∧ area.isNone then s
        else
          let x : IngSample :=
            { id := s.ing.nextId, entry := n, pass := pass, istep := i, dstep := d, q := q, qp := qp.getD (bits (w 2) 0 12)
              area := if bad then none else area, addr := w 0, rkey := bits (w 1) 0 32, length := length
              container := bits (w 2) 24 2, select := bits (w 2) 32 32, recipe := bits (w 3) 32 4, start := bits (w 3) 0 32, asked := 0
              received := 0, stream := [], failed := bad, unsupported := false, pipe := none, info := none, codec := none, stored := 0
              half := none, bad := [], decided := [], dropped := []
              tokens := [], pts := none, logged := false }
          let t := setIng (t.count DRV_SHUF_WALK_CNT extra)
            { t.ing with samples := t.ing.samples ++ [x], nextId := t.ing.nextId + 1, dstep := d, q := q + 1 }
          if bad then setIngErr (t.count ING_FETCH_FAIL_CNT 1) 3 x.qp n else t)

/-- New reads are held: PAUSE, or supply stage 2 and above (R401). -/
def readsHeld (s : State) : Bool := s.flag ING_CFG.PAUSE || decide (2 ≤ s.get PWR_STATUS.STAGE)

/-- READ_ISSUE: the next read of the oldest sample that a queue pair fetches. -/
def execReadIssue (qp : BitVec 12) (s : State) : Host.Outcome State Fault Refusal :=
  .next (
    let i := qp.toNat
    let q := qpAt s i
    let e := qpPort s i
    if !ingestOn s ∨ readsHeld s ∨ !qpUsable s i ∨ q.resetDue ∨ q.reads.length ≥ max 1 (bits (qpWord s i 0) 3 4)
        ∨ readsOut s ≥ 4096 ∨ !portUp s e ∨ portPaused s e then s
    else match s.ing.samples.find? (fun x => x.qp == i && !x.failed && decide (x.asked < x.length)) with
      | none => s
      | some x =>
        let len := min (2 ^ (16 + min 4 (s.get ING_CFG.READ_SIZE))) (x.length - x.asked)
        let r : ReadOp :=
          { sample := some x.id, addr := (x.addr + x.asked) % 2 ^ 64, rkey := x.rkey, off := x.asked, len := len, mtu := qpMtu s i, psn := q.psn, got := 0
            bytes := 0 }
        let s := putSample s { x with asked := x.asked + len }
        sendEth (putQp s i { q with psn := (q.psn + qpPackets s i len) % 2 ^ 24, reads := q.reads ++ [r] })
          [(e, .read (roceHead s i q.psn) r.addr r.rkey len)])

/-- What the demultiplexer has found of a sample. -/
def IngSample.demux (x : IngSample) : Demux := Machine.demux x.container x.select x.length x.stream

/-- Bytes of a response stored in the fetch area of their sample and taken by the demultiplexer, which counts the errors that it finds (R385, R386). -/
def storeFetched (s : State) (id place : Nat) (bs : List Byte) : State :=
  match sampleById s id with
  | none => s
  | some x =>
    match x.area with
    | none => s
    | some a =>
      let s := tagWrite (s.newOp 5) (rawChan (s.newOp 5) (fetchTag s)) (Int.ofNat (a * areaSize s * 4096 + place)) bs
      let y := { x with received := x.received + bs.length, stream := x.stream ++ bs }
      let n := y.demux.errors - x.demux.errors
      let s := putSample s y
      if n = 0 then s else (setIngErr s 4 0 x.entry).count ING_PARSE_ERR_CNT n

/-- A packet of the response to the oldest read of a queue pair. [DEDUCED, log entry 91] -/
def takeResponse (s : State) (i : Nat) (q : QpState) (r : ReadOp) (rest : List ReadOp) (data : List Byte) : State :=
  let bs := data.take (r.len - r.bytes)
  let s := s.count ING_READ_BYTE_CNT bs.length
  let s := match r.sample with
    | some id => storeFetched s id (r.off + r.bytes) bs
    | none => s
  if r.got + 1 < ceilDiv r.len r.mtu then
    putQp s i { q with reads := { r with got := r.got + 1, bytes := r.bytes + bs.length } :: rest, tries := 0 }
  else
    let s := (putQp s i { q with reads := rest, tries := 0 }).count ING_READ_CNT 1
    if q.resetDue ∧ rest = [] then resetQp s i else s

/-- Which packet of its response the next one of a read is. -/
def ReadOp.part (r : ReadOp) : ReadPart :=
  let n := ceilDiv r.len r.mtu
  if n ≤ 1 then .only else if r.got = 0 then .first else if r.got + 1 = n then .last else .middle

/-- A response marked CE: a notification is sent, unless one has been on its queue pair within 50 µs (R381). [DESIGN CHOICE, log entry 166] -/
def notifyCe (s : State) (i : Nat) (since : Bool) : State :=
  if !since ∧ s.ing.notified.contains i then s
  else
    let s := (setIng s { s.ing with notified := i :: s.ing.notified.filter (· != i) }).count ING_CNP_CNT 1
    sendEth s [(qpPort s i, .notification (roceHead s i 0))]

/-- READ_RESPONSE: a packet with its local queue-pair number, its PSN and what it is of its response; `ce` says that it is marked CE, `since` that 50 µs
have passed since the last notification sent on its queue pair. One that is not the next expected is dropped and counted. -/
def execReadResponse (qpn : BitVec 24) (place : ReadPlace) (ce since : Bool) (data : List Byte) (s : State) :
    Host.Outcome State Fault Refusal :=
  .next (match localQp s qpn.toNat with
    | none => s.count ING_RX_DROP_CNT 1
    | some i =>
      let q := qpAt s i
      let t := match q.reads with
        | [] => s.count ING_RX_DROP_CNT 1
        | r :: rest =>
          if place.psn.toNat ≠ (r.psn + r.got) % 2 ^ 24 ∨ place.part ≠ r.part ∨ data.length ≠ min r.mtu (r.len - r.bytes) then
            s.count ING_RX_DROP_CNT 1
          else takeResponse s i q r rest data
      if ce then notifyCe t i since else t)

/-- ACKNOWLEDGE: an Acknowledge or NAK packet. [DEDUCED, log entry 91] -/
def execAcknowledge (qpn : BitVec 24) (kind : AckKind) (s : State) : Host.Outcome State Fault Refusal :=
  .next (match localQp s qpn.toNat with
    | none => s.count ING_RX_DROP_CNT 1
    | some i =>
      let q := qpAt s i
      if q.reads = [] then s
      else match kind with
        | .ack => putQp s i { q with tries := 0 }
        | .sequenceNak => retryQp s i
        | .remoteNak => failQp s i 2)

/-- The transport timeout of a queue pair in nanoseconds (Table 13.1). -/
def qpTimeout (s : State) (i : Nat) : Nat := 4096 * 2 ^ max 1 (bits (qpWord s i 4) 16 5)

/-- TRANSPORT_TIMEOUT: the oldest request of a queue pair has not been acknowledged in its time. -/
def execTransportTimeout (wait : QpWait) (s : State) : Host.Outcome State Fault Refusal :=
  .next (if qpTimeout s wait.qp.toNat ≤ wait.ns then retryQp s wait.qp.toNat else s)

/-- A reset asked for: it takes effect once no read is outstanding (Table 13.12). -/
def askQpReset (s : State) (i : Nat) : State :=
  let q := qpAt s i
  if q.reads = [] then resetQp s i else putQp s i { q with resetDue := true }

/-- QP_RESET. -/
def execQpReset (qp : BitVec 12) (s : State) : Host.Outcome State Fault Refusal := .next (askQpReset s qp.toNat)

/-- QP_RESET_ALL: every queue pair in error. -/
def execQpResetAll (s : State) : Host.Outcome State Fault Refusal :=
  .next (((List.range 4096).filter (qpErr s)).foldl askQpReset s)

/-! Decoding (R385 to R391). -/

/-- The pipes that may take a new sample (R390, R401). -/
def pipesOpen (s : State) : Nat :=
  let n := max 1 (min 48 (s.get ING_CFG.PIPES))
  if 2 ≤ s.get PWR_STATUS.STAGE then min 24 n else n

def freePipe (s : State) : Option Nat := (List.range (pipesOpen s)).find? (fun p => !s.ing.samples.any (fun x => x.pipe == some p))

/-- The bytes of a sample of a picture in the frame store, and of a picture. [DESIGN CHOICE, log entry 167] -/
def depthBytes (depth : Nat) : Nat := if depth ≤ 8 then 1 else 2

def infoBytes (i : StreamInfo) : Nat :=
  (i.width * i.height + if i.mono then 0 else 2 * ((i.width + 1) / 2 * ((i.height + 1) / 2))) * depthBytes i.depth

/-- A pipe's share of the frame-store tag (R390). -/
def frameShare (s : State) : Nat := if frameTag s < 4096 then (tagEntry s (frameTag s)).bytes / 48 else 0

/-- A profile, level and depth that Table 13.3 has for a codec. [DEDUCED, log entry 94] -/
def profileOk (codec : Nat) (i : StreamInfo) : Bool :=
  match codec with
  | 0 => i.profile == .main && decide (i.level ≤ 3) && i.depth == 8
  | 1 => [Profile.constrainedBaseline, .main, .high].contains i.profile && decide (i.level ≤ 52) && i.depth == 8
  | 2 => (i.profile == .main && i.depth == 8 || i.profile == .main10 && (i.depth == 8 || i.depth == 10)) && decide (i.level ≤ 51)
  | _ => i.profile == .main && (i.depth == 8 || i.depth == 10) && decide (i.level ≤ 51)

/-- A stream that Table 13.3 takes in: of no reserved container, of a codec, profile and level of the table, 4:2:0 or monochrome, within the bound on its
pictures, not encrypted, and with reference pictures that fit the pipe's share of the frame store (R388, R389). [DEDUCED, log entry 94] -/
def streamOk (s : State) (x : IngSample) (d : Demux) (i : StreamInfo) : Bool :=
  decide (x.container < 2) && !d.encrypted && (match d.codec with | some c => profileOk c i | none => false) && i.sampled
    && decide (i.width ≤ 4096) && decide (i.height ≤ 2304) && decide (max 1 i.refs * infoBytes i ≤ frameShare s)

/-- PIPE_ASSIGN: the oldest sample whose video has been found, or whose whole fetch has arrived without it, is given to the lowest free pipe, or found to be
unsupported. [DEDUCED, log entry 94; DESIGN CHOICE, log entry 96] -/
def execPipeAssign (info : StreamInfo) (s : State) : Host.Outcome State Fault Refusal :=
  .next (match s.ing.samples.find? (fun x => x.pipe.isNone && !x.unsupported && !x.failed && decide (0 < x.received)
        && (x.demux.ready || x.container ≥ 2 || x.received == x.length)), freePipe s with
    | some x, some p =>
      let d := x.demux
      if x.container < 2 ∧ !d.ready then putSample s { x with pipe := some p }
      else if streamOk s x d info then putSample s { x with info := some info, codec := d.codec, pipe := some p }
      else logIng (setIngErr ((putSample s { x with info := some info, unsupported := true }).count ING_UNSUPPORTED_CNT 1) 5 0 x.entry) 6 1 2 p
    | _, _ => s)

/-- The place of a picture among the kept frames of its sample (R387). -/
def keptIndex (r : Recipe) (start number : Nat) : Option Nat :=
  let st := max 1 r.stride
  if start ≤ number ∧ (number - start) % st = 0 ∧ (number - start) / st < r.frames then some ((number - start) / st) else none

/-- A picture is dropped (R391). [DEDUCED, log entry 97] -/
def dropFrame (s : State) (x : IngSample) (pipe : Nat) (kept : Option Nat) : State :=
  let s := setIngErr (s.count ING_FRAME_DROP_CNT 1) 6 0 x.entry
  let s := if x.logged then s else logIng s 7 1 2 pipe
  putSample s { x with logged := true, dropped := match kept with | some i => i :: x.dropped | none => x.dropped }

/-- The pipe does not decode a picture: every kept frame has been, or the recipe skips non-reference pictures that are not kept (R390).
[DEDUCED, log entry 97] -/
def skipsPicture (r : Recipe) (x : IngSample) (f : FrameResult) : Bool :=
  decide (r.frames ≤ x.decided.length) || (r.skipNonref && f.nonref && (keptIndex r x.start f.number).isNone)

/-- The planes of a picture as bytes, and back. [DESIGN CHOICE, log entry 167] -/
def storePicture (p : Picture) : List Byte := (p.luma ++ p.cb ++ p.cr).flatMap (toBytes (depthBytes p.depth))

def loadPicture (p : Picture) (bs : List Byte) : Picture :=
  let k := depthBytes p.depth
  let at_ := fun n i => ofBytes ((bs.drop (k * (n + i))).take k)
  let l := p.width * p.height
  let c := if p.mono then 0 else (p.width + 1) / 2 * ((p.height + 1) / 2)
  { p with luma := (List.range l).map (at_ 0), cb := (List.range c).map (at_ l), cr := (List.range c).map (at_ (l + c)) }

def pictureSize (p : Picture) : Nat :=
  (p.width * p.height + if p.mono then 0 else 2 * ((p.width + 1) / 2 * ((p.height + 1) / 2))) * depthBytes p.depth

/-- The lines of two fields in turn. -/
def weave (w h : Nat) (top bottom : List Nat) : List Nat :=
  (List.range h).flatMap (fun y => (top.drop (y * w)).take w ++ (bottom.drop (y * w)).take w)

/-- Two fields paired into an interlaced frame, the top field first (Table 13.3). -/
def pairFields (top bottom : Picture) : Picture :=
  let cw := (top.width + 1) / 2
  let ch := (top.height + 1) / 2
  { top with
    height := 2 * top.height, interlaced := true, luma := weave top.width top.height top.luma bottom.luma
    cb := weave cw ch top.cb bottom.cb, cr := weave cw ch top.cr bottom.cr }

/-- What becomes of a frame, from what becomes of its fields. -/
def pairResults (f g : FrameResult) : FrameResult :=
  { f with random := f.random || g.random, nonref := f.nonref && g.nonref, error := f.error || g.error
           predicted := f.predicted ++ g.predicted, units := f.units ++ g.units }

/-- The place in the frame store of the next picture of a pipe: the places of its share are taken in turn. [DESIGN CHOICE, log entry 167] -/
def framePlace (s : State) (pipe : Nat) (x : IngSample) (size : Nat) : Nat :=
  pipe * frameShare s + x.stored % max 1 (frameShare s / max 1 size) * size

/-- The presentation time of a frame: that of the coded unit in which it is the first to begin, or the one derived from others (R385). -/
def frameTime (d : Demux) (f : FrameResult) : Nat :=
  if f.first then (((f.units.head?).bind (fun k => d.units[k]?)).bind (·.pts)).getD f.pts.toNat else f.pts.toNat

/-- A pipe finishes a frame: it is dropped for an error of its own, for one of its coded units, or for a frame that it is predicted from, and is otherwise
stored (R387, R390, R391). Where its place holds a frame that the tokeniser has not taken, the pipe waits. [DEDUCED, log entry 97] -/
def finishFrame (s : State) (x : IngSample) (pipe : Nat) (f : FrameResult) (pic : Picture) : State :=
  let r := recipeAt s x.recipe
  let d := x.demux
  let at_ := framePlace s pipe x (pictureSize pic)
  if skipsPicture r x f then putSample s x
  else
    let before := if f.random then [] else x.bad
    let bad := f.error || f.units.any (fun k => ((d.units[k]?).map (·.errored)).getD true) || f.predicted.any (fun n => before.contains n)
    let kept := (keptIndex r x.start f.number).filter (fun i => !x.decided.contains i)
    if !bad ∧ s.ing.frames.any (fun k => k.place == at_) then s
    else
      let s := s.count ING_FRAME_CNT 1
      let x := { x with
        bad := if bad then f.number :: before else before
        decided := match kept with | some i => i :: x.decided | none => x.decided
        pts := if kept = some 0 then some (frameTime d f) else x.pts }
      if bad then dropFrame s x pipe kept
      else
        let s := tagWrite (s.newOp 5) (rawChan (s.newOp 5) (frameTag s)) (Int.ofNat at_) (storePicture pic)
        let s := putSample s { x with stored := x.stored + 1 }
        match kept with
        | some i =>
          setIng s { s.ing with
            frames := s.ing.frames ++ [{ sample := x.id, index := i, place := at_, head := { pic with luma := [], cb := [], cr := [] } }] }
        | none => s

/-- FRAME_DECODE: a pipe finishes a picture of bytes that have arrived. A field of a field-coded HEVC sequence waits for the other of its frame; where
that does not come, the frame has an error. [DESIGN CHOICE, log entry 96] -/
def execFrameDecode (pipe : Fin 48) (f : FrameResult) (pic : Picture) (s : State) : Host.Outcome State Fault Refusal :=
  .next (match s.ing.samples.find? (fun x => x.pipe == some pipe.val) with
    | none => s
    | some x =>
      match x.info with
      | none => s
      | some i =>
        if x.received < x.length ∧ f.units.any (fun k => decide (x.demux.units.length ≤ k)) then s
        else if !(i.fieldSeq && x.codec == some 2) then finishFrame s x pipe.val f pic
        else match x.half with
          | none => putSample s { x with half := some (f, pic) }
          | some (g, p) =>
            if g.number ≠ f.number ∨ g.second = f.second then
              finishFrame s { x with half := some (f, pic) } pipe.val { g with error := true } p
            else if f.second then finishFrame s { x with half := none } pipe.val (pairResults g f) (pairFields p pic)
            else finishFrame s { x with half := none } pipe.val (pairResults f g) (pairFields pic p))

/-! Tokens and delivery (R393 to R399). -/

/-- TOKENISE_FRAME: the kept frame that has waited longest. -/
def execTokeniseFrame (s : State) : Host.Outcome State Fault Refusal :=
  .next (match s.ing.frames with
    | [] => s
    | f :: rest =>
      let s := setIng s { s.ing with frames := rest }
      match sampleById s f.sample with
      | none => s
      | some x =>
        let p := tagRead (s.newOp 5) (rawChan (s.newOp 5) (frameTag s)) (Int.ofNat f.place) (pictureSize f.head)
        let t := tokenise p.2 (recipeAt s x.recipe) (loadPicture f.head p.1)
        putSample t.2 { x with tokens := FMap.put x.tokens f.index t.1 })

/-- The descriptor by which the tokens of a sample lie in L2, from a place of a tag in units of 4 KiB (R394). -/
def tokenDesc (r : Recipe) (tag place : Nat) : Desc :=
  let d := Desc.ofWords [0, 0, 0, 0, 0, 0, 0, 0]
  let dim := fun size stride : Nat => ({ size := size, stride := Int.ofNat stride, bcast := false, idx := false } : Dim)
  { d with
    offset := place, tag := tag, fmt := 2, layout := 2, d0 := dim r.width 36
    d1 := dim (r.frames * r.frameTokens) (36 * ceilDiv (ceilDiv r.width 32) 6), d2 := dim 1 0, d3 := dim 1 0, d4 := dim 1 0, d5 := dim 1 0 }

/-- The units of 4 KiB that the tokens of a sample take: whole supertiles. -/
def tokenUnits (r : Recipe) : Nat :=
  ceilDiv (ceilDiv (ceilDiv r.width 32) 6 * ceilDiv (ceilDiv (r.frames * r.frameTokens) 32) 6 * 36 * 2048) 4096

/-- An element of a sample's tokens: +0 where its frame is missing. -/
def tokenElem (r : Recipe) (x : IngSample) (t e : Nat) : TokenElem :=
  let n := max 1 r.frameTokens
  ((FMap.find x.tokens (t / n)).getD []).getD (t % n * r.width + e) { bits := 0, exact := 0, events := .none }

/-- The descriptor of the store that names a tally array for a sample's tokens in a staging slot (R68). [DESIGN CHOICE, log entry 102] -/
def tokenTally (s : State) (tag place : Nat) : Option Desc :=
  s.descs.findSome? (fun e => (descAt s e.1).filter (fun d => d.hasTally && d.tag == tag && d.offset == place && d.layout == 2))

/-- The tokens of a sample written to a staging slot tile by tile, with a record of each tile (R68, R394). [DESIGN CHOICE, log entry 102] -/
def writeTokens (s : State) (r : Recipe) (x : IngSample) (slot tag place : Nat) : State :=
  let d := tokenDesc r tag place
  let named := tokenTally s tag place
  (List.range d.tiles).foldl (fun s k =>
    let p := d.posOf k
    let elems := (List.range 1024).map (fun e => tokenElem r x (32 * p.t1 + e / 32) (32 * p.t0 + e % 32))
    let inside := (List.range 1024).filter (d.inSize p)
    let at_ := fun e => elems.getD e { bits := 0, exact := 0, events := .none }
    let t := Tally.ofTile .bf16 (s.cvt regionING r.cvt) false (inside.map (fun e => val32 (at_ e).exact))
      (inside.foldl (fun n e => n.plus (at_ e).events) .none)
    let s := writeTile s d (streamChan s tag) p { elems := elems.map (·.bits), scales := [], conv := s.conv regionING } (d.inSize p)
    let s := match named with | some e => writeTally s e k t | none => s
    setIng s { s.ing with tallies := FMap.put s.ing.tallies (2 ^ 32 * slot + k) t.encode }) s

/-- Whether nothing more will come of a sample: `ended` says that its stream has ended. [DEDUCED, log entry 95] -/
def sampleDone (s : State) (x : IngSample) (ended : Bool) : Bool :=
  !s.ing.frames.any (fun f => f.sample == x.id)
    && (x.failed || x.unsupported || x.length == 0 || decide ((recipeAt s x.recipe).frames ≤ x.decided.length)
        || (ended && x.pipe.isSome && x.received == x.length))

/-- The record of a sample (Table 13.5). -/
def sampleRecord (s : State) (r : Recipe) (x : IngSample) (trunc : Bool) (audio : Nat) : List Byte :=
  let open_ := fun k => (Config.openRecord (s.free * 8 + k)).toNat
  let short := !x.failed && !x.unsupported && decide (x.decided.length < r.frames)
  toBytes 8 (x.entry % 2 ^ 32 + x.pass * 2 ^ 32)
    ++ toBytes 8 (x.istep % 2 ^ 32 + (x.decided.length - x.dropped.length) * 2 ^ 32 + x.dropped.length * 2 ^ 48)
    ++ toBytes 8 (1 + b2n (x.dropped != []) * 2 + b2n short * 4 + b2n x.failed * 8 + b2n x.unsupported * 16 + b2n trunc * 32
        + ((x.info.map (fun i => b2n (i.interlaced || i.fieldSeq))).getD (open_ 0 % 2)) * 64 + x.codec.getD 15 * 2 ^ 8
        + x.recipe * 2 ^ 12 + ((x.info.map (·.width)).getD (open_ 1) % 2 ^ 16) * 2 ^ 16 + ((x.info.map (·.height)).getD (open_ 2) % 2 ^ 16) * 2 ^ 32)
    ++ toBytes 8 (x.pts.getD (open_ 3) % 2 ^ 33)
    ++ toBytes 8 (audio + (r.frames * r.frameTokens) * 2 ^ 32)
    ++ List.replicate 24 0

/-- A sample carries a fault flag (R396). -/
def sampleMarked (r : Recipe) (x : IngSample) : Bool :=
  x.dropped != [] || x.failed || x.unsupported || decide (x.decided.length < r.frames)

/-- The start tick of a sample's destination step has passed (R399). -/
def startPassed (s : State) (dstep : Nat) : Bool :=
  decide (dstep < s.step.count)
    || (match s.step.next with
        | some t => decide (t + (dstep - s.step.count) * max 1 (imgField s 1 0 4) ≤ s.tick)
        | none => false)

/-- A sample written to a staging slot: its record, its tokens from 4 KiB on, its audio after them (R398). -/
def stageSample (s : State) (r : Recipe) (x : IngSample) (slot : Nat) (trunc : Bool) (audio : List Byte) : State :=
  let tag := stagingTag s
  let place := slot * (tagEntry s tag).slotSize
  let s := putSlot (s.newOp 5) tag slot ((slotAt s tag slot).accessed true)
  let s := tagWrite s (streamChan s tag) (Int.ofNat (place * 4096)) (sampleRecord s r x trunc audio.length)
  let s := { writeTokens s r x slot tag (place + 1) with free := s.free + 1 }
  let s := if audio = [] then s else tagWrite s (streamChan s tag) (Int.ofNat ((place + 1 + tokenUnits r) * 4096)) audio
  closeSlot s 0x09 tag slot

/-- SAMPLE_DELIVER: sample `which` of those taken up is delivered to a staging slot that is EMPTY, once nothing more will come of it.
[DEDUCED, log entry 95] -/
def execSampleDeliver (which : Nat) (ended : Bool) (slot : Nat) (s : State) : Host.Outcome State Fault Refusal :=
  .next (match s.ing.samples[which]? with
    | some x =>
      if !ingestOn s ∨ !sampleDone s x ended ∨ startPassed s x.dstep ∨ (tagEntry s (stagingTag s)).slots ≤ slot
          ∨ (slotAt s (stagingTag s) slot).st ≠ .empty then s
      else
        let r := recipeAt s x.recipe
        let audio := x.demux.audio
        let trunc := decide (1024 * r.audioMax < audio.length)
        let s := if trunc then setIngErr (s.count ING_AUDIO_TRUNC_CNT 1) 8 0 x.entry else s
        let audio := audio.take (1024 * r.audioMax)
        let s := dropSample (stageSample s r x slot trunc audio) x.id
        let s := s.count ING_SAMPLE_CNT 1
        let s := if sampleMarked r x then s.count ING_SAMPLE_MARK_CNT 1 else s
        setIng s { s.ing with ready := s.ing.ready ++ [{ slot := slot, dstep := x.dstep, pass := x.pass, istep := x.istep, q := x.q
                                                         recipe := x.recipe, audio := audio.length }] }
    | none => s)

/-- SAMPLE_ABANDON: the oldest sample whose step has begun is given up. [DEDUCED, log entry 89] -/
def execSampleAbandon (s : State) : Host.Outcome State Fault Refusal :=
  .next (match s.ing.samples.find? (fun x => startPassed s x.dstep) with
    | none => s
    | some x => setIngErr (((dropSample s x.id).count ING_ABANDON_CNT 1).count DRV_SHUF_LATE_CNT 1) 7 0 x.entry)

/-! The shuffle's send path (R168, R169, R398). -/

/-- The places that a tag has for parts of `size` bytes: its slots, or as many parts as it holds where it has none. -/
def partPlaces (s : State) (tag size : Nat) : Nat :=
  let e := tagEntry s tag
  if e.slots = 0 then e.bytes / max 1 size else e.slots

/-- The place in a tag of the part at place `i` of a data step: the parts of data step after data step take the tag's places in turn.
[DESIGN CHOICE, log entry 155] -/
def partPlace (s : State) (tag d i size : Nat) : Nat := (d * shufG s + i) % max 1 (partPlaces s tag size)

/-- Where a part of a sample goes in a tag. [DESIGN CHOICE, log entry 155] -/
def partOffset (s : State) (tag d i size : Nat) : Nat :=
  let e := tagEntry s tag
  partPlace s tag d i size * (if e.slots = 0 then size else e.slotSize * 4096)

/-- The place is one that the running step reads (R30): the running step's data step is the last one started. [DESIGN CHOICE, log entry 155] -/
def partInUse (s : State) (tag d i size : Nat) : Bool :=
  let dr := s.step.count - 1
  s.step.running && decide (tag < 4096) && d != dr
    && (List.range (shufG s)).any (fun j => partPlace s tag dr j size == partPlace s tag d i size)

/-- A shuffled piece must wait (R30): its place is one that the running step reads, whose sample stands in the destination tag already.
[DESIGN CHOICE, log entry 155] -/
def pieceWaits (s : State) (tag off : Nat) : Bool :=
  let e := tagEntry s tag
  let dest := shufField s 0x28 2
  s.step.running && e.slots != 0 && (List.range (shufG s)).any (fun i =>
    partPlace s tag (s.step.count - 1) i 0 == off / (e.slotSize * 4096)
      && [SlotSt.full, .draining].contains (slotAt s dest (partPlace s dest (s.step.count - 1) i 0)).st)

/-- SAMPLE: a piece of a shuffled sample is written once its place may be. -/
def execSample (n : Fin 16) (s : State) : Host.Outcome State Fault Refusal :=
  .next (match peekRx s n (isType 10) with
    | none => s
    | some x =>
      let tag := bits x.pkt.hdr1 0 12
      let off := 16 * bits x.pkt.hdr1 12 36
      if pieceWaits s tag off then s
      else takeSample (takeRx s n (isType 10)) tag off x.pkt.last x.pkt.data)

/-- One piece of the sample in a staging slot sent to a module, or written here when the module is this one. -/
def sendPiece (s : State) (slot id tag off : Nat) (last : Bool) (bs : List Byte) : State :=
  if id = s.lnk.ownId then takeSample s tag off last bs
  else sendFor s 7 (Packet.make id s.lnk.ownId 10 false last (tag % 2 ^ 12 + off / 16 * 2 ^ 12) bs) (.sample slot)

/-- Pieces of at most 2 KiB of a part. [DESIGN CHOICE, log entry 53] -/
def partPieces (n : Nat) : List (Nat × Nat) := (List.range (ceilDiv n 2048)).map (fun k => (2048 * k, min 2048 (n - 2048 * k)))

/-- A part of a sample read from staging and sent piece by piece to every module. -/
def sendPart (s : State) (slot : Nat) (ids : List Nat) (src tag off : Nat) (last : Bool) (pieces : List (Nat × Nat)) : State :=
  if tag ≥ 4096 then s
  else
    pieces.zipIdx.foldl (fun s p =>
      let r := tagRead (s.newOp 5) (streamChan (s.newOp 5) (stagingTag s)) (Int.ofNat (src + p.1.1)) p.1.2
      ids.foldl (fun s id => sendPiece s slot id tag (off + p.1.1) (last && p.2 + 1 == pieces.length) r.1) r.2) s

/-- The tiles of a sample's tokens, as pieces, in the order of their numbers. [DESIGN CHOICE, log entry 53] -/
def tokenPieces (r : Recipe) : List (Nat × Nat) :=
  let d := tokenDesc r 0 0
  (List.range d.tiles).map (fun k => ((d.tileOff (d.posOf k)).toNat, 2048))

/-- The modules of a replica group. -/
def groupMembers (s : State) (g : Nat) : List Nat :=
  let m := shufField s 0x2A 2
  (List.range m).map (fun k => shufField s (0x40 + 2 * (g * m + k)) 2)

/-- The parts of a sample, each with its tag, where it lies in staging, its size in the tag, and its pieces: the record and the audio ahead of the
tokens (R398). [DESIGN CHOICE, log entry 53] -/
def sampleParts (s : State) (x : ReadySample) : List (Nat × Nat × Nat × List (Nat × Nat)) :=
  let r := recipeAt s x.recipe
  let src := x.slot * (tagEntry s (stagingTag s)).slotSize * 4096
  [(ingField s 0x2E 2, src, 64, partPieces 64),
   (ingField s 0x30 2, src + (1 + tokenUnits r) * 4096, 1024 * r.audioMax, partPieces x.audio),
   (shufField s 0x28 2, src + 4096, tokenUnits r * 4096, tokenPieces r)]

/-- A sample sent to its group; the token tiles end with a close. [DESIGN CHOICE, log entry 53] -/
def sendSample (s : State) (x : ReadySample) : State :=
  let i := x.q % shufG s
  let ids := groupMembers s (x.q / shufG s)
  (sampleParts s x).zipIdx.foldl (fun s p =>
    sendPart s x.slot ids p.1.2.1 p.1.1 (partOffset s p.1.1 x.dstep i p.1.2.2.1) (p.2 == 2) p.1.2.2.2) s

/-- A routing operation is sending rows (R169): one that is not a COMBINE, whose accesses are admitted, and that does not wait for the host. -/
def routeSending (s : State) : Bool :=
  match drvReady s with
  | some op => op.func == 0x46 && decide (op.subop ≤ 2) && !awaitsHost s op
  | none => false

/-- A sample whose place the running step still reads is not sent yet (R30). [DESIGN CHOICE, log entry 155] -/
def sampleHeld (s : State) (x : ReadySample) : Bool :=
  (sampleParts s x).any (fun p => partInUse s p.1 x.dstep (x.q % shufG s) p.2.2.1)

/-- SHUFFLE_SEND: the sample that has waited longest is sent, or dropped when its step has begun; its staging slot is drained once
every copy has been accepted (R398). [DEDUCED, log entry 89] -/
def execShuffleSend (s : State) : Host.Outcome State Fault Refusal :=
  .next (match s.ing.ready with
    | [] => s
    | x :: rest =>
      if s.held DRV_SHUF_CFG.ENABLE = 0 ∨ (s.get DRV_ROUTE_CFG.SHUF_SHARE = 0 ∧ routeSending s) then s
      else
        let t := setIng s { s.ing with ready := rest }
        if x.dstep < s.step.count then drainSlot (t.count DRV_SHUF_LATE_CNT 1) 0x0A (stagingTag s) x.slot
        else if sampleHeld s x then s
        else
          let u := (sendSample ((t.set DRV_SHUF_STATUS.PASS x.pass).set DRV_SHUF_STATUS.STEP x.istep) x).count DRV_SHUF_SENT_CNT 1
          afterSent u (.sample x.slot) (.drain 0x0A (stagingTag u) x.slot))

/-- A step starts: the samples of its data step that ING has not taken up can no longer be sent, and count as late and as
abandoned (R168, R170, R399). [DEDUCED, log entry 89] -/
def passSamples (s : State) : State :=
  let d := s.step.count
  if !ingestOn s ∨ shufN s < shufB s ∨ d < s.ing.dstep then s
  else
    let r := max 1 (shufField s 0x10 2)
    let rank := shufField s 0x12 2
    let from_ := if s.ing.dstep = d then s.ing.q else 0
    let late := (List.range (shufB s)).filter (fun q => decide (from_ ≤ q) && q % r == rank)
    let s := late.foldl (fun s q => setIngErr ((s.count ING_ABANDON_CNT 1).count DRV_SHUF_LATE_CNT 1) 7 0 (placeSample s d q).2.2.1) s
    setIng s { s.ing with dstep := d + 1, q := 0 }

end Sys2Proof.Machine
end

