-- ==== Sys2Proof/Machine/MemCmds.lean ====
section
/-!
DEFINITION. Machine/MemCmds.lean: commits of descriptors, the patrol of SRAM, and requests to stack memory with what the
cache, the prefetchers and the controllers do about them (06 R195, R196; 07 R224; 08 R231 to R253).
-/

namespace Sys2Proof.Machine

open Reg

/-! Descriptor commits (R195, R196). -/

/-- A write of SEQ_DESC_CTL: with COMMIT, validation of the staged words begins unless one is under way. -/
def descCommit (s : State) (number commit : Nat) : State :=
  if commit = 0 ∨ s.commitNow.isSome then s
  else
    { (s.set SEQ_DESC_RESULT.NUMBER number).set SEQ_DESC_RESULT.PENDING 0 with
      commitNow := some (number % 4096, (List.range 8).map (fun i => s.get (SEQ_DESC_DATA.WORD i))) }

/-- A descriptor refused at creation (Table 6.8). -/
def descRefused (s : State) : State :=
  (s.count SEQ_DESC_REFUSED_CNT 1).log { region := regionSEQ, event := 1, level := 2, action := 2 }

/-- Descriptors installed in the store. -/
def installDescs (s : State) (ds : List (Nat × List Nat)) : State :=
  { s with descs := ds.foldl (fun m d => FMap.put m d.1 d.2) s.descs }

/-- Validation ends: installed, held for the step boundary, or refused. -/
def descValidated (s : State) : State :=
  match s.commitNow with
  | none => s
  | some (n, ws) =>
    let s := { s with commitNow := none }.set SEQ_DESC_RESULT.VALID 1
    let code := (Desc.ofWords ws).refusal (tagEntry s)
    let others := s.commits.filter (fun c => c.1 != n)
    let code := if code = 0 ∧ s.step.running ∧ others.length ≥ 64 then 15 else code
    let s := s.set SEQ_DESC_RESULT.CODE code
    if code ≠ 0 then descRefused s
    else if s.step.running then { s.set SEQ_DESC_RESULT.PENDING 1 with commits := others ++ [(n, ws)] }
    else installDescs s [(n, ws)]

/-- DESC_COMMIT. -/
def execDescCommit (number : BitVec 12) (s : State) : Host.Outcome State Fault Refusal :=
  .next (descCommit s number.toNat 1)

/-- DESC_VALIDATE_DONE. -/
def execDescValidateDone (s : State) : Host.Outcome State Fault Refusal := .next (descValidated s)

/-! The patrol of SRAM (R224). -/

/-- PATROL_READ (R224): a reader reads its next word and meets the error that stands there. -/
def execPatrolRead (reader : Fin 76) (upsets : List Upset) (s : State) : Host.Outcome State Fault Refusal :=
  let r := reader.val
  let w := (FMap.find s.patrol r).getD 0
  let next := (w + 1) % patrolWords
  .next (meetWords (strike { s with patrol := if next = 0 then FMap.del s.patrol r else FMap.put s.patrol r next } upsets)
    (fun a => a == patrolAddr r w))

/-! Requests to stack memory (R230 to R241, R249, R253). -/

/-- The bytes of a request. -/
def askLen : MemAsk → Nat
  | .read n => n
  | .write d => d.length

def addFill (s : State) (f : Fill) : State := { s with memory := { s.memory with fills := s.memory.fills ++ [f] } }

/-- A request that fetches its line when it misses (Table 8.3): a NORMAL or KEEP one that is not a write of the whole line. -/
def fetches (h : Hint) : MemAsk → Bool
  | .read _ => h == .normal || h == .keep
  | .write d => (h == .normal || h == .keep) && d.length != 2048

/-- The wave of a request for a line on its way: that of the last fill of it, or a new one where a LAST read has passed that fill (R241). -/
def waveFor (s : State) (l : Nat) : Nat × Bool :=
  match (s.memory.fills.filter (fun f => f.line == l)).getLast? with
  | none => (0, true)
  | some f => if f.discarded then (f.wave + 1, true) else (f.wave, false)

/-- A request that the stack's burst of its line serves, in the order of R231: it joins the fill on its way, or is the first of a new one. A LAST
read makes the fills not to be kept. -/
def joinFill (s : State) (h : Hint) (l off : Nat) (ask : MemAsk) : State :=
  let w := waveFor s l
  let s := if !w.2 then s
    else if fetches h ask then burst s false l 0 2048
    else match ask with
      | .read n => burst s false l off n
      | .write _ => s
  let s := addFill s { line := l, wave := w.1, prefetch := false, hint := h, discarded := decide (h = .last)
                       off := off, len := askLen ask
                       write := match ask with | .write d => some d | .read _ => none }
  if h = .last then discardFills s l else s

/-- A request within one line waits for its controller (R230): it would send it a burst, and the controller's queue of 256 is full or older requests
wait for the same stack; or an older request waits for its line (R231). [DESIGN CHOICE, log entry 56] -/
def waitsForFill (s : State) (h : Hint) (l : Nat) (ask : MemAsk) : Bool :=
  let resident := (findLine s l).isSome
  let joins := !(waveFor s l).2
  let whole := (h == .normal || h == .keep) && !fetches h ask
  s.memory.waiting.any (fun w => lineOf w.addr == l)
    || (!pageRetired s (pageOf l) && !resident && !joins && !whole
        && (decide ((ctrlQueue s l).length ≥ 256) || s.memory.waiting.any (fun w => stackOf (lineOf w.addr) == stackOf l)))

/-- A request within one line (Table 8.3): served at once, or by a fill that it starts or joins. -/
def lineRequest (s : State) (ch : Nat) (hint : Hint) (a : Nat) (ask : MemAsk) : State :=
  let l := lineOf a
  let off := a % 2048
  let h := match ask with | .read _ => effHint s hint | .write _ => writeHint s hint
  let atOnce := fun s => match ask with
    | .read n => let r := readLine s ch h l off n; setReply r.2 r.1
    | .write d => writeLine s ch h l off d
  if pageRetired s (pageOf l) ∨ (findLine s l).isSome then atOnce s
  else if s.memory.fills.any (fun f => f.line == l) ∨ fetches h ask then
    joinFill (streamMiss (s.count MEM_CACHE_MISS_CNT 1) ch l) h l off ask
  else atOnce s

/-- Requests that waited are taken, oldest first, as long as their controllers have room (R230); `kept` are those that still wait. -/
def takeWaiting (kept : List WaitReq) : List WaitReq → State → State
  | [], s => { s with memory := { s.memory with waiting := kept } }
  | w :: ws, s =>
    let s := { s with memory := { s.memory with waiting := kept } }
    if waitsForFill s (effHint s w.hint) (lineOf w.addr) w.ask then takeWaiting (kept ++ [w]) ws s
    else takeWaiting kept ws (lineRequest s w.chan w.hint w.addr w.ask)

/-- MEM_REQUEST: the part of the request within its first line; the rest of a request that crosses a line is a request of
its own (R233). [DESIGN CHOICE, log entry 56] -/
def execMemRequest (ch : Nat) (hint : Hint) (addr : BitVec 40) (ask : MemAsk) (bursts cells : List Upset) (s : State) :
    Host.Outcome State Fault Refusal :=
  let a := addr.toNat
  let room := 2048 - a % 2048
  let ask : MemAsk := match ask with | .read n => .read (min n room) | .write d => .write (d.take room)
  let s := strike s (bursts ++ cells)
  .next (if a ≥ stackBytes then s
    else if waitsForFill s (effHint s hint) (lineOf a) ask then
      { s with memory := { s.memory with waiting := s.memory.waiting ++ [{ chan := ch, hint := hint, addr := a, ask := ask }] } }
    else lineRequest s ch hint a ask)

/-- CACHE_FILL_ARRIVE: a controller serves its stack's bursts oldest first (R19), so a line arrives once no older fill of its stack is on its way;
a request that waited for the controller then takes its place. [DEDUCED, log entry 141] -/
def execCacheFillArrive (line : Nat) (upsets : List Upset) (s : State) : Host.Outcome State Fault Refusal :=
  let s := strike s upsets
  .next (match s.memory.fills.find? (fun f => stackOf f.line == stackOf line) with
    | none => s
    | some f =>
      if f.line ≠ line then s
      else
        let s := fillArrives s line
        takeWaiting [] s.memory.waiting s)

def dropPrefetch (s : State) (l : Nat) : State :=
  { s with memory := { s.memory with pfq := s.memory.pfq.filter (fun p => p.2.2 != l) } }

/-- PREFETCH_ISSUE (R246): a requested prefetch is sent when its controller holds fewer than 32 demand requests: those of requests in progress, and
`queued` of accesses that the model makes whole; a line that has become resident is not fetched. [DESIGN CHOICE, log entry 56] -/
def execPrefetchIssue (line queued : Nat) (s : State) : Host.Outcome State Fault Refusal :=
  .next (if queued + (ctrlQueue s line).length ≥ 32 ∨ !s.memory.pfq.any (fun p => p.2.2 == line) then s
    else
      let s := dropPrefetch s line
      if (findLine s line).isSome ∨ s.memory.fills.any (fun f => f.line == line) then s
      else
        addFill (burst (s.count MEM_PF_ISSUE_CNT 1) false line 0 2048)
          { line := line, wave := 0, prefetch := true, hint := .normal, discarded := false, off := 0, len := 0, write := none })

/-- PREFETCH_DROP (R246). -/
def execPrefetchDrop (line : Nat) (s : State) : Host.Outcome State Fault Refusal :=
  .next (if s.memory.pfq.any (fun p => p.2.2 == line) then (dropPrefetch s line).count MEM_PF_DROP_CNT 1 else s)

/-- STREAM_IDLE_FREE (R245): a stream that has moved on no line for `cycles` ACLK cycles. -/
def execStreamIdleFree (ch cycles : Nat) (s : State) : Host.Outcome State Fault Refusal :=
  .next (if cycles ≥ max 1 (s.held MEM_PF_CFG.IDLE) * 1024 then dropStream s ch else s)

/-- WRITE_BURST_REJECTED (R250): the stack rejects the first `rejects` attempts of a write burst of `len` bytes. When none
is accepted the data is lost, and a line that the burst wrote back is dropped. [DESIGN CHOICE, log entry 57] -/
def execWriteBurstRejected (addr : BitVec 40) (len : Nat) (rejects : Fin 4) (s : State) :
    Host.Outcome State Fault Refusal :=
  let a := addr.toNat
  let n := min len (2048 - a % 2048)
  .next (if rejects.val = 0 ∨ a ≥ stackBytes then s
    else
      let s := s.count MEM_WR_RETRY_CNT (min 2 rejects.val)
      if rejects.val ≤ 2 then s
      else
        let s := if n = 2048 then dropLine s (lineOf a) else s
        writeLost s (lineOf a) a n)

/-! At a step boundary (Table 8.9). -/

/-- A flush begins: the dirty lines are to be written back. -/
def flushCache (s : State) : State :=
  { s with memory := { s.memory with
      flushing := ((s.memory.cache.flatMap (·.2)).filter (·.dirty)).map (·.line) } }

/-- A flush goes on by one line: it is written back and stays, clean; a line whose data is lost on the way is dropped (R250).
[DESIGN CHOICE, log entry 5] -/
def flushNext (s : State) : State :=
  match s.memory.flushing with
  | [] => s
  | l :: ls =>
    let s := { s with memory := { s.memory with flushing := ls } }
    match findLine s l with
    | none => s
    | some x =>
      if !x.dirty then s
      else
        let r := writeBack s x
        if r.1 then dropLine r.2 l else putInPlace r.2 { x with dirty := false, bytes := [] }

/-- Every KEEP line becomes ordinary. -/
def unkeepAll (s : State) : State :=
  { s with memory := { s.memory with
      cache := s.memory.cache.map (fun e => (e.1, e.2.map (fun x => { x with keep := false }))) } }

/-- The stream tables emptied, and with them the prefetches not yet sent (R247). -/
def emptyStreams (s : State) : State :=
  { s with memory := { s.memory with streams0 := [], streams1 := [], pfq := [] } }

/-- What MEM_CACHE_CTL has asked for takes effect. -/
def applyCacheCtl (s : State) : State :=
  let s := if s.memory.flushReq then flushCache s else s
  let s := if s.memory.unkeepReq then unkeepAll s else s
  { s with memory := { s.memory with flushReq := false, unkeepReq := false } }

end Sys2Proof.Machine
end

