-- ==== Sys2Proof/Machine/StepCtl.lean ====
section
/-!
DEFINITION. Machine/StepCtl.lean: the start and the end of a step, what takes effect at a step boundary, epoch changes there, and
the commands whose effects wait for a boundary (01 R26 to R37; 09 R260; 10 R321; 14 R421; 15 R443, R452).
-/

namespace Sys2Proof.Machine

open Reg

/-! Image operations that end (R475). -/

/-- An image operation ends with a code: reported, and counted, logged and flagged when it is not 0; one rejected for a descriptor has
that refused as well (R197). -/
def reportImage (s : State) (op slot code detail : Nat) : State :=
  let s := ((((s.set CTL_IMG_STATUS.VALID 1).set CTL_IMG_STATUS.CODE code).set CTL_IMG_STATUS.OP op).set
    CTL_IMG_STATUS.SLOT slot).set CTL_IMG_STATUS.DETAIL detail
  let s := if code = 10 then descRefused s else s
  if code = 0 then s
  else ((s.count CTL_IMG_REJECT_CNT 1).log
    { region := regionCTL, event := if code = 18 then 38 else 33, level := 2, action := 2 }).attend 7

/-- A load of the host's that awaits its boundary is discarded (R471). [DEDUCED, log entry 115] -/
def discardLoad (s : State) : State :=
  match s.ctl.load with
  | none => s
  | some l =>
    let s := (s.setCtl { s.ctl with load := none }).set CTL_IMG_STATUS.PENDING 0
    if l.change.isNone then reportImage s l.op l.slot 17 0 else s

/-! Positions (R299). -/

/-- This module's position and coordinates follow the position table. -/
def takePosition (s : State) : State :=
  match s.lnk.topo.bind (fun t => (t.posOf s.lnk.ownId).map (fun p => (t, p))) with
  | none => ((((s.set LNK_ID.POSITION 0xFFFF).set LNK_ID.X 0).set LNK_ID.Y 0).set LNK_ID.Z 0).set LNK_ID.W 0
  | some (t, p) =>
    ((((s.set LNK_ID.POSITION p).set LNK_ID.X (t.coord p 0)).set LNK_ID.Y (t.coord p 1)).set LNK_ID.Z (t.coord p 2)).set
      LNK_ID.W (t.coord p 3)

/-- An amendment of the position table; a position that still holds the identifier becomes vacant, and that is logged. -/
def amendTable (s : State) (a : Nat × Nat) : State :=
  match s.lnk.topo with
  | none => s
  | some t =>
    let twice := a.2 != 0xFFFF && t.ids.zipIdx.any (fun e => e.1 == a.2 && e.2 != a.1)
    let ids := (t.ids.zipIdx.map (fun e =>
      if e.2 = a.1 then a.2 else if a.2 ≠ 0xFFFF ∧ e.1 = a.2 then 0xFFFF else e.1))
    let s := { s with lnk := { s.lnk with topo := some { t with ids := ids } } }
    if twice then
      s.log { region := regionLNK, event := (Config.unlistedEvent 8).toNat, level := 2, action := 5, modul := a.2 }
    else s

/-! Steps to come. -/

/-- A sequencer has executed its halt (R34): it is halted, or runs a hook taken since. [DESIGN CHOICE, log entry 148] -/
def SeqState.halted (x : SeqState) : Bool := !x.startDue && (!x.running || x.frames.any (fun f => f.2.1))

/-- Whether anything but time keeps the next step from starting (R29, R37, R493, R504). -/
def stepBlocked (s : State) : Bool :=
  s.step.running || supplyHolds s || s.ctl.load.isSome || s.ctl.installing.isSome || s.flag CTL_FW_STATUS.SWITCH_PENDING

/-- The first start tick of the schedule after the count. -/
def nextStart (s : State) (t : Nat) : Nat := if s.tick < t then t else t + ((s.tick - t) / stepPeriod s + 1) * stepPeriod s

/-- The first start tick of an epoch that passes unsynchronised is logged (R410), whatever else keeps the step from starting. -/
def noteUnsynced (s : State) : State :=
  if s.get CAD_STATUS.SYNCED ≠ 0 ∨ s.step.unsynced then s
  else { s with step := { s.step with unsynced := true } }.log { region := regionCAD, event := 6, level := 2, action := 2 }

/-- What happens when the start tick of the next step has been reached: no step of an epoch whose census is not complete by its base
(R28); starts that pass unsynchronised are skipped (R410); one that passes while the step cannot start makes it late (R37).
[DEDUCED, log entry 114; DESIGN CHOICE, log entries 68, 149] -/
def checkStart (s : State) : State :=
  match s.step.next with
  | none => s
  | some t =>
    if s.tick < t then s
    else
    let s := noteUnsynced s
    if s.flag FLT_STATUS.WITHDRAWN ∨ ownPos s = 0xFFFF then { s with step := { s.step with next := none } }
    else if s.get LNK_STATUS.CENSUS_OK = 0 then
      notifyRm { s with step := { s.step with next := none } } Config.censusCode.toNat 0xFF s.lnk.ownId
    else if s.get CAD_STATUS.SYNCED = 0 then { s with step := { s.step with next := some (nextStart s t) } }
    else if stepBlocked s then { s with step := { s.step with late := true } }
    else s

/-- The epoch's base tick is set; a base that has passed finds the census incomplete. -/
def setBase (s : State) (base : Nat) : State :=
  checkStart { s with step := { s.step with
    next := some base, baseTick := base, based := true, late := false, unsynced := false, began := none } }

/-! Epochs (R321). -/

/-- Packets of the data channels in the link buffers that are whole and not being sent are discarded at an epoch change (Table 7.5). -/
def discardData (s : State) : State :=
  (List.range 16).foldl (fun s k =>
    let n := portNo k
    let s := iter (fun s => takeRx s n (fun x => decide (x.vc ≥ 2))) (s.port n).inbox.length s
    s.setPort n { s.port n with txq := (s.port n).txq.filter (fun x => decide (x.vc ≤ 1) || x.sent != 0) }) s

/-- No census runs here any more. -/
def dropCensus (s : State) : State := { s.set LNK_CENSUS_STATUS.RUNNING 0 with lnk := { s.lnk with census := none } }

/-- A census that this module runs ends with nothing reported when its epoch has passed (R322). -/
def passCensus (s : State) : State :=
  if s.lnk.census.any (fun c => c.root == ownPos s && c.epoch != s.get LNK_EPOCH.EPOCH) then dropCensus s else s

/-- The epoch in force is the last known, unless a later change is held. -/
def noChange (s : State) (epoch : Nat) : State :=
  if s.lnk.change.isSome then s else (s.set LNK_EPOCH.PENDING epoch).set LNK_STATUS.EPOCH_PENDING 0

/-- A new epoch is taken: the table amended, lost neighbours and this module's own census of the old epoch forgotten, the carry-in area cleared (R350). -/
def enterEpoch (s : State) (c : EpochChange) : State :=
  let old := s.get LNK_DIGEST.DIGEST
  let s := c.amend.foldl amendTable s
  let s := takePosition (noChange ((s.set LNK_EPOCH.EPOCH c.epoch).set LNK_STATUS.CENSUS_OK 0) c.epoch)
  let s := { s with lnk := { s.lnk with
    applied := some (c.epoch, old), lost := [], lostPos := [] } }
  let s := passCensus s
  let s := settleStanding (discardData (clearCarry s (fun _ => true)))
  setBase (releaseWait (s.attend 9)) c.base

/-- A stored image that a change names by its short digest, if it may be loaded. -/
def namedImage (s : State) (short : Nat) : Option (Nat × List Byte) :=
  match slotOf s short with
  | none => none
  | some n =>
    match slotImage s n with
    | some b => if (judgeImage s b).code = 0 then some (n, b) else none
    | none => none

/-- A pending change is applied at a boundary: at once, or with the installation of the image that it names. A module that holds no
such image says so and runs no step of the epoch. [DEDUCED, log entry 67] -/
def applyChange (s : State) (c : EpochChange) : State :=
  let earlier := (s.ctl.load.bind (·.change)).map (·.amend) |>.getD []
  let c := { c with amend := earlier ++ c.amend }
  let s := discardLoad { s with lnk := { s.lnk with change := none } }
  if s.image.isSome ∧ c.digest = s.get LNK_DIGEST.DIGEST then enterEpoch s c
  else match namedImage s c.digest with
    | some (n, b) => s.setCtl { s.ctl with load := some { op := 7, slot := n, bytes := b, change := some c } }
    | none =>
      let s := enterEpoch (notifyRm s 14 0xFF s.lnk.ownId) c
      { s with step := { s.step with next := none } }

/-! The step boundary (R29). -/

/-- Commits held for the boundary are installed, unless an image installation is about to discard them (R195). -/
def installCommits (s : State) : State :=
  if s.ctl.load.isSome ∨ s.commits = [] then s
  else installDescs ({ s with commits := [] }.set SEQ_DESC_RESULT.PENDING 0) s.commits

/-- What waits for a step boundary takes effect. [DEDUCED, log entry 114] -/
def boundary (s : State) : State :=
  let s := match s.lnk.change with
    | some c => applyChange s c
    | none => s
  checkStart (installCommits (applyDisable (applyCacheCtl (applyPanelCtl s))))

/-- A module that runs no step is at a boundary in every cycle (R473), and an installation is part of its boundary (R472). [DEDUCED, log entry 114] -/
def settle (s : State) : State := if s.step.running ∨ s.ctl.installing.isSome then s else boundary s

/-! Checkpoints (R421). -/

/-- A checkpoint of a step takes effect. -/
def takeCheckpoint (s : State) (step : Nat) (snapshot : Bool) : State :=
  let s := ((s.set CAD_CKPT.STEP (step % 2 ^ 32)).set CAD_CKPT.VALID 1).attend 4
  if snapshot then fwAsk s .snapshot else s

/-- The checkpoints that waited for a step; one of an earlier step, which never ran here, takes no effect. -/
def checkpointsOf (s : State) (step : Nat) : State :=
  let now := s.cad.ckpts.filter (fun c => c.1 == step)
  now.foldl (fun s c => takeCheckpoint s c.1 c.2)
    { s with cad := { s.cad with ckpts := s.cad.ckpts.filter (fun c => decide (c.1 > step)) } }

/-! The step. -/

/-- The registers in force become those written; a change of MEM_CFG empties the stream tables (R247). [DEDUCED, log entry 15] -/
def latchRegs (s : State) : State :=
  let t := { s with latched := s.regs }
  if [MEM_CFG.PF_DIS, MEM_CFG.HINT_NORMAL, MEM_CFG.LAST_AS_STREAM].any (fun f => s.held f != s.get f) then emptyStreams t else t

/-- A step scheduled at tick `t` starts (R260, R37, R65, R522). [DEDUCED, log entry 15] -/
def startStep (s : State) (t : Nat) : State :=
  let per := stepPeriod s
  let number := t / per
  let late := s.step.late
  let s := latchRegs (passSamples s)
  let s := { s with
    unwaited := []
    dense := { s.dense with tiedDone := [] }
    step := { s.step with
      running := true, sched := t, number := number, next := some (t + per), late := decide (t + per ≤ s.tick)
      began := some (s.step.began.getD number)
      count := s.step.count + 1, loggedTags := [] } }
  let s := applyAdjs (s.seedAll ((imgField s 1 4 4 + number * 0x6A09E667) % 2 ^ 32)) number
  let s := { s with seqs := s.seqs.map (fun x => { x with startDue := true, issued := 0 }) }
  let s := [(0 : Fin 4), 1, 2, 3].foldl settleSeq s
  if late then
    ((s.count SEQ_OVERRUN_CNT 1).log
      { region := regionSEQ, event := (Config.unlistedEvent 2).toNat, level := 2, action := 5 }).attend 0
  else s

/-- Whether the next step can start now. [DESIGN CHOICE, log entry 149] -/
def canStart (s : State) (t : Nat) : Bool :=
  tickCome s t && !stepBlocked s && s.image.isSome && s.flag CAD_STATUS.SYNCED && s.flag LNK_STATUS.CENSUS_OK
    && !s.flag FLT_STATUS.WITHDRAWN && ownPos s != 0xFFFF

/-- STEP_START. -/
def execStepStart (s : State) : Host.Outcome State Fault Refusal :=
  .next (match s.step.next with
    | none => s
    | some t => if canStart s t then startStep s t else s)

/-- The module withdraws after a yield (R452). -/
def finishYield (s : State) : State :=
  if s.flag FLT_STATUS.YIELD_PENDING then
    notifyRm ((s.set FLT_STATUS.YIELD_PENDING 0).set FLT_STATUS.WITHDRAWN 1) 13 0xFF s.lnk.ownId
  else s

/-- The running step is complete (R34): its number advances, its checkpoints take effect, and the boundary follows. -/
def completeStep (s : State) : State :=
  let n := s.step.number
  let s := { s with step := { s.step with running := false, lastDone := some n } }
  let s := (s.set HST_STATUS.STEP (n % 2 ^ 39)).set HST_STATUS.STEPV 1
  let s := noteStepEnd (checkpointsOf (finishYield s) n)
  boundary (clearCarry s (fun h => h == (n + 1) % 2))

/-- STEP_COMPLETE. [DESIGN CHOICE, log entry 148] -/
def execStepComplete (s : State) : Host.Outcome State Fault Refusal :=
  .next (if s.step.running && s.seqs.toList.all SeqState.halted then completeStep s else s)

/-! Commands whose effect may wait for a boundary. -/

/-- DRAIN. -/
def execDrain (q : Fin 4) (s : State) : Host.Outcome State Fault Refusal := .next (settle (issueDrain q s))

/-- CHECK_TILE_COMPLETE. -/
def execCheckTileComplete (panel : Fin 4) (upsets : List (Nat × Nat × BitVec 48)) (s : State) :
    Host.Outcome State Fault Refusal :=
  let t := settle (checkTileComplete panel upsets s)
  .next { t with dense := { t.dense with retiredNow := 0 } }

/-- PANEL_RETIRE: DNS_PANEL_CTL.RETIRE of one panel is written (R107). -/
def execPanelRetire (panel : Fin 4) (s : State) : Host.Outcome State Fault Refusal :=
  .next (settle (askPanels s (2 ^ panel.val) 0))

/-- PANEL_REVIVE: DNS_PANEL_CTL.REVIVE of one panel is written (R107). -/
def execPanelRevive (panel : Fin 4) (s : State) : Host.Outcome State Fault Refusal :=
  .next (settle (askPanels s 0 (2 ^ panel.val)))

/-- A write of MEM_CACHE_CTL (Table 8.9). -/
def askCache (s : State) (flush unkeep : Bool) : State :=
  { s with memory := { s.memory with
    flushReq := s.memory.flushReq || flush, unkeepReq := s.memory.unkeepReq || unkeep } }

/-- CACHE_FLUSH. -/
def execCacheFlush (s : State) : Host.Outcome State Fault Refusal := .next (settle (askCache s true false))

/-- UNKEEP. -/
def execUnkeep (s : State) : Host.Outcome State Fault Refusal := .next (settle (askCache s false true))

/-- PORT_DISABLE: LNK_PORT_CTL.DISABLE of a port is written (R285). -/
def execPortDisable (n : Fin 16) (s : State) : Host.Outcome State Fault Refusal :=
  .next (settle (s.set LNK_PORT_CTL.DISABLE (s.get LNK_PORT_CTL.DISABLE ||| 2 ^ n.val)))

/-- EPOCH_CHANGE. -/
def execEpochChange (n : Fin 16) (s : State) : Host.Outcome State Fault Refusal := .next (settle (receiveChange s n))

/-- CENSUS_START. [DEDUCED, log entry 86] -/
def execCensusStart (s : State) : Host.Outcome State Fault Refusal := .next (settle (censusStart s))

/-- CENSUS_REQ. -/
def execCensusReq (n : Fin 16) (s : State) : Host.Outcome State Fault Refusal := .next (settle (censusReq n s))

/-- CENSUS_REPLY. -/
def execCensusReply (n : Fin 16) (s : State) : Host.Outcome State Fault Refusal := .next (settle (censusReply n s))

/-- CENSUS_WAIT_EXPIRE. -/
def execCensusWaitExpire (s : State) : Host.Outcome State Fault Refusal := .next (settle (censusWaitExpire s))

/-- VACATE_EPOCH. -/
def execVacateEpoch (s : State) : Host.Outcome State Fault Refusal := .next (settle (vacateEpoch s))

end Sys2Proof.Machine
end

