-- ==== Sys2Proof/Machine/Cadence.lean ====
section
/-!
DEFINITION. Machine/Cadence.lean: the tick count, the timecode, the schedule table, what the governor does with held launches and
the predictors' samples (14 R406 to R429, R557).
-/

namespace Sys2Proof.Machine

open Reg

/-! The tick period (R407). -/

/-- The measured tick period in picoseconds; 1,000,000 while it is not valid. -/
def tickPs (s : State) : Nat := if s.flag CAD_TICK_RATE.VALID then s.get CAD_TICK_RATE.PERIOD_PS else 1000000

/-- A spacing between consecutive accepted edges is measured. -/
def measure (s : State) (gap : Nat) : State :=
  let l := (gap :: s.cad.spacings).take 1024
  let s := { s with cad := { s.cad with spacings := l } }
  (s.set CAD_TICK_RATE.PERIOD_PS (min (2 ^ 32 - 1) (shownQuot (l.sum * 10000) l.length))).setFlag CAD_TICK_RATE.VALID (l.length == 1024)

/-! Schedule entries (R417 to R421). -/

/-- What an entry does in the order of R39 and R418. -/
def DueEntry.rank (d : DueEntry) : Nat := bits d.word 1 2 * 64 + d.entry

/-- Word 1 of an entry. -/
def schedWord (s : State) (n : Nat) : Nat :=
  s.get (CAD_SCHED1.VALID n) + s.get (CAD_SCHED1.KIND n) * 2 + s.get (CAD_SCHED1.BUDGET_W n) * 2 ^ 8
    + s.get (CAD_SCHED1.ACLK n) * 2 ^ 24 + s.get (CAD_SCHED1.SNAPSHOT n) * 2 ^ 26

/-- A firing is counted (R418). -/
def countFiring (s : State) (late : Bool) : State :=
  let s := s.count CAD_SCHED_FIRE_CNT 1
  if late then s.count CAD_SCHED_LATE_CNT 1 else s

/-- Armed entries whose tick has come fire: they leave the table, and act in their order; one of KIND 0 does nothing. [DEDUCED, log entry 81] -/
def markDue (s : State) (catchUp : Bool) : State :=
  let now := (s.cad.armed.filter (fun e => decide (e.2 ≤ s.tick))).map (fun e =>
    ({ entry := e.1, tick := e.2, word := schedWord s e.1, late := catchUp || decide (e.2 < s.tick) } : DueEntry))
  let s := now.foldl (fun s d => s.set (CAD_SCHED1.VALID d.entry) 0)
    { s with cad := { s.cad with armed := s.cad.armed.filter (fun e => decide (e.2 > s.tick)) } }
  let s := (now.filter (fun d => bits d.word 1 2 == 0)).foldl (fun s d => countFiring s d.late) s
  let acts := (now.filter (fun d => bits d.word 1 2 != 0)).mergeSort (fun a b => decide (a.rank ≤ b.rank))
  { s with cad := { s.cad with due := s.cad.due ++ acts } }

/-- A write of word 1 of an entry: ignored for KIND 3, and otherwise the entry is installed with the TICK of its word 0. -/
def writeSched (s : State) (n w : Nat) : State :=
  if bits w 1 2 = 3 then s
  else
    let s := ((((s.set (CAD_SCHED1.VALID n) (bits w 0 1)).set (CAD_SCHED1.KIND n) (bits w 1 2)).set (CAD_SCHED1.BUDGET_W n)
      (bits w 8 16)).set (CAD_SCHED1.ACLK n) (bits w 24 2)).set (CAD_SCHED1.SNAPSHOT n) (bits w 26 1)
    let tick := s.get (CAD_SCHED0.TICK n)
    let armed := if bit w 0 then FMap.put s.cad.armed n tick else FMap.del s.cad.armed n
    markDue { s with cad := { s.cad with armed := armed } } (decide (tick ≤ s.tick))

/-- SCHED_INSTALL. -/
def execSchedInstall (n : Fin 64) (w : BitVec 64) (s : State) : Host.Outcome State Fault Refusal :=
  .next (writeSched s n.val w.toNat)

/-- A sequencer's tick wait that the count has reached, or the start of a step that its start tick allows; the module handles them before what
the schedule has for that tick (R39). [DEDUCED, log entry 10] -/
def tickWaitDue (s : State) : Bool :=
  s.step.next.any (canStart s) || (List.finRange 4).any (fun q =>
    let x := s.seqr q
    x.running && x.stall != .none
      && (match SeqInsn.decode (progWord s q.val x.pc) with
          | .ok (.waitTick base offset) => decide ((if base then s.step.baseTick else s.step.sched) + offset ≤ s.tick)
          | _ => false))

/-- An entry that is due waits for what has arrived, or come due, at its tick and comes before it in the order of R39. [DEDUCED, log entry 10] -/
def DueEntry.waits (s : State) (d : DueEntry) : Bool := !tickCome s d.tick && decide (d.tick ≤ s.tick) || tickWaitDue s

/-- POWER_ENTRY_FIRE: the first entry that is due, when it is a POWER entry (R420). -/
def execPowerEntryFire (s : State) : Host.Outcome State Fault Refusal :=
  .next (match s.cad.due with
    | [] => s
    | d :: rest =>
      if bits d.word 1 2 ≠ 1 ∨ d.waits s then s
      else
        let s := countFiring { s with cad := { s.cad with due := rest } } d.late
        let s := if bits d.word 8 16 = 0 then s else s.set CAD_BUDGET.BUDGET_W (bits d.word 8 16)
        match bits d.word 24 2 with
        | 1 => s.set CAD_STATUS.ACLK_CAP 1
        | 2 => s.set CAD_STATUS.ACLK_CAP 0
        | _ => s)

/-- The last step of the epoch in force whose scheduled start tick is below `t` (R421). -/
def stepBelow (s : State) (t : Nat) : Option Nat :=
  if s.step.based ∧ s.step.baseTick < t then
    let per := stepPeriod s
    some ((s.step.baseTick + (t - s.step.baseTick - 1) / per * per) / per)
  else none

/-- A step of the epoch in force has run here and is complete. -/
def stepDone (s : State) (k : Nat) : Bool := s.step.began.any (fun b => decide (b ≤ k)) && s.step.lastDone.any (fun l => decide (k ≤ l))

/-- CHECKPOINT_ENTRY_FIRE: the first entry that is due, when it is a CHECKPOINT entry. -/
def execCheckpointEntryFire (s : State) : Host.Outcome State Fault Refusal :=
  .next (match s.cad.due with
    | [] => s
    | d :: rest =>
      if bits d.word 1 2 ≠ 2 ∨ d.waits s then s
      else
        let s := countFiring { s with cad := { s.cad with due := rest } } d.late
        match stepBelow s d.tick with
        | none => if bit d.word 26 then fwAsk s .snapshot else s
        | some k =>
          if stepDone s k then takeCheckpoint s k (bit d.word 26)
          else { s with cad := { s.cad with ckpts := s.cad.ckpts ++ [(k, bit d.word 26)] } })

/-! The count (R406 to R409, R416, R557). -/

/-- This position is the bellwether's (R320). -/
def isBellwether (s : State) : Bool := ownPos s != 0xFFFF && s.lnk.topo.any (fun t => t.bellwether == ownPos s)

/-- The bucket takes a tick's share of the budget (R424); the edge takes up CAD_BUDGET as it stands (Table 14.11). -/
def refill (s : State) : State :=
  let s := { s with cad := { s.cad with cap := s.get CAD_BUDGET.CAP_MJ } }
  let w : Int := Int.ofNat (min 1300 (s.get CAD_BUDGET.BUDGET_W)) - Int.ofNat (s.get CAD_PRED.P_IDLE)
  { s with cad := { s.cad with bucket := min (bucketCap s) (s.cad.bucket + w * Int.ofNat (tickPs s) * 1000) } }

/-- Timecodes that an advance of the count makes due on the bellwether (R413). -/
def dueTimecodes (s : State) : State :=
  let per := s.get CAD_CFG.TC_PERIOD
  let n := s.cad.sinceTc + 1
  let periodic := per != 0 && decide (per ≤ n)
  { s with cad := { s.cad with
    sinceTc := if periodic then 0 else n, sendTc := false
    tcDue := if isBellwether s then s.cad.tcDue + b2n periodic + b2n s.cad.sendTc else s.cad.tcDue } }

/-- The count moves to a tick, and what that tick brings happens. [DEDUCED, log entry 81] -/
def moveTick (s : State) (t : Nat) (catchUp : Bool) : State := checkStart (markDue (s.set CAD_TICK.COUNT t) catchUp)

/-- The count advances: to the value set for its next advance, or by one. -/
def advance (catchUp : Bool) (s : State) : State :=
  let t := refill (dueTimecodes s)
  let t := { t with cad := { t.cad with sinceSample := t.cad.sinceSample + 1, tickSet := none } }
  match s.cad.tickSet with
  | some v => moveTick (t.set CAD_STATUS.SYNCED 1) v catchUp
  | none => moveTick t (s.tick + 1) catchUp

/-- A rising edge comes too soon after the last accepted one (R406). -/
def edgeTooSoon (s : State) (gap : Nat) : Bool :=
  if s.flag CAD_TICK_RATE.VALID then decide (2 * gap * s.cad.spacings.length < s.cad.spacings.sum) else decide (gap < 25)

/-- An accepted edge in holdover: it continues or restarts the run that regains TICK, and the 17th of a run ends holdover (R557). -/
def holdoverEdge (s : State) (gap : Nat) : State :=
  let p := tickPs s
  let near := decide (gap * 100000 ≤ 11 * p) && decide (9 * p ≤ gap * 100000)
  let n := if s.cad.regain = 0 ∨ !near then 1 else s.cad.regain + 1
  if n < 17 then { s with cad := { s.cad with regain := n } }
  else
    let s := { s with cad := { s.cad with regain := 0, spacings := [] } }
    advance false (((s.set CAD_STATUS.HOLDOVER 0).set CAD_TICK_RATE.VALID 0).set CAD_TICK_RATE.PERIOD_PS 0)

/-- TICK_EDGE: a rising edge of TICK, `gap` REFCLK cycles after the last accepted one. [DESIGN CHOICE, log entry 79] -/
def execTickEdge (gap : BitVec 32) (s : State) : Host.Outcome State Fault Refusal :=
  .next (if !s.cad.running then s
    else if !s.cad.edge then advance false { s with cad := { s.cad with edge := true } }
    else if edgeTooSoon s gap.toNat then s.count CAD_TICK_GLITCH_CNT 1
    else if s.flag CAD_STATUS.HOLDOVER then holdoverEdge s gap.toNat
    else advance false (measure s gap.toNat))

/-- TICK_LOSS: four tick periods without an accepted edge. [DESIGN CHOICE, log entry 79] -/
def execTickLoss (s : State) : Host.Outcome State Fault Refusal :=
  .next (if !s.cad.running ∨ !s.cad.edge ∨ s.flag CAD_STATUS.HOLDOVER then s
    else
      let s := { s with cad := { s.cad with regain := 0 } }
      let s := ((s.set CAD_STATUS.HOLDOVER 1).count CAD_TICK_LOSS_CNT 1).escalate
        { region := regionCAD, event := 2, level := 2, action := 0 }
      iter (advance true) 4 s)

/-- FREEWHEEL_ADVANCE: a tick period of holdover has passed. [DESIGN CHOICE, log entry 79] -/
def execFreewheelAdvance (s : State) : Host.Outcome State Fault Refusal :=
  .next (if s.cad.running && s.flag CAD_STATUS.HOLDOVER then advance false s else s)

/-- A count is set for the next advance. -/
def askTick (s : State) (v : Nat) : State :=
  { s with cad := { s.cad with tickSet := some v, sendTc := s.cad.sendTc || isBellwether s } }

/-- TICK_SET: CAD_TICK_SET is written. -/
def execTickSet (v : BitVec 64) (s : State) : Host.Outcome State Fault Refusal := .next (askTick s v.toNat)

/-- A write of some bytes of CAD_TICK_SET: the others stay as a write before it left them, zero when none waits (R15). [DEDUCED, log entry 21] -/
def writeTickSet (s : State) (v mask : Nat) : State :=
  askTick s ((s.cad.tickSet.getD 0 &&& ((2 ^ 64 - 1) ^^^ mask)) ||| (v &&& mask))

/-- SEND_TC: CAD_CTL.SEND_TC is written. -/
def execSendTc (s : State) : Host.Outcome State Fault Refusal :=
  .next (if isBellwether s then { s with cad := { s.cad with sendTc := true } } else s)

/-! The timecode (R411 to R415). -/

/-- A timecode (Table 14.2). -/
def timecode (src tseq hops new epoch acc : Nat) : Packet :=
  Packet.make 0xFFFF src 2 false true (tseq % 2 ^ 32 + (hops % 256) * 2 ^ 32)
    (toBytes 8 new ++ toBytes 4 epoch ++ toBytes 4 acc ++ toBytes 16 0)

/-- A packet put on every trained port but one. -/
def flood (s : State) (except : Option Nat) (p : Packet) : State :=
  (List.range 16).foldl (fun s n =>
    if s.get (LNK_P_STATUS.STATE n) = 2 ∧ except ≠ some n then sendOnPort s n 1 p else s) s

/-- TIMECODE_SEND: the bellwether sends a timecode that is due, `delay` nanoseconds after its edge. -/
def execTimecodeSend (delay : BitVec 32) (s : State) : Host.Outcome State Fault Refusal :=
  .next (if s.cad.tcDue = 0 ∨ !isBellwether s then s
    else
      let q := (s.cad.tseq + 1) % 2 ^ 32
      let s := { s with cad := { s.cad with tcDue := s.cad.tcDue - 1, tseq := q } }
      flood s none (timecode s.lnk.ownId q 0 s.tick (s.get LNK_EPOCH.EPOCH) delay.toNat))

/-- The one-way delay measured on a port (R412). -/
def portDelay (s : State) (n : Nat) : Nat := s.get ⟨CAD_PORT_DELAY.DELAY0 (n / 4) |>.off, 16 * (n % 4), 16, 0xFFFF, .ro⟩

/-- The integer nearest to `a / b`, ties away from zero. -/
def nearestAway (a : Int) (b : Nat) : Int :=
  let n := Int.ofNat ((2 * a.natAbs + b) / (2 * b))
  if a < 0 then -n else n

/-- A timecode is applied (R414): `phi` is the time in nanoseconds from the latest accepted edge to its arrival, `edges` the edges
accepted since; one applied in the cycle of an advance that would set the count discards the value to be set (R416). [DEDUCED, log entry 80] -/
def applyTimecode (s : State) (n : Nat) (p : Packet) (phi : Nat) (x : TcEdges) : State :=
  let edges := x.edges.toNat
  let s := if x.same then { s with cad := { s.cad with tickSet := none } } else s
  let ps := tickPs s
  let a : Int := (Int.ofNat (field p 12 4 + portDelay s n) - Int.ofNat phi) * 1000
  let k := nearestAway a ps
  let t := ((Int.ofNat (field p 0 8) + k + Int.ofNat edges) % (2 ^ 64 : Int)).toNat
  let stepped := t != s.tick
  let tseq := bits p.hdr1 0 32
  let s := { s with cad := { s.cad with applied := (tseq :: s.cad.applied).take 16 } }
  let s := if (a - k * Int.ofNat ps).natAbs * 10 > 4 * ps then s.count CAD_TC_MARGIN_CNT 1 else s
  let s := (s.count CAD_TC_CNT 1).set CAD_STATUS.SYNCED 1
  let s := ((((s.set CAD_TC_LAST.TSEQ tseq).set CAD_TC_LAST.SRC p.src).set CAD_TC_LAST.HOPS (bits p.hdr1 32 8)).set
    CAD_TC_LAST.VALID 1).setFlag CAD_TC_LAST.STEPPED stepped
  if stepped then
    moveTick ((s.count CAD_TC_STEP_CNT 1).log
      { region := regionCAD, event := 5, level := 2, action := 5, block := n, modul := p.src, detail := field p 8 4 }) t false
  else checkStart s

/-- TIMECODE: the timecode at the head of a port's VC1 is applied, after it has been forwarded; `residence` is the time in
nanoseconds that it spends in this module. -/
def execTimecode (n : Fin 16) (phi residence : BitVec 32) (edges : TcEdges) (s : State) : Host.Outcome State Fault Refusal :=
  .next (match peekRx s n (isType 2) with
    | none => s
    | some x =>
      let p := x.pkt
      let s := takeRx s n (isType 2)
      if !fromBellwether s p.src then s.count CAD_TC_REJECT_CNT 1
      else if !freshTimecode s p then s
      else
        let s := flood s (some n.val) (timecode p.src (bits p.hdr1 0 32) (bits p.hdr1 32 8 + 1) (field p 0 8) (field p 8 4)
          (field p 12 4 + portDelay s n + residence.toNat))
        applyTimecode s n p phi.toNat edges)

/-! The governor (R425). -/

/-- A held launch is let go, and charged. [DEDUCED, log entry 84] -/
def letGo (s : State) (l : HeldLaunch) : State :=
  charge { s with cad := { s.cad with
    held := s.cad.held.filter (fun x => x.seqr != l.seqr), admitted := s.cad.admitted ++ [l] } } l.energy

/-- CCLK cycles pass for the held launches. -/
def age (s : State) (cycles : Nat) : State :=
  { s with cad := { s.cad with held := s.cad.held.map (fun l => { l with cycles := l.cycles + cycles }) } }

/-- Of two launches the one with the smaller energy, the lower sequencer on a tie; and with the larger. -/
def smaller (a b : HeldLaunch) : HeldLaunch :=
  if a.energy < b.energy ∨ (a.energy = b.energy ∧ a.seqr ≤ b.seqr) then a else b
def larger (a b : HeldLaunch) : HeldLaunch :=
  if b.energy < a.energy ∨ (a.energy = b.energy ∧ a.seqr ≤ b.seqr) then a else b
def lowestSeqr (a b : HeldLaunch) : HeldLaunch := if a.seqr ≤ b.seqr then a else b

/-- The best of a list. -/
def pick (better : HeldLaunch → HeldLaunch → HeldLaunch) : List HeldLaunch → Option HeldLaunch
  | [] => none
  | l :: ls => some (ls.foldl better l)

/-- The launch that the governor admits next in budget-led mode. [DEDUCED, log entry 84] -/
def choice (s : State) : Option HeldLaunch :=
  let old := s.cad.held.filter (fun l => decide (vetoMax s < l.cycles) && payable s l.energy)
  let h := headroom s
  match pick lowestSeqr old with
  | some l => some l
  | none =>
    if h ≤ Int.ofNat (s.get CAD_THERM_CFG.HR_LOW) then
      if governedRunning s then none else pick smaller s.cad.held
    else
      pick (if Int.ofNat (s.get CAD_THERM_CFG.HR_HIGH) ≤ h then larger else smaller)
        (s.cad.held.filter (fun l => payable s l.energy))

/-- GOVERNOR_ADMIT: after `cycles` CCLK cycles, the governor of budget-led mode admits at most one held launch, none while the supply or the die holds
them all. -/
def execGovernorAdmit (cycles : BitVec 32) (s : State) : Host.Outcome State Fault Refusal :=
  .next (if timingMode s ≠ 1 ∨ s.cad.held = [] then s
    else
      let s := (age s cycles.toNat).count CAD_GOV_WAIT_CNT cycles.toNat
      if supplyHolds s then s
      else match choice s with
        | none => s
        | some l => letGo s l)

/-- Held launches that may go do so, in the order in which they were first held. -/
def releaseHeld (s : State) : State :=
  s.cad.held.foldl (fun s l =>
    if timingMode s ≠ 2 ∨ (payable s l.energy ∧ !headroomHolds s) then letGo s l else s) s

/-- VETO_RELEASE: after `cycles` CCLK cycles, the launches that can be paid, and that the headroom allows, are released. -/
def execVetoRelease (cycles : BitVec 32) (s : State) : Host.Outcome State Fault Refusal :=
  .next (if timingMode s = 1 ∨ s.cad.held = [] then s
    else
      let s := age s cycles.toNat
      let s := if timingMode s = 2 then s.count CAD_VETO_CYC_CNT cycles.toNat else s
      if supplyHolds s then s else releaseHeld s)

/-- VETO_EXPIRE: after `cycles` CCLK cycles, the launch of a sequencer has been held for VETO_MAX. -/
def execVetoExpire (q : Fin 4) (cycles : BitVec 32) (s : State) : Host.Outcome State Fault Refusal :=
  .next (if timingMode s ≠ 2 ∨ s.cad.held = [] then s
    else
      let s := (age s cycles.toNat).count CAD_VETO_CYC_CNT cycles.toNat
      match s.cad.held.find? (fun l => l.seqr == q.val) with
      | none => s
      | some l => if vetoMax s ≤ l.cycles ∧ !supplyHolds s then letGo (s.count CAD_VETO_EXPIRE_CNT 1) l else s)

/-- The supply or the die no longer holds launches back: those held go by the veto rule (R493, R504). -/
def endHold (s : State) : State := if timingMode s = 1 then s else releaseHeld s

/-! The predictors (R427 to R429). -/

/-- The factor over 64 samples, × 4,096. [DESIGN CHOICE, log entry 82] -/
def factor (l : List (Int × Nat)) : Nat :=
  let m := (l.map (·.1)).foldl (· + ·) 0
  let p := (l.map (·.2)).sum
  if p = 0 then max 2048 (min 8192 (Config.openFactor m.natAbs))
  else max 2048 (min 8192 (if m ≤ 0 then 0 else shownQuot (m.natAbs * 4096) p))

/-- Four samples' rise along the least-squares slope of samples, newest first: its numerator and denominator. -/
def slope4 (l : List Nat) : Int × Nat :=
  let n : Int := Int.ofNat l.length
  let pts := l.reverse.zipIdx
  let sx : Int := pts.foldl (fun a p => a + Int.ofNat p.2) 0
  let sy : Int := pts.foldl (fun a p => a + Int.ofNat p.1) 0
  let sxy : Int := pts.foldl (fun a p => a + Int.ofNat p.1 * Int.ofNat p.2) 0
  let sxx : Int := pts.foldl (fun a p => a + Int.ofNat p.2 * Int.ofNat p.2) 0
  (4 * (n * sxy - sx * sy), (n * sxx - sx * sx).natAbs)

/-- The estimate of the die temperature: the reading, or the reading extrapolated, whichever is higher. -/
def estimate (s : State) (l : List Nat) (die : Nat) : Nat :=
  if l.length < 64 then s.get CAD_THERM_CFG.T_LIMIT
  else
    let (a, b) := slope4 l
    if a ≤ 0 ∨ b = 0 then die else min 255 (die + shownQuot a.natAbs b)

/-- PREDICTOR_SAMPLE: 1,024 ticks have passed since the last. -/
def execPredictorSample (s : State) : Host.Outcome State Fault Refusal :=
  .next (if s.cad.sinceSample < 1024 then s
    else
      let mj := s.get PWR_ENERGY.MJ
      let die := s.get PWR_TEMP.DIE
      let net : Int := (Int.ofNat mj - Int.ofNat s.cad.lastMj) * 10 ^ 12
        - Int.ofNat (s.get CAD_PRED.P_IDLE * 1024 * tickPs s * 1000)
      let e := ((net, s.cad.done) :: s.cad.eSamples).take 64
      let t := (die :: s.cad.tSamples).take 64
      let s := { s with cad := { s.cad with eSamples := e, tSamples := t, sinceSample := 0, done := 0, lastMj := mj } }
      let s := if e.length < 64 then s else s.set CAD_PRED.K (factor e)
      (((s.set CAD_PRED.E_SAMPLES e.length).set CAD_PRED.T_SAMPLES t.length).set CAD_PRED.T_DIE die).set CAD_PRED.T_EST
        (estimate s t die))

/-- Both predictors hold no sample. -/
def predReset (s : State) : State :=
  let s := { s with cad := { s.cad with eSamples := [], tSamples := [] } }
  (((s.set CAD_PRED.E_SAMPLES 0).set CAD_PRED.T_SAMPLES 0).set CAD_PRED.K 0x1000).set CAD_PRED.T_EST (s.get CAD_THERM_CFG.T_LIMIT)

/-- A cold thermal predictor estimates T_LIMIT as CAD_THERM_CFG now has it (R428). -/
def coldEstimate (s : State) : State :=
  if s.get CAD_PRED.T_SAMPLES < 64 then s.set CAD_PRED.T_EST (s.get CAD_THERM_CFG.T_LIMIT) else s

/-- PRED_RESET: CAD_CTL.PRED_RESET is written. -/
def execPredReset (s : State) : Host.Outcome State Fault Refusal := .next (predReset s)

end Sys2Proof.Machine
end

