-- ==== Sys2Proof/Machine/Observe.lean ====
section
/-!
DEFINITION. Machine/Observe.lean: the sampler and its trace ring (19 R535 to R545).
-/

namespace Sys2Proof.Machine

open Reg

/-! What a sample shows of a sequencer (R537; SEQ_STATE, Table 9.14). -/

/-- STATE: halted, issuing, stalled, or in a hook. -/
def SeqState.code (x : SeqState) : Nat :=
  if !x.frames.isEmpty then 3 else if !x.running then 0 else if x.stall = .none then 1 else 2

/-- STALL (Table 19.2), from the instruction at PC. -/
def stallCode (s : State) (q : Fin 4) : Nat :=
  let x := s.seqs.get q
  if x.stall = .none then 0
  else match SeqInsn.decode (progWord s q.val x.pc) with
    | .ok (.waitTick ..) => 1
    | .ok (.waitSlot ..) => 2
    | .ok .waitDone => 3
    | .ok (.signal ..) => 4
    | .ok .halt => 5
    | .ok i =>
      let held := s.cad.held.any (fun l => l.seqr == q.val)
      (match i with
       | .drain .. => if held then 10 else 6
       | .gsm _ | .vec _ | .route _ => if held then 10 else 7
       | .xferLocal _ | .xferWindow .. | .xferNeighbour .. => if held then 10 else 8
       | .reduce .. => if held then 10 else 9
       | _ => 11)
    | .error _ => 0

/-- A sequencer word (Table 19.2). -/
def seqWord (s : State) (q : Fin 4) : Nat :=
  let x := s.seqs.get q
  x.pc + x.code * 2 ^ 12 + b2n x.f * 2 ^ 14 + stallCode s q * 2 ^ 15 + SeqInsn.opcode (progWord s q.val x.pc) * 2 ^ 19
    + (x.issued % 2 ^ 32) * 2 ^ 32

/-- Decode pipes that hold a sample. -/
def pipesBusy (s : State) : Nat := (s.ing.samples.filter (fun x => x.pipe.isSome)).length

/-- The engine word (Table 19.3). -/
def engineWord (s : State) (p : Probe) : Nat :=
  b2n s.dense.op.isSome + b2n p.frozen * 2 + b2n p.feedDry * 4 + b2n p.drainFull * 8 + (inService s).length * 2 ^ 4
    + b2n s.drv.run.isSome * 2 ^ 7 + s.get DRV_STATUS.FUNC * 2 ^ 8 + pipesBusy s * 2 ^ 16 + (s.reduces.length % 128) * 2 ^ 22
    + s.get PWR_STATUS.STAGE * 2 ^ 29 + b2n (!s.cad.held.isEmpty) * 2 ^ 32 + s.get CAD_STATUS.HOLDOVER * 2 ^ 33
    + b2n s.lnk.standing * 2 ^ 34

/-- ACLK runs at 1.05 GHz (R420, R490, R504). -/
def aclkCapped (s : State) : Bool := s.flag CAD_STATUS.ACLK_CAP || decide (s.get PWR_STATUS.STAGE ≥ 3) || s.flag PWR_STATUS.THERM

/-- A record (R536, R538). [DESIGN CHOICE, log entry 132] -/
def record (s : State) (p : Probe) : List Byte :=
  let brief := toBytes 8 s.tick
    ++ toBytes 4 s.obs.seqnum ++ toBytes 2 (Config.logCycle s.free).toNat ++ toBytes 2 (b2n s.obs.full + b2n (aclkCapped s) * 2)
    ++ [(0 : Fin 4), 1, 2, 3].flatMap (fun q => toBytes 8 (seqWord s q)) ++ toBytes 8 (engineWord s p) ++ toBytes 8 0
  if !s.obs.full then brief
  else
    brief ++ (List.range 12).map (fun i => p.queued.getD i 0) ++ toBytes 4 0
      ++ (List.range 16).flatMap (fun n => toBytes 1 (min 255 ((s.port (portNo n)).replay.length / 4)))
      ++ (List.range 4).flatMap (fun q => toBytes 4 (counter s q 0) ++ toBytes 4 (counter s q 1))
      ++ (List.range 48).flatMap (fun n => toBytes 8 (s.get (OBS_AON.COUNT n)))

/-! The ring (R539 to R545). -/

/-- Records written to the ring as one burst from its next place on; at the ring's end writing goes on from its start or stops. A
burst that fails its check is discarded, and its place is the next one's. -/
def writeTrace (s : State) (rs : List (List Byte)) : State :=
  let o := s.obs
  let bs := rs.flatten
  let off := Int.ofNat (o.base * 4096 + o.next * 64)
  let ok := (tagEntry s o.tag).allows true off bs.length
  let s := tagWrite (s.inOp 6) (streamChan (s.inOp 6) o.tag) off bs
  let next := o.next + bs.length / 64
  let atEnd := decide (o.size * 64 ≤ next)
  let place := if atEnd && o.wrap then 0 else next
  if ok then { s with obs := { s.obs with next := place, bursts := s.obs.bursts ++ [(rs.length, place, atEnd && o.wrap)] } } else s

/-- The records of the first 2 KiB in the staging buffer, and the rest. -/
def stagedBurst (s : State) : List (List Byte) × List (List Byte) :=
  let n := if s.obs.full then 4 else 32
  (s.obs.staging.take n, s.obs.staging.drop n)

/-- The ring has no room left. -/
def ringFull (s : State) : Bool := !s.obs.wrap && decide (s.obs.size * 64 ≤ s.obs.next)

/-- The oldest burst is accepted at its memory (R545). -/
def acceptBurst (s : State) : State :=
  match s.obs.bursts with
  | [] => s
  | (n, place, wrapped) :: rest =>
    let s := (({ s with obs := { s.obs with bursts := rest } }).count OBS_SAMPLE_CNT n).set OBS_RING_HEAD.NEXT place
    if wrapped then s.set OBS_RING_HEAD.WRAPPED 1 else s

/-- What the staging buffer holds is written, as far as the ring has room. -/
def flushStaging : Nat → State → State
  | 0, s => s
  | fuel + 1, s =>
    if s.obs.staging = [] then s
    else
      let b := stagedBurst s
      let t := { s with obs := { s.obs with staging := b.2 } }
      flushStaging fuel (if ringFull s then t else writeTrace t b.1)

/-- The sampler stops (R543). -/
def stopSampler (s : State) : State :=
  if s.get OBS_CTL.RUN = 0 then s
  else
    let s := flushStaging 2 s
    let s := iter acceptBurst s.obs.bursts.length s
    ((s.set OBS_CTL.RUN 0).set OBS_STATUS.ARMED 0).set OBS_STATUS.SAMPLING 0

/-- The code with which a start is refused (R539). -/
def runCode (s : State) : Nat :=
  let e := tagEntry s (s.get OBS_RING.TAG)
  if s.image.isNone ∨ s.get OBS_RING.SIZE = 0 then 1
  else if !e.valid ∨ e.place = 2 ∨ !e.wr then 2
  else if s.get OBS_RING.BASE + s.get OBS_RING.SIZE > e.size then 3
  else 0

/-- RUN_ARM: OBS_CTL.RUN is written 1. [DEDUCED, log entry 133] -/
def execRunArm (s : State) : Host.Outcome State Fault Refusal :=
  .next (
    let code := runCode s
    let s := s.set OBS_STATUS.CODE code
    if code ≠ 0 then
      ((stopSampler s).count OBS_REFUSED_CNT 1).log { region := regionOBS, event := 1, level := 2, action := 2 }
    else
      let s := stopSampler s
      let s := { s.newOp 6 with obs := {
        period := max 1 (s.get OBS_CFG.PERIOD), full := s.flag OBS_CFG.KIND, align := s.flag OBS_CFG.ALIGN, wrap := s.flag OBS_CFG.WRAP
        tag := s.get OBS_RING.TAG, base := s.get OBS_RING.BASE, size := s.get OBS_RING.SIZE, seqnum := 0, staging := [], bursts := []
        next := 0, armTick := s.tick, phase := 0 } }
      ((((s.set OBS_CTL.RUN 1).set OBS_STATUS.ARMED 1).set OBS_STATUS.FULL 0).set OBS_RING_HEAD.NEXT 0).set OBS_RING_HEAD.WRAPPED 0)

/-- RUN_STOP: OBS_CTL.RUN is written 0. -/
def execRunStop (s : State) : Host.Outcome State Fault Refusal := .next (stopSampler s)

/-- An armed sampler may take its first sample (R540). -/
def mayBegin (s : State) : Bool :=
  if s.obs.align then decide (s.step.count > 0 ∧ s.step.sched > s.obs.armTick) || s.step.next.any (fun t => decide (s.obs.armTick < t ∧ t ≤ s.tick))
  else s.tick != s.obs.armTick

/-- A sample is due: the first once the sampler may begin, each later one OBS_CFG.PERIOD cycles after the one before (R535, R540). -/
def sampleDue (s : State) (cycles : Nat) : Bool :=
  if s.flag OBS_STATUS.ARMED then mayBegin s else decide (s.obs.period ≤ s.obs.phase + cycles)

/-- The cycles since the last sample that was due, `cycles` later. -/
def nextPhase (s : State) (cycles : Nat) : Nat := if s.flag OBS_STATUS.ARMED then 0 else (s.obs.phase + cycles) % s.obs.period

/-- SAMPLE_TAKE: `cycles` ACLK cycles after the last such command the sampler takes a sample, when one is due. -/
def execSampleTake (cycles : BitVec 32) (p : Probe) (s : State) : Host.Outcome State Fault Refusal :=
  .next (
    let due := sampleDue s cycles.toNat
    let s := { s with obs := { s.obs with phase := nextPhase s cycles.toNat } }.bump (OBS_AON.COUNT 0) cycles.toNat
    if s.get OBS_CTL.RUN = 0 ∨ s.get PWR_STATUS.STAGE ≥ 1 ∨ !due then s
    else
      let r := record s p
      let s := (((s.set OBS_STATUS.ARMED 0).set OBS_STATUS.SAMPLING 1).bump (OBS_AON.COUNT 47) 1)
      let s := { s with free := s.free + 1, obs := { s.obs with seqnum := s.obs.seqnum + 1 } }
      let size := if s.obs.full then 512 else 64
      if (s.obs.staging.length + 1) * size > 4096 then s.count OBS_DROP_CNT 1
      else { s with obs := { s.obs with staging := s.obs.staging ++ [r] } })

/-- RING_BURST_WRITE: a completed 2 KiB of records is written to the ring. -/
def execRingBurstWrite (s : State) : Host.Outcome State Fault Refusal :=
  .next (
    let b := stagedBurst s
    if s.get OBS_CTL.RUN = 0 ∨ b.1.flatten.length < 2048 then s
    else
      let s := writeTrace { s with obs := { s.obs with staging := b.2 } } b.1
      if ringFull s then (stopSampler s).set OBS_STATUS.FULL 1 else s)

/-- RING_BURST_ACCEPT: the oldest burst is accepted at its memory. -/
def execRingBurstAccept (s : State) : Host.Outcome State Fault Refusal := .next (acceptBurst s)

end Sys2Proof.Machine
end

