-- ==== Sys2Proof/Machine/Install.lean ====
section
/-!
DEFINITION. Machine/Install.lean: an image installed at a step boundary, with its scrub and its zero fills (16 R472, R473; 07 R220 to
R223), and the adoption of a position by a standby (15 R447 to R451).
-/

namespace Sys2Proof.Machine

open Reg

/-! Registers written whole. -/

/-- Every field of the register at a control-space offset takes its bits of `v`. -/
def setReg (s : State) (off v : Nat) : State :=
  (regFields groups off).foldl (fun s f => s.set f (bits v f.lsb f.width)) s

/-- The registers at offsets from `lo` up to `hi` at their reset values. -/
def clearRegs (s : State) (lo hi : Nat) : State :=
  { s with regs := s.regs.filter (fun e => !(decide (lo * 64 ≤ e.1) && decide (e.1 < hi * 64))) }

/-- 64-bit words of a table from an offset on. -/
def setWords (s : State) (off : Nat) (ws : List Nat) : State :=
  ws.zipIdx.foldl (fun s w => s.set ⟨off + 8 * w.2, 0, 64, 0, .ro⟩ w.1) s

/-- The little-endian words of a byte string. -/
def wordsOf (n : Nat) (bs : List Byte) : List Nat := (List.range (bs.length / n)).map (fun i => ofBytes ((bs.drop (n * i)).take n))

/-! Scrub and fills (R220 to R223). -/

/-- The stores of Table 7.5 scrubbed, and the tenant recorded: no word of them holds an error any more. [DEDUCED, log entry 116] -/
def scrub (s : State) (tenant : Nat) : State :=
  let m := zeroCells (zeroCells (zeroCells s.mem scratchBase scratchBytes) accBase accBytes) mergeBase mergeBytes
  let s := { s with
    mem := m, memory := { s.memory with cache := [] }, drv := { s.drv with gcache := [] }
    upsets := s.upsets.filter (fun | .word .. => false | .line .. => false | _ => true) }
  ((s.setCtl { s.ctl with unscrubbed := false }).set PWR_LAST_TENANT.TENANT tenant).count TAG_SCRUB_CNT 1

/-- Bytes of stack memory written zero through a channel, a line at a time. -/
def zeroStack (s : State) (ch a n : Nat) : State :=
  (List.range (ceilDiv n 2048)).foldl (fun s i =>
    stackWrite s ch .stream (a + 2048 * i) (List.replicate (min 2048 (n - 2048 * i)) 0)) s

/-- A tag with ZERO set is filled. -/
def zeroTag (s : State) (t : Nat) : State :=
  let e := tagEntry s t
  if !e.valid || !e.zero then s
  else if e.place = 1 then zeroStack s (s.chanNo t) (e.base * 4096) e.bytes
  else freshWords { s with mem := s.mem.filter (fun c => !tagHolds e c.1) } (tagHolds e)

/-! Tables (R472). -/

def topologyOf (t r : List Byte) : Topology :=
  { mode := fieldAt t 0 1, sizes := ImageFile.axisSizes t, kinds := fieldAt t 6 2, groups := fieldAt r 0 2
    bellwether := fieldAt t 8 2, ids := ImageFile.places t }

/-- The hooks of a PROGRAMS section (R467). -/
def hooksOf (p : List Byte) : FMap (Nat × Nat) :=
  (List.range (ImageFile.progHooks p)).foldl (fun m n =>
    let h := ImageFile.hook p n
    FMap.put m (bits h 0 12) (bits h 12 2, bits h 16 12)) []

/-- The four program stores and the scalar registers. -/
def loadPrograms (s : State) (p : List Byte) : State :=
  let s := clearRegs s 0x910000 0x950000
  let r := (ImageFile.progLens p).foldl (fun (r : Nat × Nat × State) n =>
    (r.1 + 1, r.2.1 + 16 * n, setWords r.2.2 (0x910000 + r.1 * 0x10000) (wordsOf 8 ((p.drop r.2.1).take (16 * n))))) (0, 64, s)
  let s := (wordsOf 4 ((p.drop (64 + 16 * ImageFile.progInsns p + 8 * ImageFile.progHooks p)).take 256)).zipIdx.foldl
    (fun s w => s.set (SEQ_SCALAR.S w.2) w.1) r.2.2
  { s with hookTable := hooksOf p }

/-- The descriptors of a DESCRIPTORS section. -/
def descsOf (d : List Byte) : FMap (List Nat) :=
  (List.range (d.length / 64)).foldl (fun m i =>
    let ws := ImageFile.descWordsAt d i
    if ws.all (· == 0) then m else FMap.put m i ws) []

/-- The schedule table: every entry installed, and those whose tick has passed due at once (R417, R418). -/
def loadSchedule (s : State) (c : List Byte) : State :=
  let s := clearRegs s 0x801000 0x801400
  let s := { s with cad := { s.cad with armed := [], due := [] } }
  let s := (List.range (c.length / 16)).foldl (fun (s : State) n =>
    let w0 := fieldAt c (16 * n) 8
    let w1 := fieldAt c (16 * n + 8) 8
    let s := setReg (s.set (CAD_SCHED0.TICK n) w0) (0x801008 + 16 * n) w1
    if bit w1 0 then { s with cad := { s.cad with armed := FMap.put s.cad.armed n w0 } } else s) s
  markDue s true

/-- The registers that RUN gives (Table 16.3). -/
def loadRun (s : State) (r : List Byte) : State :=
  ImageFile.runRegs.zipIdx.foldl (fun s p => setReg s p.1 (fieldAt r (0x20 + 8 * p.2) 8)) s

/-- Every slot of the first `n` tags in its INIT state (R205). -/
def initSlots (s : State) (n : Nat) : State :=
  (List.range n).foldl (fun s t =>
    let e := tagEntry s t
    if e.valid && e.init != 0 then (List.range e.slots).foldl (fun s n => setSlot s t n (SlotSt.ofCode e.init)) s else s)
    { s with slots := [] }

/-- A module at epoch 0 with no base (R473); a change that came during the installation waits for the boundary that follows it. -/
def resetEpoch (s : State) : State :=
  let s := noChange ((s.set LNK_EPOCH.EPOCH 0).set LNK_STATUS.CENSUS_OK 0) 0
  let s := dropCensus s
  { s with
    lnk := { s.lnk with lost := [], lostPos := [], applied := none, adoptEpoch := none }
    step := .reset }

/-- What an image in force shows of itself. -/
def showImage (s : State) (slot : Nat) (digest : List Byte) (tenant : Nat) : State :=
  let s := ((s.set CTL_STATUS.IMAGE 1).set CTL_STATUS.SLOT slot).set CTL_TENANT.TENANT tenant
  let s := setWords s 0x58 (wordsOf 8 digest)
  s.set LNK_DIGEST.DIGEST (ofBytes (digest.take 8))

/-- How many tags an image has. -/
def tagCount (s : State) : Nat := match s.image with
  | some i => ((FMap.find i.sections 2).getD []).length / 32
  | none => 0

/-- Steps 3 and 4 of R472: the tables, settings and registers of an image take the place of those in force. The RUN registers are in force at once;
every other register waits for a step start. [DEDUCED, log entries 15, 116] -/
def installTables (s : State) (i : Image) : State :=
  let sec := fun t => (FMap.find i.sections t).getD []
  let s := { s with
    seqs := Vector.replicate 4 .reset
    ing := { IngState.reset with
      tx := [], notified := s.ing.notified
      qps := (s.ing.qps.filter (fun e : Nat × QpState => !e.2.reads.isEmpty)).map (fun e : Nat × QpState => (e.1, { e.2.orphaned with resetDue := true })) }
    red := { s.red with history := [], carry := [], partials := [], margins := [], review := [], calm := [] }
    image := some i, descs := descsOf (sec 3), commits := []
    lnk := { s.lnk with topo := some (topologyOf (sec 6) (sec 7)), ownId := s.get LNK_ID.ID, after := [] } }
  let s := (s.set SEQ_DESC_RESULT.PENDING 0).set TAG_STATUS.LOADED 1
  let s := setWords (clearRegs s 0x310000 0x330000) 0x310000 (wordsOf 8 (sec 2))
  let s := loadPrograms s (sec 5)
  let s := setWords (clearRegs s 0x502000 0x503000) 0x502000 (wordsOf 8 (sec 8))
  let s := idleAxes (takePosition (s.set LNK_VC_CFG.WEIGHT (fieldAt (sec 6) 0x0C 3)))
  let s := loadSchedule (loadRun { s with latched := (loadRun { s with regs := s.latched } (sec 1)).regs } (sec 1)) (sec 11)
  let s := emptyStreams (unkeepAll (initSlots s (tagCount s)))
  clearRegs (clearRegs s 0xD01008 0xD01200) 0x701000 0x701200

/-- Step 5: every ZERO tag filled, in ascending tag number. -/
def zeroTags (s : State) : State := emptyStreams ((List.range (tagCount s)).foldl zeroTag (s.newOp 7))

/-- The module's release is complete (R501). -/
def endRelease (s : State) : State := { s.set PWR_STATUS.RELEASE 0 with pwr := { s.pwr with sources := [] } }

/-- Step 6, and what an installation ends with: the image is in force, under an epoch change when one names it, and otherwise at epoch 0 with no base.
Release step 7 ends with it. [DEDUCED, log entry 116] -/
def finishInstall (s : State) (x : Installation) (i : Image) : State :=
  let s := resetEpoch (showImage (s.setCtl { s.ctl with installing := none }) x.load.slot i.digest i.tenant)
  let s := predReset ((s.set HST_STATUS.STEPV 0).set FLT_STATUS.WITHDRAWN 0)
  let s := noteFall { s with once := [], cad := { s.cad with ckpts := [] } }
  let s := settleStanding (s.seedAll (imgField s 1 4 4 % 2 ^ 32))
  let s := if isBellwether s then { s with cad := { s.cad with tcDue := s.cad.tcDue + 1 } } else s
  let s := if s.get PWR_STATUS.RELEASE = 7 then (endRelease s).set CTL_STATUS.DEF_FAILED 0 else s
  match x.load.change with
  | none => s
  | some c =>
    let s := enterEpoch s c
    { s with lnk := { s.lnk with applied := some (c.epoch, x.old) } }.attend 7

/-- The image in force has ZERO tags to fill. -/
def zeroDue (s : State) : Bool := (List.range (tagCount s)).any (fun t => (tagEntry s t).valid && (tagEntry s t).zero)

/-- The tables written; with ZERO tags to fill the installation goes on, and without any it ends. -/
def writeTables (s : State) (x : Installation) : State :=
  let i := parseImage x.load.bytes
  let s := installTables s i
  if zeroDue s then
    (s.setCtl { s.ctl with installing := some { x with filling := true } }).set TAG_STATUS.ZEROING 1
  else finishInstall s x i

/-- R220 calls for a scrub before a load of a tenant. -/
def scrubDue (s : State) (tenant : Nat) : Bool := s.ctl.unscrubbed || s.get PWR_LAST_TENANT.TENANT != tenant

/-- A load leaves its wait: what ran stops. [DEDUCED, log entry 116] -/
def takeLoad (s : State) : State :=
  let s := stopSampler (abandonOps (clearCarry s (fun _ => true)))
  { s.set CTL_IMG_STATUS.PENDING 0 with step := .reset, ctl := { s.ctl with load := none } }

/-- An installation begins (R472), with the scrub where one is due. [DEDUCED, log entry 116] -/
def beginInstall (s : State) (l : PendingLoad) : State :=
  let t := takeLoad s
  let x : Installation :=
    { load := l, old := s.get LNK_DIGEST.DIGEST, scrubs := scrubDue t (parseImage l.bytes).tenant, filling := false }
  if x.scrubs then
    (t.setCtl { t.ctl with installing := some x }).set TAG_STATUS.SCRUBBING 1
  else writeTables t x

/-- An installation goes on: the scrub that runs ends, or the fills do. [DEDUCED, log entry 116; DESIGN CHOICE, log entry 5] -/
def goOnInstall (s : State) (x : Installation) : State :=
  let i := parseImage x.load.bytes
  if x.filling then finishInstall ((zeroTags s).set TAG_STATUS.ZEROING 0) x i
  else writeTables ((scrub s i.tenant).set TAG_STATUS.SCRUBBING 0) x

/-- The image that awaits its boundary is too new for the firmware that runs: rejected, and an epoch that names it is taken without it. -/
def refuseLoad (s : State) (l : PendingLoad) : State :=
  let s := (s.setCtl { s.ctl with load := none }).set CTL_IMG_STATUS.PENDING 0
  match l.change with
  | none => reportImage s l.op l.slot 5 0
  | some c =>
    let s := enterEpoch (notifyRm s 14 0xFF s.lnk.ownId) c
    { s with step := { s.step with next := none } }

/-- IMAGE_INSTALL: the load that awaits its boundary begins to be installed, or the installation under way goes on. -/
def execImageInstall (s : State) : Host.Outcome State Fault Refusal :=
  .next (if s.step.running ∨ !fwRuns s then s
    else match s.ctl.installing, s.ctl.load with
      | some x, _ => settle (goOnInstall s x)
      | none, none => s
      | none, some l =>
        if s.flag CTL_FW_STATUS.SWITCH_PENDING then s
        else if (parseImage l.bytes).minFw > fwVersion s then settle (refuseLoad s l)
        else settle (beginInstall s l))

/-! Adoption (R448 to R451). -/

/-- A standby takes an ADOPT that names it. -/
def takeAdopt (s : State) (n : Nat) (p : Packet) : State :=
  let change : EpochChange :=
    { epoch := field p 0 4, base := field p 8 8, digest := field p 16 8, amend := [(field p 4 2, field p 6 2)] }
  if ownPos s ≠ 0xFFFF then s
  else match namedImage s change.digest with
    | none =>
      let m := s.lnk.mseq
      sendOnPort { s with lnk := { s.lnk with mseq := (m + 1) % 2 ^ 16 } } n 0
        (Packet.make p.src s.lnk.ownId 0 false true (5 + m * 2 ^ 8) (notifyData s 14 0xFF s.lnk.ownId))
    | some (slot, b) =>
      let s := discardLoad s
      let s := s.setCtl { s.ctl with load := some { op := 7, slot := slot, bytes := b, change := some change } }
      { s.set FLT_STATUS.ADOPTING 1 with lnk := { s.lnk with adopting := some (field p 25 1 % 8, change.base), adoptTry := 0, unfetched := 0 } }

/-- ADOPT: the message at a port is relayed to the standby, or taken by it. [DEDUCED, log entry 69] -/
def execAdopt (n : Fin 16) (s : State) : Host.Outcome State Fault Refusal :=
  .next (withControl s n 7 (fun p s =>
    if field p 6 2 = s.lnk.ownId then (if fwRuns s then takeAdopt s n.val p else fwAsk s (.adopt n.val p))
    else relayAdopt s (field p 24 1 % 8) (field p 6 2) p.src p.hdr1 p.data))

/-- ADOPT_FETCH: every tag of the adoption list is asked for, once no port is held. -/
def execAdoptFetch (s : State) : Host.Outcome State Fault Refusal :=
  .next (match s.lnk.adopting, s.lnk.topo with
    | some (dir, _), some t =>
      if s.get FLT_STATUS.ADOPTING = 0 ∨ !fwRuns s ∨ s.ctl.load.isSome ∨ s.ctl.installing.isSome ∨ ownPos s = 0xFFFF ∨ s.lnk.adoptTry ≠ 0
          ∨ (List.range 16).any (fun n => s.get (LNK_P_STATUS.HELD n) == 1) then s
      else
        let id := t.idAt (t.neighbour (ownPos s) dir)
        (wordsOf 4 (imgSection s 12)).foldl (fun s e => beginFetch s (bits e 0 12) (bits e 12 8) id 0)
          { s with lnk := { s.lnk with adoptTry := 1 } }
    | _, _ => s)

/-- ADOPT_COMPLETE: every fetch has ended, none of them failed. -/
def execAdoptComplete (s : State) : Host.Outcome State Fault Refusal :=
  .next (if s.get FLT_STATUS.ADOPTING = 0 ∨ s.lnk.adoptTry ≠ 1 ∨ s.xfers.any (fun x => x.seqr == 4) then s
    else noteAdopted { s.set FLT_STATUS.ADOPTING 0 with lnk := { s.lnk with adopting := none, adoptTry := 0 } })

end Sys2Proof.Machine
end

