-- ==== Sys2Proof/Machine/ImageOps.lean ====
section
/-!
DEFINITION. Machine/ImageOps.lean: image operations, owner requests, the image window, firmware operations, the journal's upkeep and
attestation (16 R470, R471, R475 to R483; 18 R517).
-/

namespace Sys2Proof.Machine

open Reg

/-! Firmware (R476 to R478). -/

/-- The bytes that a firmware file's signature covers. -/
def Firmware.signed (f : Firmware) : List Byte := f.file.take (fieldAt f.file 0x0D 4)

/-- The header of a firmware file is well formed: its fields stand one after the other, in the order in which R476 names them. [DEDUCED, log entry 117] -/
def fwHeaderOk (b : List Byte) : Bool :=
  decide (128 ≤ b.length) && b.take 8 == ascii ['G', 'L', 'F', 'I', 'R', 'M', 'W', '1'] && zeroAt b 0x51 47
    && decide (128 ≤ fieldAt b 0x0D 4)

/-- A firmware file judged: 0, or the first code of CTL_FW_STATUS that rejects it. [DEDUCED, log entry 117] -/
def judgeFirmware (s : State) (b : List Byte) : Nat :=
  let n := fieldAt b 0x0D 4
  let key := (b.drop 0x11).take 64
  if !fwHeaderOk b then 1
  else if sha256 key ≠ Config.rootKey then 2
  else if !ecdsaOk key (sha256 (b.take n)) ((b.drop n).take 64) then 3
  else if fieldAt b 0x0C 1 < s.ctl.fwSvn then 4
  else if n > 393216 then 5
  else 0

/-- A verified file in its parts. [DEDUCED, log entry 117] -/
def parseFirmware (b : List Byte) : Firmware :=
  { version := fieldAt b 8 4, svn := fieldAt b 0x0C 1, file := b.take (fieldAt b 0x0D 4 + 64) }

/-- A firmware copy runs: what shows of it, and the FW_SVN fuse, which it advances (R476). -/
def runFirmware (s : State) (f : Firmware) : State :=
  let s := s.setCtl { s.ctl with firmware := some f, fwSvn := max s.ctl.fwSvn (min 64 f.svn) }
  ((s.set CTL_FW_STATUS.SVN f.svn).set CTL_FW_STATUS.VERSION f.version).set CAD_PRED.P_IDLE Config.idlePower.toNat

/-- What firmware does about an event of its queue that has no command of its own. -/
def fwAct (s : State) (e : FwEvent) : State :=
  match e with
  | .censusDue | .census .. | .reply .. | .censusEnd .. => censusDo s e
  | .adopt n p => takeAdopt s n p
  | e => fwDo s e

/-- Events acted on in order, up to one that has a command of its own; a NOTIFY is passed over (R439). -/
def drainGo : List FwEvent → State → List FwEvent × State
  | [], s => ([], s)
  | e :: es, s =>
    if e.own then drainGo es (fwAct s e)
    else if e.stops then (e :: es, s)
    else
      let r := drainGo es s
      (e :: r.1, r.2)

/-- Firmware acts on the events that waited for it, in order; what that adds to the queue stands behind the rest (R439). [DEDUCED, log entry 106] -/
def drainFwq (s : State) : State :=
  if !fwRuns s then s
  else
    let r := drainGo s.flt.fwq { s with flt := { s.flt with fwq := [] } }
    { r.2 with flt := { r.2.flt with fwq := r.1 ++ r.2.flt.fwq } }

/-- The journal as a boot finds it: everything after the last COMMIT is discarded (R479). -/
def scanJournal (s : State) : State := s.setCtl { s.ctl with journal := counted s.ctl.journal, compacting := none }

/-- A journal record as firmware reads it: one that fails its CRC is read again, and, where that fails too, treated as absent and logged (R482). -/
def journalRead (s : State) (typ key : Nat) : Option (List Byte) × State :=
  match journalGet s.ctl.journal typ key with
  | none => (none, s)
  | some b =>
    match meet s (fun | .record t k e => if t = typ ∧ k = key then some e else none | _ => none) with
    | (some .persistent, s) => (none, s.log { region := regionCTL, event := 36, level := 1, action := 1 })
    | (_, s) => (some b, s)

/-- Firmware starts after a reset or a restart, from flash (BOOT 1), from the host (BOOT 3) or from the copy that ran. -/
def startFirmware (s : State) (f : Firmware) (boot : Nat) : State :=
  drainFwq (((runFirmware s f).set CTL_STATUS.BOOT boot).set FLT_STATUS.RESTARTING 0)

/-- Panels that the flash store marks as retired are retired again (R104). -/
def retirePanels (s : State) : State :=
  let r := journalRead s recPANELS 0
  settle (askPanels r.2 (ofBytes (r.1.getD [])) 0)

/-- The flash firmware record, if it passes R476. -/
def flashFirmware (s : State) : Option Firmware :=
  match journalGet s.ctl.journal recFIRMWARE 0 with
  | some b => if judgeFirmware s b = 0 then some (parseFirmware b) else none
  | none => none

/-- Recovery boot begins to await host firmware (R478); what led to it is logged, except where the pins or the record ask for it.
[DEDUCED, log entry 128] -/
def beginRecovery (s : State) (failed : Bool) : State :=
  let s := s.setCtl { s.ctl with recovery := [], firmware := none }
  let s := (s.set CTL_STATUS.BOOT 2).attend 8
  if failed then s.escalate { region := regionCTL, event := 35, level := 3, action := 3 } else s

/-! The staging region and the image window (R471, R517). -/

/-- The bytes of a region of flash or control SRAM up to the last one written; those not written hold 0xFF. -/
def filledBytes (m : FMap Byte) : List Byte :=
  match m.reverse with
  | [] => []
  | (n, _) :: _ => (List.range (n + 1)).map (fun i => (FMap.find m i).getD 0xFF)

/-- Bytes written into such a region. -/
def putFilled (m : FMap Byte) (off : Nat) (data : List Byte) : FMap Byte :=
  data.zipIdx.foldl (fun m e => FMap.put m (off + e.2) e.1) m

/-- A refused write of the image window. -/
def refuseWindow (s : State) : State :=
  let s := s.count HST_WIN_ERR_CNT 1
  if s.ctl.winLogged then s
  else (s.setCtl { s.ctl with winLogged := true }).log { region := regionHST, event := 2, level := 1, action := 2 }

/-- IMAGE_WINDOW_WRITE: a host write at an offset of the image window. -/
def execImageWindowWrite (offset : BitVec 22) (data : List Byte) (s : State) : Host.Outcome State Fault Refusal :=
  .next (
    let o := offset.toNat
    if data = [] then s
    else if s.get CTL_STATUS.BOOT = 2 then
      if o + data.length ≤ 393216 then s.setCtl { s.ctl with recovery := putFilled s.ctl.recovery o data } else refuseWindow s
    else match s.ctl.stageNext with
      | none => refuseWindow s
      | some n =>
        if o < n ∨ o + data.length > 2 ^ 22 then refuseWindow s
        else s.setCtl { s.ctl with staging := putFilled s.ctl.staging o data, stageNext := some (o + data.length) })

/-! Image operations (Table 16.9). -/

/-- A write of CTL_IMG_CTL that names an operation: it begins, and the staging region closes; while another runs it is refused. [DEDUCED, log entry 118] -/
def askImage (op : Nat) (slot : Nat) (s : State) : State :=
  let s := s.setCtl { s.ctl with winLogged := false }
  if s.flag CTL_IMG_STATUS.BUSY then reportImage s op slot 17 0
  else
    let o : ImgOp := { op := op, slot := slot, opened := s.ctl.stageNext.isSome }
    ((s.setCtl { s.ctl with op := some o, stageNext := none }).set CTL_IMG_STATUS.BUSY 1).set CTL_FLASH_STATUS.STAGING_OPEN 0

/-- OPEN. -/
def execOpen (slot : Fin 64) (s : State) : Host.Outcome State Fault Refusal := .next (askImage 1 slot.val s)

/-- STORE. -/
def execStore (slot : Fin 64) (s : State) : Host.Outcome State Fault Refusal := .next (askImage 2 slot.val s)

/-- LOAD. -/
def execLoad (slot : Fin 64) (s : State) : Host.Outcome State Fault Refusal := .next (askImage 3 slot.val s)

/-- STORE_LOAD. -/
def execStoreLoad (slot : Fin 64) (s : State) : Host.Outcome State Fault Refusal := .next (askImage 4 slot.val s)

/-- DELETE. -/
def execDelete (slot : Fin 64) (s : State) : Host.Outcome State Fault Refusal := .next (askImage 5 slot.val s)

/-- DEFAULT. -/
def execDefault (slot : Fin 64) (s : State) : Host.Outcome State Fault Refusal := .next (askImage 6 slot.val s)

/-- SWITCH. -/
def execSwitch (slot : Fin 64) (s : State) : Host.Outcome State Fault Refusal := .next (askImage 7 slot.val s)

/-- OWNER. -/
def execOwner (slot : Fin 64) (s : State) : Host.Outcome State Fault Refusal := .next (askImage 8 slot.val s)

/-- NODEFAULT. -/
def execNodefault (slot : Fin 64) (s : State) : Host.Outcome State Fault Refusal := .next (askImage 9 slot.val s)

/-- What an operation comes to: its code and DETAIL, and the state with what it did. -/
structure Done where
  verdict : Verdict
  after : State

def Done.ok (s : State) : Done := { verdict := accepted, after := s }
def Done.bad (s : State) (code detail : Nat) : Done := { verdict := { code := code, detail := detail }, after := s }

/-- Pages fail to program (R482). -/
def noteProgFails (s : State) (n : Nat) : State := s.setCtl (iter CtlState.failPage n s.ctl)

/-- Every read of a record fails: it is treated as absent, and that is logged (R482). -/
def recordLost (s : State) : State := s.log { region := regionCTL, event := 36, level := 1, action := 1 }

/-- The image of a slot as it is read; a record that fails every read is treated as absent, and that is logged (R482). -/
def readSlot (s : State) (slot : Nat) (readFails : Nat) : Option (List Byte) × State :=
  match slotImage s slot with
  | none => (none, s)
  | some b =>
    if readFails < 3 then (some b, s) else (none, recordLost s)

/-- The default slot. -/
def defaultSlot (s : State) : Option Nat := (journalGet s.ctl.journal recDEFAULT 0).map (fun b => fieldAt b 0 1)

/-- STORE: the staged image verified, validated and written. [DEDUCED, log entry 118] -/
def opStore (s : State) (o : ImgOp) (progFails : Nat) : Done :=
  let b := filledBytes s.ctl.staging
  let v := judgeImage s b
  if !o.opened then .bad s 19 0
  else if v.code ≠ 0 then .bad s v.code v.detail
  else
    let b := b.take (ImageFile.signedSize b + 64)
    let t := noteProgFails s progFails
    if !journalFits t.ctl { typ := recIMAGE, key := o.slot, data := b } then .bad t 16 0
    else .ok (t.journalPut recIMAGE o.slot b)

/-- A validated load of the host's awaits its boundary, in place of an earlier one; one that awaits an epoch change stays. [DEDUCED, log entry 115] -/
def awaitLoad (s : State) (o : ImgOp) (b : List Byte) : Done :=
  if s.ctl.load.any (fun l => l.change.isSome) then .bad s 17 0
  else .ok ((s.setCtl { s.ctl with load := some { op := o.op, slot := o.slot, bytes := b, change := none } }).set
    CTL_IMG_STATUS.PENDING 1)

/-- LOAD. -/
def opLoad (s : State) (o : ImgOp) (readFails : Nat) : Done :=
  let (r, s) := readSlot s o.slot readFails
  match r with
  | none => .bad s 15 o.slot
  | some b =>
    let v := judgeImage s b
    if v.code ≠ 0 then .bad s v.code v.detail else awaitLoad s o b

/-- A DELETE record fits. -/
def deleteFits (s : State) : Bool := journalFits s.ctl { typ := recDELETE, key := 0, data := [] }

/-- DELETE. [DEDUCED, log entry 122] -/
def opDelete (s : State) (o : ImgOp) : Done :=
  if (slotImage s o.slot).isNone then .bad s 15 o.slot
  else if !deleteFits s then .bad s 16 0
  else
    let s := s.journalDel recIMAGE o.slot
    .ok (if defaultSlot s = some o.slot then s.journalDel recDEFAULT 0 else s)

/-- DEFAULT. -/
def opDefault (s : State) (o : ImgOp) (readFails : Nat) : Done :=
  let (r, s) := readSlot s o.slot readFails
  if r.isNone then .bad s 15 o.slot
  else if !journalFits s.ctl { typ := recDEFAULT, key := 0, data := toBytes 1 o.slot } then .bad s 16 0
  else .ok (s.journalPut recDEFAULT 0 (toBytes 1 o.slot))

/-- SWITCH. [DEDUCED, log entry 122] -/
def opSwitch (s : State) (o : ImgOp) (readFails : Nat) : Done :=
  let (r, s) := readSlot s o.slot readFails
  match r with
  | none => .bad s 15 o.slot
  | some b =>
    if !isSysRm s then .bad s 19 0
    else .ok (sendChange s { epoch := nextEpoch s, base := secondStep s, digest := ImageFile.short b, amend := [] })

/-- An owner-key slot of the fuses has been written. -/
def ownerWritten (s : State) (n : Nat) : Bool := (ownerSlot s n).any (fun o => o.1 != [])

/-- A slot is live: written and not revoked. -/
def ownerLive (s : State) (n : Nat) : Bool := (ownerSlot s n).any (fun o => o.1 != [] && !o.2)

/-- An owner request is refused (R470). [DEDUCED, log entry 120] -/
def ownerRefused (s : State) (b : List Byte) : Bool :=
  let action := fieldAt b 8 1
  let slot := fieldAt b 9 1
  let signer := (b.drop 88).take 64
  b.take 8 != ascii ['G', 'L', 'O', 'W', 'N', 'E', 'R', '1']
    || !(decide (1 ≤ action) && decide (action ≤ 3))
    || fieldAt b 16 8 != Config.serial.toNat
    || !liveKey s signer
    || !ecdsaOk signer (sha256 (b.take 192)) ((b.drop 192).take 64)
    || (action != 3 && decide (4 ≤ slot))
    || (action == 1 && ownerWritten s slot)
    || (action == 2 && !(List.range 4).any (fun n => n != slot && ownerLive s n))

/-- Fuses blown by an owner request. -/
def applyOwner (s : State) (b : List Byte) : State :=
  let slot := fieldAt b 9 1
  let old := (ownerSlot s slot).getD ([], false)
  match fieldAt b 8 1 with
  | 1 => s.setCtl { s.ctl with owners := FMap.put s.ctl.owners slot (sha256 ((b.drop 24).take 64), old.2) }
  | 2 => s.setCtl { s.ctl with owners := FMap.put s.ctl.owners slot (old.1, true) }
  | _ => (s.setCtl { s.ctl with debugLock := true }).set PWR_OPT.DEBUG_EN 0

/-- OWNER. [DEDUCED, log entry 118] -/
def opOwner (s : State) (o : ImgOp) : Done :=
  let b := (List.range 256).map (fun i => (FMap.find s.ctl.staging i).getD 0xFF)
  if !o.opened then .bad s 19 0
  else if ownerRefused s b then .bad s 18 0
  else .ok (applyOwner s b)

/-- OPEN: the sixteen blocks of the staging region are erased. -/
def opOpen (s : State) : Done :=
  let life := { s.ctl.life with erases := s.ctl.life.erases + 16 }
  .ok ((s.setCtl { s.ctl with staging := [], stageNext := some 0, life := life }).set CTL_FLASH_STATUS.STAGING_OPEN 1)

/-- The operation that runs is carried out. `readFails` are the reads of its record that fail, `progFails` the pages that fail to program. -/
def runImage (s : State) (o : ImgOp) (readFails progFails : Nat) : Done :=
  match o.op with
  | 1 => opOpen s
  | 2 => opStore s o progFails
  | 3 => opLoad s o readFails
  | 4 =>
    let d := opStore s o progFails
    if d.verdict.code ≠ 0 then d else opLoad d.after o readFails
  | 5 => opDelete s o
  | 6 => opDefault s o readFails
  | 7 => opSwitch s o readFails
  | 8 => opOwner s o
  | _ => if (defaultSlot s).isSome && !deleteFits s then .bad s 16 0 else .ok (s.journalDel recDEFAULT 0)

/-- An image operation ends. -/
def endImage (o : ImgOp) (d : Done) : State :=
  reportImage ((d.after.setCtl { d.after.ctl with op := none }).set CTL_IMG_STATUS.BUSY 0) o.op o.slot d.verdict.code d.verdict.detail

/-- IMG_OP_COMPLETE: the running image operation ends. [DEDUCED, log entry 119] -/
def execImgOpComplete (readFails : Fin 4) (progFails : Nat) (s : State) : Host.Outcome State Fault Refusal :=
  .next (match s.ctl.op with
    | none => s
    | some o => if fwRuns s then settle (endImage o (runImage s o readFails.val progFails)) else s)

/-! Firmware operations (R477, R478). -/

/-- A firmware operation ends with a code. -/
def endFirmware (s : State) (code : Nat) : State :=
  let s := ((s.setCtl { s.ctl with fwOp := none }).set CTL_FW_STATUS.BUSY 0).set CTL_FW_STATUS.CODE code
  if code = 0 then s else s.attend 8

/-- A write of CTL_FW_CTL is noted (R517). -/
def noteFwCtl (s : State) : State := s.setCtl { s.ctl with winLogged := false }

/-- A firmware operation asked for while another runs. -/
def fwBusy (s : State) : State := (s.set CTL_FW_STATUS.CODE 7).attend 8

/-- FW_STAGE. -/
def execFwStage (s : State) : Host.Outcome State Fault Refusal :=
  .next (
    let s := noteFwCtl s
    if s.flag CTL_FW_STATUS.BUSY then fwBusy s else (s.setCtl { s.ctl with fwOp := some true }).set CTL_FW_STATUS.BUSY 1)

/-- FW_STORE. -/
def execFwStore (s : State) : Host.Outcome State Fault Refusal :=
  .next (
    let s := noteFwCtl s
    if s.flag CTL_FW_STATUS.BUSY then fwBusy s
    else if s.ctl.staged.isNone then endFirmware s 8
    else (s.setCtl { s.ctl with fwOp := some false }).set CTL_FW_STATUS.BUSY 1)

/-- FW_SWITCH. -/
def execFwSwitch (s : State) : Host.Outcome State Fault Refusal :=
  .next (
    let s := noteFwCtl s
    if s.flag CTL_FW_STATUS.BUSY then fwBusy s
    else if s.ctl.staged.isNone then endFirmware s 8
    else (s.set CTL_FW_STATUS.CODE 0).set CTL_FW_STATUS.SWITCH_PENDING 1)

/-- A verified copy is in the staged area. -/
def stageFirmware (s : State) (b : List Byte) : State :=
  (endFirmware s 0).setCtl { (endFirmware s 0).ctl with staged := some (parseFirmware b) } |>.set CTL_FW_STATUS.STAGED 1

/-- A firmware is rejected at STAGE. -/
def rejectFirmware (s : State) (code : Nat) : State :=
  (endFirmware s code).log { region := regionCTL, event := 34, level := 2, action := 2 }

/-- STAGE judges a file. -/
def finishStage (s : State) (b : List Byte) : State :=
  let code := judgeFirmware s b
  if code = 0 then stageFirmware s b else rejectFirmware s code

/-- FW_OP_COMPLETE: the running firmware operation ends: STAGE in recovery boot by the boot ROM, which then runs the copy.
[DEDUCED, log entries 119, 128] -/
def execFwOpComplete (readFails : Fin 4) (progFails : Nat) (s : State) : Host.Outcome State Fault Refusal :=
  .next (match s.ctl.fwOp with
    | none => s
    | some true =>
      if s.get CTL_STATUS.BOOT = 2 then
        let s := finishStage s (filledBytes s.ctl.recovery)
        if s.get CTL_FW_STATUS.CODE ≠ 0 then s
        else match s.ctl.staged with
          | some f => retirePanels (startFirmware s f 3)
          | none => s
      else if !fwRuns s then s
      else if readFails = 3 then rejectFirmware s 6
      else finishStage s (filledBytes s.ctl.staging ++ List.replicate 64 0xFF)
    | some false =>
      if !fwRuns s then s
      else match s.ctl.staged with
        | none => endFirmware s 8
        | some f =>
          let t := noteProgFails s progFails
          if !journalFits t.ctl { typ := recFIRMWARE, key := 0, data := f.file } then endFirmware t 6
          else endFirmware (t.journalPut recFIRMWARE 0 f.file) 0)

/-- FW_SWITCH_EXEC: at a step boundary the running firmware hands over, and the switch begins; when it ends, the staged copy is the running one and
the old one the staged, and firmware acts on what has waited (R477). [DEDUCED, log entry 119] -/
def execFwSwitchExec (s : State) : Host.Outcome State Fault Refusal :=
  .next (match s.ctl.staged with
    | none => s
    | some f =>
      if s.ctl.switching then
        let s := s.setCtl { s.ctl with staged := s.ctl.firmware, switching := false }
        settle (drainFwq (((runFirmware s f).set CTL_FW_STATUS.SWITCH_PENDING 0).count CTL_FW_SWITCH_CNT 1))
      else if s.step.running ∨ s.ctl.installing.isSome ∨ s.get CTL_FW_STATUS.SWITCH_PENDING = 0 ∨ !fwRuns s then s
      else s.setCtl { s.ctl with switching := true })

/-! The journal's upkeep (R479, R480). -/

/-- The 64-byte header of a record (R479). -/
def JournalRec.header (r : JournalRec) : List Byte :=
  let h := ascii ['G', 'L', 'J', 'R'] ++ toBytes 2 r.typ ++ toBytes 2 r.flags ++ toBytes 8 r.key ++ toBytes 8 r.seq ++ toBytes 4 r.data.length
    ++ toBytes 4 (crc32 r.data) ++ List.replicate 28 0
  h ++ toBytes 4 (crc32 h)

/-- The next part of a compaction: the live records are copied, then the copies committed, then the blocks that hold no live record erased (R480).
[DEDUCED, log entry 121] -/
def compactNext (s : State) : State :=
  match s.ctl.compacting with
  | none =>
    if s.ctl.journalHigh then
      (s.setCtl { s.ctl with
        journal := s.ctl.journal ++ copies s.ctl.journal
        compacting := some { first := nextSeq s.ctl.journal, done := false } }).set CTL_FLASH_STATUS.COMPACTING 1
    else s
  | some c =>
    if c.done then s.eraseBlocks (s.ctl.journal.filter (fun r => decide (c.first ≤ r.seq)))
    else s.setCtl { s.ctl with
      journal := s.ctl.journal ++ [commitRec s.ctl.journal 1], compacting := some { c with done := true } }

/-- JOURNAL_COMPACT: the journal is more than 75 % full, or a compaction runs. -/
def execJournalCompact (s : State) : Host.Outcome State Fault Refusal := .next (if fwRuns s then compactNext s else s)

/-- The payload of a LIFETIME record: hours, resets by source code, entries to shed stages, erases, and the blocks marked bad.
[DESIGN CHOICE, log entry 124] -/
def lifetimeBytes (l : Lifetime) : List Byte :=
  toBytes 8 l.hours ++ (List.range 9).flatMap (fun n => toBytes 8 ((FMap.find l.resets (n + 1)).getD 0)) ++ toBytes 8 l.stages
    ++ toBytes 8 l.erases ++ l.bad.flatMap (toBytes 8)

/-- The counts that a LIFETIME record holds. [DESIGN CHOICE, log entry 124] -/
def lifetimeOf (b : List Byte) : Lifetime :=
  { hours := fieldAt b 0 8
    resets := (List.range 9).foldl (fun m n =>
      let c := fieldAt b (8 + 8 * n) 8
      if c = 0 then m else FMap.put m (n + 1) c) []
    stages := fieldAt b 80 8, erases := fieldAt b 88 8, bad := wordsOf 8 (b.drop 96) }

/-- The LIFETIME record written. -/
def recordLifetime (s : State) : State := s.journalPut recLIFETIME 0 (lifetimeBytes s.ctl.life)

/-- LIFETIME_WRITE: another powered hour has passed. -/
def execLifetimeWrite (s : State) : Host.Outcome State Fault Refusal :=
  .next (if fwRuns s then
      recordLifetime (s.setCtl { s.ctl with life := { s.ctl.life with hours := s.ctl.life.hours + 1 } })
    else s)

/-! Attestation (R483). -/

/-- The number of the step running, or of the last completed one when none runs; 0 when there is neither. [DEDUCED, log entry 127] -/
def stepShown (s : State) : Nat := if s.step.running then s.step.number else s.step.lastDone.getD 0

/-- The first 144 bytes of a quote (Table 16.13). [DEDUCED, log entry 127] -/
def quoteBytes (s : State) : List Byte :=
  ascii ['G', 'L', 'Q', 'U', 'O', 'T', 'E', '1'] ++ toBytes 8 1
    ++ (List.range 4).flatMap (fun n => toBytes 8 (s.get (CTL_ATT_NONCE.NONCE n)))
    ++ (match s.ctl.firmware with | some f => sha256 f.signed | none => List.replicate 32 0)
    ++ (List.range 4).flatMap (fun n => toBytes 8 (s.get (CTL_IMG_DIGEST.DIGEST n)))
    ++ toBytes 8 (s.get CTL_TENANT.TENANT) ++ toBytes 8 s.tick ++ toBytes 8 (stepShown s)
    ++ toBytes 2 (s.get LNK_ID.ID) ++ toBytes 4 (fwVersion s) ++ toBytes 2 0

/-- QUOTE: CTL_ATT_CTL.QUOTE is written. -/
def execQuote (s : State) : Host.Outcome State Fault Refusal :=
  .next (if s.flag CTL_ATT_STATUS.BUSY then s
    else ((s.setCtl { s.ctl with quote := quoteBytes s }).set CTL_ATT_STATUS.BUSY 1).set CTL_ATT_STATUS.DONE 0)

/-- QUOTE_SIGNED. -/
def execQuoteSigned (s : State) : Host.Outcome State Fault Refusal :=
  .next (if s.get CTL_ATT_STATUS.BUSY = 0 then s
    else
      let q := s.ctl.quote ++ (List.range 64).map (fun i => (Config.sign (sha256 s.ctl.quote)).getD i 0)
      let s := setWords s 0x1000 (wordsOf 8 q)
      ((s.set CTL_ATT_STATUS.BUSY 0).set CTL_ATT_STATUS.DONE 1).count CTL_QUOTE_CNT 1)

end Sys2Proof.Machine
end

