-- ==== Sys2Proof/Machine/Reset.lean ====
section
/-!
DEFINITION. Machine/Reset.lean: what each reset source clears and keeps, and the steps at which release resumes (17 R495 to R501, Table 17.5;
15 R437, R439, R440, R457; 07 R554).
-/

namespace Sys2Proof.Machine

open Reg

/-- The release step at which release resumes after a source of Table 17.5. -/
def resumeStep (code : Nat) : Nat :=
  if code = 1 then 1 else if code = 4 ∨ code = 9 then 4 else if code = 5 then 7 else 2

/-- Of two sources the one with the earlier resume step; of those the lower code (R500). -/
def firstSource (a b : Nat) : Nat :=
  if resumeStep b < resumeStep a ∨ (resumeStep b = resumeStep a ∧ b < a) then b else a

/-- A reset or the release after one is in progress. -/
def releasing (s : State) : Bool := s.get PWR_STATUS.RELEASE != 0 || s.flag FLT_STATUS.RESTARTING

/-- The sources of the resets that are in progress when another arrives (R500). [DEDUCED, log entry 113] -/
def sourcesLeft (s : State) : List Nat := if releasing s then s.pwr.sources else []

/-- The release step that a reset leaves the module at: the earliest at which release resumes after the sources in progress; the release of the
control domain alone is not the module's (R439, R500). [DEDUCED, log entry 113] -/
def resumeAt (s : State) (sources : List Nat) : Nat :=
  if sources.all (fun c => resumeStep c == 4) then s.get PWR_STATUS.RELEASE
  else (sources.map resumeStep).foldl min 7

/-- A reset of a source has occurred: noted where it outlives the reset, and in the first entry after it (R457, R500). `before` is the
state in which it arrived. [DEDUCED, log entries 18, 113] -/
def noteReset (before s : State) (code : Nat) : State :=
  let sources := sourcesLeft before ++ [code]
  let life := { s.ctl.life with resets := FMap.put s.ctl.life.resets code ((FMap.find s.ctl.life.resets code).getD 0 + 1) }
  let s := { s with pwr := { s.pwr with sources := sources }, ctl := { s.ctl with life := life } }
  let s := (s.set PWR_RESET_CAUSE.CAUSE (if code = 1 then 1 else s.get PWR_RESET_CAUSE.CAUSE ||| 2 ^ (code - 1))).set
    PWR_ALERT_FLAGS.RESET 1
  (s.set PWR_STATUS.RELEASE (resumeAt before sources)).log
    { region := regionCTL, event := 8, level := 3, action := 5, detail := sources.foldl firstSource code }

/-! The chip (R496). -/

/-- Registers that a reset of the chip keeps: those of the always-on domain and what shows its supply, oscillator and pins; and, unless the
core rails go off, the event log and its head. [DEDUCED, log entry 108] -/
def keptKey (sram : Bool) (k : Nat) : Bool :=
  let off := k / 64
  off == 0xC00010 || off == 0xC00028 || (decide (0xC00048 ≤ off) && decide (off ≤ 0xC000B8))
    || (decide (0xC10000 ≤ off) && decide (off < 0xC20000))
    || k == PWR_STATUS.STAGE.key || k == PWR_STATUS.PFAIL.key || k == PWR_STATUS.OV.key || k == PWR_STATUS.OSC.key
    || k == HST_LINK.PERST.key
    || (sram && (off == 0xA00028 || (decide (0xA80000 ≤ off) && decide (off < 0xB00000))))

/-- The counts that a LIFETIME record holds. [DESIGN CHOICE, log entry 124] -/
def savedLife (c : CtlState) : Lifetime := lifetimeOf ((journalGet c.journal recLIFETIME 0).getD [])

/-- What the flash store and the fuses hold outlives every reset; the lifetime counts since their last record, which firmware keeps in control SRAM,
do so while that is kept. [DESIGN CHOICE, log entry 29] -/
def keptCtl (c : CtlState) (sram : Bool) : CtlState :=
  { CtlState.reset with
    journal := c.journal, staging := c.staging, recovery := c.recovery, owners := c.owners, debugLock := c.debugLock
    fwSvn := c.fwSvn, life := if sram then c.life else savedLife c }

/-- Errors that wait in the flash store (R482). -/
def flashUpset : Upset → Bool
  | .program | .record .. => true
  | _ => false

/-- Every region and register block, with the image in force, at its reset state; memory undefined. Control SRAM holds the event log, what waits to be
written to it and the firmware event queue (Table 16.11). [DEDUCED, log entry 108; DESIGN CHOICE, log entry 2] -/
def clearChip (s : State) (sram : Bool) : State :=
  { State.reset with
    pending := s.pending
    regs := s.regs.filter (fun e => keptKey sram e.1)
    mem := undefCells s.free (fun _ => true) s.mem
    logIn := if sram then s.logIn else State.reset.logIn
    flt := { State.reset.flt with fwq := if sram then s.flt.fwq else [] }
    cad := { CadState.reset with lastMj := s.get PWR_ENERGY.MJ }
    ctl := keptCtl s.ctl sram
    pwr := { s.pwr with fabric := false }
    upsets := s.upsets.filter flashUpset
    free := s.free + 1 }

/-- Everything but the flash store and the fuses is lost (power-on reset). [DESIGN CHOICE, log entry 29] -/
def loseAll (s : State) : State :=
  { State.reset with
    pending := s.pending
    ctl := { keptCtl s.ctl false with recovery := [] }
    upsets := s.upsets.filter flashUpset
    free := s.free }

/-! The engine-level reset. -/

/-- A register of a block that the engine-level reset clears. [DEDUCED, log entry 109] -/
def engineKey (k : Nat) : Bool :=
  let off := k / 64
  let block := off / 0x100000
  [1, 2, 3, 4, 6, 7, 8, 9].contains block && off != 0x400028 && !(decide (0x401000 ≤ off) && decide (off < 0x402000))

/-- The image leaves force. -/
def dropImage (s : State) : State :=
  let s := { s.setCtl { s.ctl with installing := none } with
    image := none, descs := [], commits := [], commitNow := none, hookTable := [], slots := [], step := .reset
    lnk := { s.lnk with topo := none, wins := [], nbrs := [], standing := false } }
  let s := ((s.set CTL_STATUS.IMAGE 0).set CTL_STATUS.SLOT 0xFF).set CTL_TENANT.TENANT 0
  let s := setWords s 0x58 [0, 0, 0, 0]
  takePosition (clearRegs (s.set LNK_DIGEST.DIGEST 0) 0x502000 0x503000)

/-- DNS, DRV, TAG, MEM, RED, ING, CAD and SEQ at their reset state but for the retirement table; the image leaves force. [DEDUCED, log entry 109] -/
def clearEngines (s : State) : State :=
  let s := dropImage s
  let s := { s with
    regs := s.regs.filter (fun e => !engineKey e.1)
    mem := undefCells s.free (fun _ => true) s.mem
    memory := .reset, seqs := Vector.replicate 4 .reset, dense := .reset, drv := .reset
    cad := { CadState.reset with running := s.cad.running, lastMj := s.get PWR_ENERGY.MJ }
    xfers := [], unwaited := [], reduces := [], upsets := s.upsets.filter (fun u => flashUpset u || u matches .link ..)
    red := State.reset.red, ing := { IngState.reset with tx := [] }, genLanes := [], ctx := 0
    once := s.once.filter (fun p => decide (windowCtx 0 ≤ p.1))
    patrol := [], ctl := { s.ctl with unscrubbed := true }, free := s.free + 1 }
  let s := if s.ctl.firmware.isSome then s.set CAD_PRED.P_IDLE Config.idlePower.toNat else s
  { s with latched := s.regs }

/-! The control domain (R439, R440). -/

/-- The cores of the control processor run: firmware, or the boot ROM from release step 4 on. -/
def coresRun (s : State) : Bool := configured s

/-- The control domain restarts. -/
def restartControl (s : State) : State := s.set FLT_STATUS.RESTARTING 1

/-- The four sequencers at their reset state; their program stores and the scalar registers stay. [DEDUCED, log entry 105] -/
def clearSeqs (s : State) : State :=
  clearRegs { s with seqs := Vector.replicate 4 .reset } 0x950000 0x950200

/-! Each source, and several at once (R500). -/

/-- A source that clears the chip (Table 17.5). -/
def chipSource (c : Nat) : Bool := [1, 2, 3, 6, 7, 8].contains c

/-- The union of the clear sets of sources. The always-on domain, which power-on alone clears, has been cleared and released by then.
[DEDUCED, log entry 113] -/
def clearFor (s : State) (codes : List Nat) : State :=
  if codes.any chipSource then clearChip s (!codes.any (fun c => decide (c ≤ 2)))
  else
    let s := if codes.contains 5 then clearEngines s else s
    let s := if codes.contains 4 then clearSeqs s else s
    if codes.contains 4 || codes.contains 9 then restartControl s else s

/-- A reset of a source arrives in a state, and leaves what its clear set, and those of the resets in progress, leave of another. -/
def resetBy (before s : State) (code : Nat) : State := noteReset before (clearFor s (sourcesLeft before ++ [code])) code

/-- The brown-out, pin, chip-level, debug and clock-failure resets. -/
def chipReset (s : State) (code : Nat) : State := resetBy s s code

/-- The engine-level reset: a running step stops with cause 3, the module withdraws (R437), and the sampler stops (R547). -/
def engineReset (s : State) : State := resetBy s (stopSampler (stopStep s 3)) 5

/-- A watchdog reset: a running step stops with cause 2, and the control domain and the sequencers are cleared. [DEDUCED, log entry 105] -/
def watchdogReset (s : State) : State :=
  let t := (s.count FLT_WDOG_CNT 1).log { region := regionCTL, event := 2, level := 3, action := 4 }
  resetBy s (stopStep t 2) 4

/-- A lockstep mismatch: a lock-up reset of the control domain, or a watchdog reset when it is the second within a second. [DEDUCED, log entry 107] -/
def lockUp (s : State) (injected within : Bool) : State :=
  let t := ((s.count FLT_LOCKUP_CNT 1).set FLT_FLAGS.LOCKUP 1).log
    { region := regionCTL, event := 1, level := 3, action := 1, injected := injected }
  let t := { t with flt := { t.flt with lockedUp := true } }
  if within && s.flt.lockedUp then watchdogReset t else resetBy s t 9

end Sys2Proof.Machine
end

