-- ==== Sys2Proof/Machine/Fault.lean ====
section
/-!
DEFINITION. Machine/Fault.lean: lock-ups and the watchdog, firmware's return, lost pages, the kill and the yield, and the event log's writer
(15 R438 to R440, R452, R454 to R460; 08 R251, R252; 13 R400; 18 R528).
-/

namespace Sys2Proof.Machine

open Reg

/-! The control processor. -/

/-- LOCKSTEP_MISMATCH; `within` says that the last lock-up is less than a second old. -/
def execLockstepMismatch (within : Bool) (s : State) : Host.Outcome State Fault Refusal :=
  .next (if coresRun s then settle (lockUp s false within) else s)

/-- LOCKSTEP_INJ: FLT_CTL.LOCKSTEP_INJ is written. -/
def execLockstepInj (within : Bool) (s : State) : Host.Outcome State Fault Refusal :=
  .next (if coresRun s then settle (lockUp s true within) else s)

/-- The watchdog's period starts anew, with the length that FLT_WDOG.PERIOD holds. -/
def kick (s : State) : State := { s with flt := { s.flt with wdog := max 1 (s.get FLT_WDOG.PERIOD) } }

/-- WDOG_KICK: FLT_WDOG.KICK is written. -/
def execWdogKick (s : State) : Host.Outcome State Fault Refusal := .next (kick s)

/-- WATCHDOG_RESET: the period has passed with no kick. -/
def execWatchdogReset (s : State) : Host.Outcome State Fault Refusal :=
  .next (if fwRuns s then settle (watchdogReset s) else s)

/-- The release of the control domain is complete; so is the module's, when no other is in progress. -/
def endRestart (s : State) : State := if s.get PWR_STATUS.RELEASE = 0 then { s with pwr := { s.pwr with sources := [] } } else s

/-- FIRMWARE_RESUME: the boot ROM restarts the copy in control SRAM when that verifies, or reloads it from flash, or begins recovery boot.
`fails` are the reads of the flash record that fail. [DEDUCED, log entry 107] -/
def execFirmwareResume (copyOk : Bool) (fails : Fin 4) (s : State) : Host.Outcome State Fault Refusal :=
  .next (if s.get FLT_STATUS.RESTARTING = 0 ∨ s.get CTL_STATUS.BOOT = 2 then s
    else match s.ctl.firmware with
      | some f =>
        if copyOk then settle (endRestart (kick (startFirmware s f (s.get CTL_STATUS.BOOT))))
        else match flashFirmware s with
          | some f =>
            if !s.flag PWR_OPT.FLASH_BOOT then beginRecovery s true
            else if fails.val < 3 then settle (endRestart (kick (startFirmware s f 1)))
            else beginRecovery (recordLost s) true
          | none => beginRecovery s true
      | none => s)

/-! Lost pages (R251, R252). -/

/-- The entry of the retirement table that a lost page takes: its own, else the next one. -/
def entryFor (s : State) (page : Nat) : Option Nat :=
  match retireEntry s page with
  | some n => some n
  | none => if s.get MEM_RETIRE_STATUS.USED < 512 then some (s.get MEM_RETIRE_STATUS.USED) else none

/-- The retirement table is full. -/
def retireFull (s : State) : Bool := s.get MEM_RETIRE_STATUS.USED == 512

/-- A page entered: a new entry takes the tick count of its retirement (Table 8.12), one that is used again that of the new loss (R251). -/
def enterPage (s : State) (n page stack tick : Nat) : State :=
  let tick := if n < s.get MEM_RETIRE_STATUS.USED then tick else s.tick % 2 ^ 32
  let s := if n < s.get MEM_RETIRE_STATUS.USED then s else s.set MEM_RETIRE_STATUS.USED (n + 1)
  let s := ((((s.set (MEM_RETIRE_TABLE.VALID n) 1).set (MEM_RETIRE_TABLE.PAGE n) page).set (MEM_RETIRE_TABLE.REPAIRED n) 0).set
    (MEM_RETIRE_TABLE.STACK n) stack).set (MEM_RETIRE_TABLE.TICK n) tick
  if retireFull s then s.set FLT_FLAGS.RETIRE_FULL 1 else s

/-- The hooks of the tags that cover a page are invoked. -/
def hooksOfPage (s : State) (page : Nat) : State :=
  (hookTags s (fun t => tagCovers s t (page * 65536) (page * 65536 + 65536))).foldl (fun s t => queueHook s t page) s

/-- A lost page is retired, or, when the table is full, left in service. -/
def retirePage (s : State) (page stack tick : Nat) : State :=
  match entryFor s page with
  | some n =>
    let s := hooksOfPage (enterPage s n page stack tick) page
    recordRetire { s with flt := { s.flt with repairing := s.flt.repairing ++ [page] } }
  | none =>
    hooksOfPage ((s.set FLT_FLAGS.RETIRE_FULL 1).log
      { region := regionMEM, event := 4, level := 3, action := 2, block := stack, detail := regValue s 0x400020 }) page

/-- The first event of a kind in firmware's queue that nothing but a NOTIFY stands before, and the rest of the queue (R439). -/
def firstOf {α : Type} (f : FwEvent → Option α) : List FwEvent → Option (α × List FwEvent)
  | [] => none
  | e :: es =>
    match f e with
    | some x => some (x, es)
    | none => if e matches .notice .. then (firstOf f es).map (fun r => (r.1, e :: r.2)) else none

/-- A lost page that waits for firmware. -/
def FwEvent.lostPage : FwEvent → Option (Nat × Nat × Nat)
  | .retirePage p st t => some (p, st, t)
  | _ => none

/-- PAGE_RETIRE: firmware acts on the first lost page that waits for it, and on what stood behind it. -/
def execPageRetire (s : State) : Host.Outcome State Fault Refusal :=
  .next (if !fwRuns s then s
    else match firstOf FwEvent.lostPage s.flt.fwq with
      | none => s
      | some ((p, st, t), rest) => drainFwq (retirePage { s with flt := { s.flt with fwq := rest } } p st t))

/-- PAGE_REPAIR: the repair of a retired page ends; `spare` says that its bank still had an unused spare row. -/
def execPageRepair (page : BitVec 24) (spare : Bool) (s : State) : Host.Outcome State Fault Refusal :=
  .next (
    let p := page.toNat
    if !fwRuns s ∨ !s.flt.repairing.contains p then s
    else
      let s := { s with flt := { s.flt with repairing := s.flt.repairing.filter (· != p) } }
      match retireEntry s p with
      | some n => if spare then recordRetire (zeroStack ((s.newOp 7).set (MEM_RETIRE_TABLE.REPAIRED n) 1) ((s.newOp 7).chanNo 0) (p * 65536) 65536) else s
      | none => s)

/-! The kill and the yield (R452, R528). -/

/-- Ingest stops: samples in progress are discarded, and reads in flight complete for nobody (R400). -/
def stopIngest (s : State) : State :=
  { s with ing := { s.ing with samples := [], frames := [], qps := s.ing.qps.map (fun e => (e.1, e.2.orphaned)), stopped := true } }

/-- KILL: HST_CTL is written with KILL 1 and a key. -/
def execKill (key : BitVec 8) (s : State) : Host.Outcome State Fault Refusal :=
  .next (if key ≠ 0x5A then s
    else
      let s := (s.count HST_KILL_CNT 1).log { region := regionHST, event := 7, level := 3, action := 4 }
      settle (stopIngest (stopStep s 5)))

/-- YIELD: FLT_CTL.YIELD is written. -/
def execYield (s : State) : Host.Outcome State Fault Refusal :=
  .next (
    let s := s.set FLT_STATUS.YIELD_PENDING 1
    if s.step.running then s else settle (finishYield s))

/-! The event log (R454 to R458). -/

/-- SNAPSHOT: FLT_CTL.SNAPSHOT is written. -/
def execSnapshot (s : State) : Host.Outcome State Fault Refusal := .next (fwAsk s .snapshot)

/-- Word 1 of an entry (Table 15.5). -/
def LogEvent.word1 (e : LogEvent) : Nat :=
  e.cycle % 2 ^ 16 + (e.level % 4) * 2 ^ 16 + (e.region % 16) * 2 ^ 18 + b2n e.injected * 2 ^ 22 + (e.event % 2 ^ 8) * 2 ^ 24
    + (e.block % 2 ^ 16) * 2 ^ 32 + (e.cell % 2 ^ 16) * 2 ^ 48

/-- Word 2 of an entry. -/
def LogEvent.word2 (e : LogEvent) : Nat := e.modul % 2 ^ 16 + (e.seq % 2 ^ 16) * 2 ^ 16 + (e.action % 8) * 2 ^ 32

/-- An entry written at the ring's next place. -/
def writeEntry (s : State) (e : LogEvent) : State :=
  let n := s.get FLT_LOG_HEAD.NEXT
  let s := (((s.set (FLT_LOG.WORD (4 * n)) e.tick).set (FLT_LOG.WORD (4 * n + 1)) e.word1).set (FLT_LOG.WORD (4 * n + 2)) e.word2).set
    (FLT_LOG.WORD (4 * n + 3)) e.detail
  let s := ((s.set FLT_LOG_HEAD.NEXT (n + 1)).set FLT_LOG_HEAD.TOTAL (s.get FLT_LOG_HEAD.TOTAL + 1)).bump (OBS_AON.COUNT 46) 1
  if n + 1 = 16384 then (s.set FLT_LOG_HEAD.WRAPPED 1).set FLT_FLAGS.LOG_WRAPPED 1 else s

/-- LOG_ENTRY_WRITE. -/
def execLogEntryWrite (s : State) : Host.Outcome State Fault Refusal :=
  .next (match s.logIn.queue with
    | [] => s
    | e :: rest => writeEntry { s with logIn := { s.logIn with queue := rest } } e)

end Sys2Proof.Machine
end

