-- ==== Sys2Proof/Machine/Power.lean ====
section
/-!
DEFINITION. Machine/Power.lean: the supply's shed stages, the power and reset inputs, the release order, and the thermal and alert
judgements (17 R487 to R505).
-/

namespace Sys2Proof.Machine

open Reg

/-! Shed stages (R490 to R494). -/

/-- The millivolts below which a stage is entered; it is left above 1,000 more (Table 17.2). -/
def enterBelow (stage : Nat) : Nat := if stage = 1 then 49000 else if stage = 2 then 47000 else if stage = 3 then 45500 else 44000

/-- Four samples whose sum is `sum` call for a stage below or above the one called for before. [DEDUCED, log entry 111] -/
def judgeStage (sum : Nat) : Nat → Nat → Nat
  | 0, v => v
  | fuel + 1, v =>
    if v < 4 ∧ sum < 4 * enterBelow (v + 1) then judgeStage sum fuel (v + 1)
    else if 0 < v ∧ sum > 4 * (enterBelow v + 1000) then judgeStage sum fuel (v - 1)
    else v

/-- The counter of entries to a stage. -/
def stageCounter (stage : Nat) : Field :=
  if stage = 1 then PWR_STAGE_CNT.STAGE1 else if stage = 2 then PWR_STAGE_CNT.STAGE2
  else if stage = 3 then PWR_STAGE_CNT.STAGE3 else PWR_STAGE_CNT.STAGE4

/-- The record of Table 17.3. -/
def retainedRecord (s : State) (mv : Nat) : List Nat :=
  let kind := if s.step.running then 1 else if s.step.lastDone.isSome then 0 else 0xFF
  [ofBytes (ascii ['G', 'L', 'R', 'E', 'T', 'A', 'I', 'N']), s.tick, stepShown s,
   s.get LNK_EPOCH.EPOCH + ownPos s * 2 ^ 32 + (mv % 2 ^ 16) * 2 ^ 48, s.get LNK_DIGEST.DIGEST, s.get CTL_TENANT.TENANT,
   regValue s 0xA00008, 0, kind]

/-- What stage 4 does besides holding launches and steps: the retained record, and flash work for firmware (R493). [DEDUCED, log entry 112] -/
def stageFour (s : State) (mv : Nat) : State :=
  if s.pwr.holdBrown || s.pwr.holdOver then s
  else fwAsk (setWords s 0xC10000 (retainedRecord s mv ++ List.replicate 23 0)) .stage4

/-- A stage is entered. -/
def enterStage (mv : Nat) (s : State) (stage : Nat) : State :=
  let life := { s.ctl.life with stages := s.ctl.life.stages + 1 }
  let s := (s.setCtl { s.ctl with life := life }).bump (stageCounter stage) 1
  let s := ((s.set PWR_ALERT_FLAGS.STAGE 1).set PWR_STATUS.STAGE stage).log { region := regionPWR, event := 1, level := 3, action := 0 }
  if stage = 4 then stageFour s mv else s

/-- Launches that no hold keeps back any longer are let go, and a step that waited may start (R493, R504). -/
def endSupplyHold (s : State) : State := if supplyHolds s then s else settle (endHold s)

/-- A stage is left for the one below. -/
def leaveStage (s : State) (stage : Nat) : State :=
  let s := s.set PWR_STATUS.STAGE (stage - 1)
  if stage = 4 then endSupplyHold s else s

/-- The stage follows what the supply and PWR_FAIL_L call for, through the stages between, in order. -/
def settleStage (s : State) (mv : Nat) : State :=
  let now := s.get PWR_STATUS.STAGE
  let target := if s.flag PWR_STATUS.PFAIL then 4 else s.pwr.vstage
  if now < target then (List.range (target - now)).foldl (fun s k => enterStage mv s (now + 1 + k)) s
  else (List.range (now - target)).foldl (fun s k => leaveStage s (now - k)) s

/-- The input voltage as it was sampled last. -/
def lastVin (s : State) : Nat := s.pwr.vins.headD (s.get PWR_TELEM.VIN)

/-- SUPPLY_SAMPLE: the input is sampled, in millivolts, and the mean of the last four samples judged. [DEDUCED, log entry 111] -/
def execSupplySample (mv : BitVec 16) (s : State) : Host.Outcome State Fault Refusal :=
  .next (if !s.pwr.on then s
    else
      let vins := (mv.toNat :: s.pwr.vins).take 4
      let v := if vins.length < 4 then s.pwr.vstage else judgeStage vins.sum 4 s.pwr.vstage
      settleStage { s with pwr := { s.pwr with vins := vins, vstage := v } } mv.toNat)

/-- PWR_FAIL: PWR_FAIL_L has been low for 16 REFCLK cycles, or returns high. -/
def execPwrFail (low : Bool) (s : State) : Host.Outcome State Fault Refusal :=
  .next (if !s.pwr.on then s
    else
      let t := s.setFlag PWR_STATUS.PFAIL low
      settleStage (if low && !s.flag PWR_STATUS.PFAIL then t.count PWR_PFAIL_CNT 1 else t) (lastVin s))

/-- Work of a supply stage 4 that waits for firmware: the commit (true), or the records that follow it. -/
def FwEvent.supply : FwEvent → Option Bool
  | .stage4 => some true
  | .stage4Log => some false
  | _ => none

/-- The record being written is finished and committed only when its payload is complete and no more than 256 KiB of it remain; otherwise it is abandoned,
and the operation that wrote it ends (R481). A compaction without its COMMIT is abandoned too. Answers whether a record was finished with its COMMIT.
[DEDUCED, log entry 112] -/
def cutRecords (s : State) (w : Stage4Write) : Bool × State :=
  let fits := w.complete && decide (w.left ≤ 262144)
  let s := if s.ctl.compacting.any (fun c => !c.done) then (scanJournal s).set CTL_FLASH_STATUS.COMPACTING 0 else s
  let t := match s.ctl.op.filter (fun o => o.op == 2 || o.op == 4), s.ctl.fwOp, s.ctl.staged with
    | some o, _, _ => endImage o (if fits then runImage s o 0 0 else .bad s 20 o.slot)
    | none, some false, some f =>
      if fits && journalFits s.ctl { typ := recFIRMWARE, key := 0, data := f.file } then endFirmware (s.journalPut recFIRMWARE 0 f.file) 0
      else endFirmware s 6
    | _, _, _ => s
  (t.ctl.journal != s.ctl.journal, t)

/-- The LIFETIME and LOG records of a stage 4 are written (R481, R493). [DEDUCED, log entry 112; DESIGN CHOICE, log entry 5] -/
def stage4Records (s : State) : State := drainFwq (snapshotLog (recordLifetime s))

/-- STAGE4_COMMIT_DONE: the flash commit of an entry to stage 4 has finished, and COMMITTED alone is rewritten; the LIFETIME and LOG records follow, as
time passes or with the next such command. [DEDUCED, log entry 112] -/
def execStage4CommitDone (w : Stage4Write) (s : State) : Host.Outcome State Fault Refusal :=
  .next (if !fwRuns s then s
    else match firstOf FwEvent.supply s.flt.fwq with
      | none => s
      | some (commit, rest) =>
        let s := { s with flt := { s.flt with fwq := rest } }
        if commit then
          let r := cutRecords s w
          let s := if r.1 then r.2 else r.2.journalCommit
          let s := s.set (PWR_RETAINED.WORD 7) 1
          { s with flt := { s.flt with fwq := .stage4Log :: s.flt.fwq } }
        else stage4Records s)

/-- Time passes with no command: an installation under way goes on, else the write-back of a flush does, else the records of a supply stage 4 are
written. -/
def idle (s : State) : State :=
  match s.ctl.installing with
  | some x => if fwRuns s && !s.step.running then settle (goOnInstall s x) else s
  | none =>
    if s.memory.flushing ≠ [] then flushNext s
    else match firstOf FwEvent.supply s.flt.fwq with
      | some (false, rest) => if fwRuns s then stage4Records { s with flt := { s.flt with fwq := rest } } else s
      | _ => s

/-! Resets from the supply, the pins, the clock and software (R489, R491, R495 to R499). -/

/-- BROWN_OUT: the input has fallen below 42.0 V. -/
def execBrownOut (s : State) : Host.Outcome State Fault Refusal :=
  .next (if !s.pwr.on ∨ s.pwr.holdBrown then s
    else chipReset { s.count PWR_BOR_CNT 1 with pwr := { s.pwr with holdBrown := true } } 2)

/-- BROWN_OUT_RELEASE: the input has risen above 43.0 V. -/
def execBrownOutRelease (s : State) : Host.Outcome State Fault Refusal := .next { s with pwr := { s.pwr with holdBrown := false } }

/-- OVERVOLTAGE: the input has risen above 60.5 V. [DEDUCED, log entry 110] -/
def execOvervoltage (s : State) : Host.Outcome State Fault Refusal :=
  .next (if !s.pwr.on ∨ s.pwr.holdOver then s
    else chipReset { (s.count PWR_OV_CNT 1).set PWR_STATUS.OV 1 with pwr := { s.pwr with holdOver := true } } 2)

/-- OVERVOLTAGE_RELEASE: the input has fallen below 59.5 V. -/
def execOvervoltageRelease (s : State) : Host.Outcome State Fault Refusal :=
  .next { s.set PWR_STATUS.OV 0 with pwr := { s.pwr with holdOver := false } }

/-- PIN_RESET: RESET_L has been low for 16 cycles, or returns high. -/
def execPinReset (low : Bool) (s : State) : Host.Outcome State Fault Refusal :=
  .next (if !s.pwr.on ∨ s.pwr.holdPin = low then s
    else if low then chipReset { s with pwr := { s.pwr with holdPin := true } } 3
    else { s with pwr := { s.pwr with holdPin := false } })

/-- CLOCK_FAILURE: REFCLK fails. -/
def execClockFailure (s : State) : Host.Outcome State Fault Refusal :=
  .next (if !s.pwr.on ∨ s.pwr.holdClock then s
    else
      let s := ((s.count PWR_CLKFAIL_CNT 1).set PWR_STATUS.OSC 1).log { region := regionPWR, event := 6, level := 3, action := 3 }
      chipReset { s with pwr := { s.pwr with holdClock := true } } 8)

/-- CLOCK_RECOVER: REFCLK has been in tolerance for 1 ms. -/
def execClockRecover (s : State) : Host.Outcome State Fault Refusal :=
  .next { s.set PWR_STATUS.OSC 0 with pwr := { s.pwr with holdClock := false } }

/-- ENGINE_RESET: PWR_RESET_CTL is written with ENGINE alone, and a key. -/
def execEngineReset (key : BitVec 8) (s : State) : Host.Outcome State Fault Refusal :=
  .next (if s.pwr.on && key == 0xA5 then engineReset s else s)

/-- CHIP_RESET: PWR_RESET_CTL is written with CHIP, and a key. -/
def execChipReset (key : BitVec 8) (s : State) : Host.Outcome State Fault Refusal :=
  .next (if s.pwr.on && key == 0xA5 then chipReset s 6 else s)

/-- DEBUG_RESET: a request through the debug port, when that is enabled. -/
def execDebugReset (s : State) : Host.Outcome State Fault Refusal :=
  .next (if s.pwr.on && s.flag PWR_OPT.DEBUG_EN then chipReset s 7 else s)

/-- POWER_LOSS: the input has fallen below 30.0 V. -/
def execPowerLoss (s : State) : Host.Outcome State Fault Refusal := .next (if s.pwr.on then loseAll s else s)

/-- POWER_ON: the input has risen above 31.0 V. -/
def execPowerOn (s : State) : Host.Outcome State Fault Refusal :=
  .next (if s.pwr.on then s
    else
      let t := { loseAll s with mem := undefCells s.free (fun _ => true) [], pwr := { PowerState.reset with on := true }, free := s.free + 1 }
      noteReset t t 1)

/-! The release order (R501, R502). -/

/-- The OPTION records that the loader may take, newest first. -/
def optionRecords (rs : List JournalRec) : List (List Byte) :=
  ((rs.reverse.takeWhile (fun r => !(r.typ == recDELETE && r.key == recOPTION * 256))).filter (fun r => r.typ == recOPTION)).map (·.data)

/-- Option loading, with the pins as sampled; the `fails` newest option records fail their CRC. -/
def loadOptions (s : State) (pins fails : Nat) : State :=
  let recs := optionRecords s.ctl.journal
  let r := (recs.drop fails).head?
  let s := if r.isNone ∧ recs ≠ [] then s.log { region := regionPWR, event := 7, level := 1, action := 2 } else s
  let b := r.getD []
  let id := if r.isSome then fieldAt b 0 2 else 0xFFFF
  let addr := if r.isSome ∧ bit (fieldAt b 2 1) 7 then bits (fieldAt b 2 1) 0 7 else 0x58 + bits pins 0 3
  let s := ((s.set PWR_OPT.ID id).set PWR_OPT.I3C_ADDR addr).setFlag PWR_OPT.DEFAULT_EN (bit pins 3 && !bit (fieldAt b 3 1) 0)
  let s := ((s.setFlag PWR_OPT.FLASH_BOOT (bit pins 4)).setFlag PWR_OPT.DEBUG_EN (!bit pins 5 && !s.ctl.debugLock)).setFlag
    PWR_OPT.RECORD r.isSome
  let s := ((s.set PWR_OPT.PINS pins).set HST_I3C.SADDR addr).set LNK_ID.ID id
  { s with lnk := { s.lnk with ownId := id } }

/-- The retirement table reloaded from its record (R251). -/
def reloadRetire (s : State) (b : List Byte) : State :=
  let s := setWords (clearRegs s 0x401000 0x402000) 0x401000 []
  let s := (wordsOf 8 b).zipIdx.foldl (fun s w => setReg s (0x401000 + 8 * w.2) w.1) s
  s.set MEM_RETIRE_STATUS.USED ((wordsOf 8 b).filter (fun w => bit w 24)).length

/-- Release step 4: firmware starts, or recovery boot begins and the step waits for the host. -/
def bootStep (s : State) (fails : Nat) : State :=
  let next := fun (s : State) => s.set PWR_STATUS.RELEASE 5
  if fwRuns s then next s
  else if s.get CTL_STATUS.BOOT ≠ 0 then s
  else match flashFirmware s with
    | some f =>
      if !s.flag PWR_OPT.FLASH_BOOT then beginRecovery s false
      else if fails < 3 then next (retirePanels (kick (startFirmware (scanJournal s) f 1)))
      else beginRecovery (recordLost s) true
    | none => beginRecovery s (s.flag PWR_OPT.FLASH_BOOT)

/-- The default image is verified, validated and installed; a failure is reported as a LOAD of its slot (R471, R475). -/
def loadDefault (s : State) (n fails : Nat) : State :=
  let refuse := fun (s : State) (v : Verdict) => (reportImage s 3 n v.code v.detail).set CTL_STATUS.DEF_FAILED 1
  match readSlot s n fails with
  | (none, s) => refuse s { code := 15, detail := n }
  | (some b, s) =>
    let v := judgeImage s b
    if v.code = 0 then beginInstall s { op := 3, slot := n, bytes := b, change := none } else refuse s v

/-- Release step 7: the default image begins to be installed, or its installation goes on; it ends with that, or at once where there is none. -/
def lastStep (s : State) (fails : Nat) : State :=
  if !fwRuns s then s
  else
    let s := match s.ctl.installing with
      | some x => goOnInstall s x
      | none =>
        let r := journalRead s recDEFAULT 0
        match r.1 with
        | some b => if r.2.flag PWR_OPT.DEFAULT_EN then loadDefault r.2 (fieldAt b 0 1) fails else r.2
        | none => r.2
    settle (if s.ctl.installing.isSome then s else endRelease s)

/-- RELEASE_STEP_COMPLETE: the release step in progress finishes, and the next begins. `pins` are OPT[7:0] as step 3 samples them; `fails` says
how many option records step 3 passes over, and how many reads of its record fail in steps 4, 5 and 7. -/
def execReleaseStepComplete (pins : BitVec 8) (fails : Nat) (s : State) : Host.Outcome State Fault Refusal :=
  .next (if !s.pwr.on then s
    else match s.get PWR_STATUS.RELEASE with
      | 1 => s.set PWR_STATUS.RELEASE 2
      | 2 =>
        if s.pwr.holdBrown || s.pwr.holdOver || s.pwr.holdPin || s.pwr.holdClock then s
        else { s.set PWR_STATUS.RELEASE 3 with cad := { s.cad with running := true } }
      | 3 => (loadOptions s pins.toNat fails).set PWR_STATUS.RELEASE 4
      | 4 => bootStep s fails
      | 5 =>
        let s := match journalGet s.ctl.journal recRETIRE 0 with
          | some b =>
            if fails < 3 then reloadRetire s b else recordLost s
          | none => s
        { s.set PWR_STATUS.RELEASE 6 with pwr := { s.pwr with fabric := true } }
      | 6 => s.set PWR_STATUS.RELEASE 7
      | 7 => lastStep s fails
      | _ => s)

/-! Temperatures and alerts (R504, R505). -/

/-- THERMAL_TRIP: readings of the hottest die sensor and the hottest stack. -/
def execThermalTrip (die stack : BitVec 8) (s : State) : Host.Outcome State Fault Refusal :=
  .next (
    let t := max die.toNat stack.toNat
    if !s.pwr.on ∨ s.get PWR_STATUS.RELEASE = 1 then s
    else
      let s :=
        if t ≥ 105 ∧ s.get PWR_STATUS.THERM = 0 then
          ((s.set PWR_STATUS.THERM 1).count PWR_THERM_CNT 1).log { region := regionPWR, event := 5, level := 3, action := 0 }
        else if t < 100 then s.set PWR_STATUS.THERM 0 else s
      if t ≥ 115 then s.set PWR_STATUS.HOT 1
      else if t < 105 ∧ s.flag PWR_STATUS.HOT then endSupplyHold (s.set PWR_STATUS.HOT 0)
      else s)

/-- ALERT_JUDGEMENT: the telemetry of a millisecond: means of the input voltage (mV), current (mA) and power (W), the hottest die and stack
readings and the power stage's, and the energy taken in since the last (mJ). -/
def execAlertJudgement (vin iin pin : BitVec 16) (die stack stageT : BitVec 8) (mj : BitVec 16) (s : State) :
    Host.Outcome State Fault Refusal :=
  .next (if !s.pwr.on then s
    else
      let s := ((s.set PWR_TELEM.VIN vin.toNat).set PWR_TELEM.IIN iin.toNat).set PWR_TELEM.PIN pin.toNat
      let s := ((s.set PWR_TEMP.DIE die.toNat).set PWR_TEMP.STACK stack.toNat).set PWR_TEMP.STAGE_T stageT.toNat
      let s := s.set PWR_ENERGY.MJ (s.get PWR_ENERGY.MJ + mj.toNat)
      let s := if vin.toNat < s.get PWR_ALERT_CFG.VIN_LOW then s.set PWR_ALERT_FLAGS.VIN_LOW 1 else s
      let s := if pin.toNat > s.get PWR_ALERT_CFG.PIN_HIGH then s.set PWR_ALERT_FLAGS.PIN_HIGH 1 else s
      if max die.toNat stack.toNat ≥ s.get PWR_ALERT_CFG.TEMP_HIGH then s.set PWR_ALERT_FLAGS.TEMP_HIGH 1 else s)

end Sys2Proof.Machine
end

