-- ==== Sys2Proof/Machine/HostPort.lean ====
section
/-!
DEFINITION. Machine/HostPort.lean: the PCI Express function: its resets and link, partial-result windows, the status word and its mirror, and
the MSI-X message (18 R512 to R527).
-/

namespace Sys2Proof.Machine

open Reg

/-! The status word (R521 to R524). -/

/-- An image is in force and no step can start (Table 18.3, WAITING). -/
def waiting (s : State) : Bool :=
  s.get LNK_EPOCH.EPOCH == 0 || s.get LNK_STATUS.CENSUS_OK == 0 || s.get CAD_STATUS.SYNCED == 0
    || (s.step.based && decide (s.tick < s.step.baseTick))

/-- STATE. -/
def hostState (s : State) : Nat :=
  if s.get CTL_STATUS.BOOT = 0 then 0
  else if s.get CTL_STATUS.BOOT = 2 then 1
  else if s.ctl.installing.isSome || s.ctl.switching then 2
  else if s.flag FLT_STATUS.WITHDRAWN then 3
  else if s.flag FLT_STATUS.ADOPTING then 4
  else if supplyHolds s then 5
  else if s.image.isNone then 6
  else if s.step.running then 8
  else if waiting s then 7
  else 9

/-- Bytes of the adoption list's tags, and those of them that have been fetched. -/
def fetchTotal (s : State) : Nat := ((wordsOf 4 (imgSection s 12)).map (fun e => (tagEntry s (bits e 0 12)).bytes)).sum

def fetchDone (s : State) : Nat :=
  if s.lnk.adoptTry = 0 then 0
  else
    let open_ := s.xfers.filterMap (fun x => x.fetch.map (fun t => (tagEntry s t).bytes - x.got.sum))
    fetchTotal s - open_.sum - s.lnk.unfetched

/-- The bytes that a scrub writes zero (Table 7.5): the scratchpad, the accumulator and merge buffers, and the data arrays of the cache.
[DEDUCED, log entry 157] -/
def scrubBytes : Nat := scratchBytes + accBytes + mergeBytes + 0x4000000

/-- The bytes of the ZERO tags of the image whose tables are installed. [DEDUCED, log entry 157] -/
def zeroBytes (s : State) : Nat :=
  ((List.range (tagCount s)).map (fun t => if (tagEntry s t).valid && (tagEntry s t).zero then (tagEntry s t).bytes else 0)).sum

/-- PROGRESS of an installation: the bytes of its scrub, once that has ended, of those of the scrub and the fills. [DEDUCED, log entry 157] -/
def installProgress (s : State) (x : Installation) : Nat :=
  if x.scrubs && x.filling then 255 * scrubBytes / (scrubBytes + zeroBytes s) else 0

/-- PROGRESS. -/
def progress (s : State) : Nat :=
  match hostState s with
  | 2 => (s.ctl.installing.map (installProgress s)).getD 0
  | 4 => 255 * fetchDone s / max 1 (fetchTotal s)
  | 8 => min 255 (256 * (s.tick - s.step.sched) / stepPeriod s)
  | _ => 0

/-- HST_STATUS. -/
def hostWord (s : State) : Nat :=
  hostState s + progress s * 2 ^ 4 + attnBits s * 2 ^ 12 + s.get HST_STATUS.STEPV * 2 ^ 24 + s.get HST_STATUS.STEP * 2 ^ 25

/-! The requester (R513, R525, R527). -/

def setHost (s : State) (h : HostState) : State := { s with host := h }

/-- The function may send requests. -/
def mayRequest (s : State) : Bool := s.flag HST_LINK.BME && s.get HST_LINK.D3HOT == 0 && s.get HST_LINK.RATE != 0

/-- The message that is due is sent, unless the vector is masked, when it becomes pending, or the holdoff runs. -/
def sendMessage (s : State) : State :=
  let h := s.host
  if !h.msgDue then s
  else if h.masked then setHost s { h with msgDue := false, msgPending := true }
  else if h.holdoff || !mayRequest s then s
  else
    (setHost s { h with msgDue := false, holdoff := true, sent := h.sent ++ [.message h.msgAddr h.msgData] }).count HST_MSG_CNT 1

/-- A rise of the summary requests one message. -/
def riseSummary (s : State) : State :=
  if summary s && !s.host.summary then setHost s { s.host with summary := true, msgDue := true } else s

/-- The mirror is written. -/
def sendMirror (s : State) : State :=
  if !s.flag HST_MIRROR.ENABLE || !mayRequest s then s
  else
    let w := hostWord s
    (setHost s { s.host with mirrored := some w, sent := s.host.sent ++ [.mirror (s.get HST_MIRROR.ADDR * 8) w] }).count HST_MIRROR_CNT 1

/-- A command begins: nothing has been sent by it. -/
def sendNothing (s : State) : State := setHost s { s.host with sent := [] }

/-- MIRROR_WRITE. -/
def execMirrorWrite (s : State) : Host.Outcome State Fault Refusal := .next (sendMirror (sendNothing s))

/-- MSIX_MESSAGE: the summary is judged, and a message that is due goes out. -/
def execMsixMessage (s : State) : Host.Outcome State Fault Refusal := .next (sendMessage (riseSummary (sendNothing s)))

/-- The vector is unmasked: a pending message is sent when the summary is still 1. -/
def unmask (s : State) : State :=
  let h := s.host
  sendMessage (setHost s { h with masked := false, msgPending := false, msgDue := h.msgDue || (h.msgPending && summary s) })

/-- VECTOR_UNMASK. -/
def execVectorUnmask (s : State) : Host.Outcome State Fault Refusal := .next (unmask (sendNothing s))

/-- HOLDOFF_EXPIRE: HST_CFG.HOLDOFF has passed since the last message. -/
def execHoldoffExpire (s : State) : Host.Outcome State Fault Refusal :=
  .next (
    let s := sendNothing s
    sendMessage (setHost s { s.host with holdoff := false, msgDue := s.host.msgDue && summary s }))

/-- An address as a base address register of a size holds it. -/
def barAddr (size v : Nat) : Nat := v / size * size

/-- BUS_MASTER_ENABLE: the configuration and the power state of the function as the host sets them; what was kept goes out. -/
def execBusMasterEnable (c : FnConfig) (d3hot : Bool) (s : State) : Host.Outcome State Fault Refusal :=
  .next (
    let s := setHost s { s.host with bar0 := barAddr (2 ^ 24) c.bar0.toNat, bar2 := barAddr (2 ^ 28) c.bar2.toNat, msix := c.msix }
    let s := sendMessage (sendNothing ((s.setFlag HST_LINK.BME c.bme).setFlag HST_LINK.D3HOT d3hot))
    if s.host.mirrored = some (hostWord s) then s else sendMirror s)

/-! Configuration space (Table 18.1). -/

/-- The capabilities that the function exposes. -/
inductive PciCap where
  | pciExpress | powerManagement | msix | advancedErrors | serialNumber | dataLinkFeature | physical16 | physical32 | physical64 | laneMargining
  deriving DecidableEq, Repr

/-- What configuration space shows. -/
inductive PciField where
  | classCode | revision | headerType | interruptPin
  | bar (n : Fin 6)
  | maxPayload | maxReadRequest | msixVectors | serial
  | busMaster | msixEnable | d3hot | correctable
  deriving DecidableEq, Repr

def pciCaps : List PciCap :=
  [.pciExpress, .powerManagement, .msix, .advancedErrors, .serialNumber, .dataLinkFeature, .physical16, .physical32, .physical64, .laneMargining]

/-- A base address register, its type in the low bits: BAR0/1 is 64-bit memory, BAR2/3 64-bit prefetchable memory, and there is no other.
[PRESUMED, log entry 161] -/
def pciBar (s : State) (n : Nat) : Nat :=
  match n with
  | 0 => bits s.host.bar0 0 32 + 4
  | 1 => bits s.host.bar0 32 32
  | 2 => bits s.host.bar2 0 32 + 12
  | 3 => bits s.host.bar2 32 32
  | _ => 0

/-- The value of a field of configuration space. -/
def pciConfig (s : State) : PciField → Nat
  | .classCode => 0x120000
  | .revision => 0xB0
  | .headerType | .interruptPin => 0
  | .bar n => pciBar s n
  | .maxPayload => 256
  | .maxReadRequest => 4096
  | .msixVectors => 1
  | .serial => Config.serial.toNat
  | .busMaster => s.get HST_LINK.BME
  | .msixEnable => b2n s.host.msix
  | .d3hot => s.get HST_LINK.D3HOT
  | .correctable => b2n s.host.corrected

/-- What the link may train at (Table 18.1, Table 18.11): ×1, ×2 or ×4, at 2.5 to 64 GT/s, the last in FLIT mode alone. -/
def linkMode (rate width : Nat) (flit : Bool) : Bool :=
  decide (1 ≤ rate) && decide (rate ≤ 6) && [1, 2, 4].contains width && (flit || rate != 6)

/-! The link and the function's resets (R514 to R516). -/

/-- The link is down. [DEDUCED, log entry 129] -/
def clearLink (s : State) : State := ((s.set HST_LINK.RATE 0).set HST_LINK.WIDTH 0).set HST_LINK.FLIT 0

/-- BAR0_BAD_ACCESS: a BAR0 request of an unsupported form: a read is completed with Completer Abort, a write discarded. Which of the two it is, the
command does not say. [DESIGN CHOICE, log entry 162] -/
def execBar0BadAccess (s : State) : Host.Outcome State Fault Refusal :=
  .next (
    let (n, s) := s.fresh
    let s := setHost s { s.host with aborted := Config.badRead n }
    (s.count HST_BAR_ERR_CNT 1).log { region := regionHST, event := 1, level := 1, action := 2 })

/-- The configuration of the function is cleared. -/
def clearFunction (s : State) : State :=
  let s := clearRegs (((s.set HST_MIRROR.ENABLE 0).set HST_MIRROR.ADDR 0).set HST_ATTN_EN.EN 0) 0xD01008 0xD01200
  let s := (s.set HST_LINK.BME 0).set HST_LINK.D3HOT 0
  let s := { s with once := s.once.filter (fun p => decide (p.1 < windowCtx 0)) }
  noteFall (setHost s { s.host with
    msgAddr := 0, msgData := 0, masked := true, msgPending := false, msgDue := false, bar0 := 0, bar2 := 0, msix := false, corrected := false })

/-- FUNCTION_RESET: PERST_L goes low, which is acted on from release step 4 on (Table 17.8), a hot reset, or a Function Level Reset. -/
def execFunctionReset (kind : FnReset) (s : State) : Host.Outcome State Fault Refusal :=
  .next (match kind with
    | .perst =>
      let t := s.set HST_LINK.PERST 1
      if configured s then clearLink ((clearFunction t).count HST_PERST_CNT 1) else t
    | .hot => clearLink ((clearFunction s).count HST_PERST_CNT 1)
    | .flr => (clearFunction s).count HST_PERST_CNT 1)

/-- PCIE_LINK_UP: PERST_L is high and the link trains, at a rate, width and mode of Table 18.11. -/
def execPcieLinkUp (rate width : BitVec 3) (flit : Bool) (s : State) : Host.Outcome State Fault Refusal :=
  .next (
    let s := s.set HST_LINK.PERST 0
    if configured s && linkMode rate.toNat width.toNat flit then
      sendMessage (sendNothing (((s.set HST_LINK.RATE rate.toNat).set HST_LINK.WIDTH width.toNat).setFlag HST_LINK.FLIT flit))
    else s)

/-- PCIE_LINK_DOWN: the link goes down without a reset. [DEDUCED, log entry 129] -/
def execPcieLinkDown (s : State) : Host.Outcome State Fault Refusal :=
  .next (if s.get HST_LINK.RATE = 0 then s
    else
      let s := setHost (clearLink s) { s.host with msgDue := false, msgPending := false, mirrored := some (hostWord s) }
      (s.count HST_LINKDOWN_CNT 1).log { region := regionHST, event := 5, level := 1, action := 2 })

/-! Partial-result windows (R518 to R520). -/

/-- A window access that is refused: counted, and logged when it is the first since a write of the window's register. -/
def refuseAccess (s : State) (n : Nat) : State :=
  let s := s.count HST_WIN_ERR_CNT 1
  if s.host.winArmed.contains n then
    (setHost s { s.host with winArmed := s.host.winArmed.filter (· != n) }).log { region := regionHST, event := 2, level := 1, action := 2 }
  else s

/-- The byte of its tag at which an access through a window begins. -/
def windowByte (s : State) (n : Nat) (off : Nat) : Int := Int.ofNat (s.get (HST_WIN.BASE n) * 4096 + off)

/-- The window is open, and an image is in force. -/
def windowOpen (s : State) (n : Nat) : Bool := s.flag (HST_WIN.VALID n) && s.image.isSome

/-- The bytes that a read returned. -/
def setAnswer (s : State) (bs : List Byte) : State := setHost s { s.host with reply := bs }

/-- A read over PCI Express is completed; one that is carried out after the link has gone down is not (R516). -/
def completeRead (s : State) (bs : List Byte) : State :=
  if s.get HST_LINK.RATE = 0 then s else setHost s { s.host with reply := bs, aborted := false }

/-- An access meets an error of the link that is replayed (Table 18.6, row 4). -/
def meetLink (s : State) : State :=
  match meet s (fun | .hostLink => some () | _ => none) with
  | (some _, s) => setHost s { s.host with corrected := true }
  | (none, s) => s

/-- WINDOW_READ: a host read of `len` bytes at an offset of a BAR2 window; the image window reads zero. [DESIGN CHOICE, log entry 13] -/
def execWindowRead (n : Fin 64) (off : BitVec 22) (len : BitVec 13) (s : State) : Host.Outcome State Fault Refusal :=
  .next (
    let zeros := List.replicate len.toNat 0
    let s := meetLink (s.inOp (windowCtx n))
    if n.val = 0 then completeRead s zeros
    else if !windowOpen s n then completeRead (refuseAccess s n) zeros
    else
      let r := tagRead s (streamChan s (s.get (HST_WIN.TAG n))) (windowByte s n off.toNat) len.toNat
      completeRead r.2 r.1)

/-- WINDOW_WRITE: a host write at an offset of a partial-result window. -/
def execWindowWrite (n : Fin 64) (off : BitVec 22) (data : List Byte) (s : State) : Host.Outcome State Fault Refusal :=
  .next (
    let s := meetLink (s.inOp (windowCtx n))
    if n.val = 0 then s
    else if !windowOpen s n || s.get (HST_WIN.WR n) = 0 then refuseAccess s n
    else tagWrite s (streamChan s (s.get (HST_WIN.TAG n))) (windowByte s n off.toNat) data)

/-- A write of HST_WIN*n*. -/
def configWindow (n : Nat) (v : Nat) (s : State) : State :=
  if n = 0 ∨ 63 < n then s
  else
    let s := setHost s { s.host with winArmed := n :: s.host.winArmed.filter (· != n) }
    writeFields (s.newOp (windowCtx n)) (0xD01000 + 8 * n) v

/-- WINDOW_CONFIG. -/
def execWindowConfig (n : Fin 64) (v : BitVec 64) (s : State) : Host.Outcome State Fault Refusal := .next (configWindow n.val v.toNat s)

end Sys2Proof.Machine
end

