-- ==== Sys2Proof/Machine/I3c.lean ====
section
/-!
DEFINITION. Machine/I3c.lean: the I3C target: management commands, common command codes, and in-band interrupts (18 R529 to R531).
-/

namespace Sys2Proof.Machine

open Reg

/-- An access that the target does not act on. -/
def i3cError (s : State) : State := setAnswer (s.count HST_I3C_ERR_CNT 1) []

/-- A transfer to the target: nothing before release step 4; a parity error is not acted on. -/
def i3cTransfer (parity : Bool) (act : State → State) (s : State) : State :=
  if !configured s then s else if parity then i3cError s else act s

/-- The target answers at its dynamic address, and at its static one until that is assigned (R529). [DEDUCED, log entry 163] -/
def answersAt (s : State) (addr : Nat) : Bool :=
  if s.flag HST_I3C.DVALID then addr == s.get HST_I3C.DADDR else addr == s.get HST_I3C.SADDR

/-- A management access: one to another address is not for this target; an unknown command is not acted on, and its read returns no bytes (R530).
[DEDUCED, log entry 163] -/
def mgmt (x : MgmtAccess) (act : State → State) (s : State) : State :=
  if !answersAt s x.addr.toNat then s
  else i3cTransfer x.parity (fun s => if x.unknown then i3cError s else act s) s

/-- The bytes of a reply, as far as the maximum read length lets them be read. -/
def i3cReply (bs : List Byte) (s : State) : State := setAnswer s (bs.take s.host.mrl)

/-- A command that reads and accepts no data. -/
def readOnly (x : MgmtAccess) (data : List Byte) (bs : State → List Byte) (s : State) : State :=
  mgmt x (fun s => if data = [] then i3cReply (bs s) s else i3cError s) s

/-- A command that reads a register of W1C flags, or with eight bytes clears them. -/
def readClear (x : MgmtAccess) (data : List Byte) (off : Nat) (s : State) : State :=
  mgmt x (fun s =>
    if data = [] then i3cReply (toBytes 8 (regValue s off)) s
    else if data.length = 8 then noteFall (setAnswer (writeFields s off (ofBytes data)) [])
    else i3cError s) s

/-! Management commands (Table 18.5). -/

/-- IDENT. -/
def execIdent (x : MgmtAccess) (data : List Byte) (s : State) : Host.Outcome State Fault Refusal :=
  .next (readOnly x data (fun s =>
    toBytes 8 Config.serial.toNat ++ toBytes 4 (s.get CTL_FW_STATUS.VERSION) ++ toBytes 1 (s.get CTL_FW_STATUS.SVN) ++ toBytes 3 0) s)

/-- STATUS. -/
def execStatus (x : MgmtAccess) (data : List Byte) (s : State) : Host.Outcome State Fault Refusal :=
  .next (readOnly x data (fun s => toBytes 8 (hostWord s)) s)

/-- TELEM. -/
def execTelem (x : MgmtAccess) (data : List Byte) (s : State) : Host.Outcome State Fault Refusal :=
  .next (readOnly x data (fun s => toBytes 8 (regValue s 0xC00008)) s)

/-- TEMP. -/
def execTemp (x : MgmtAccess) (data : List Byte) (s : State) : Host.Outcome State Fault Refusal :=
  .next (readOnly x data (fun s => toBytes 8 (regValue s 0xC00018)) s)

/-- ENERGY. -/
def execEnergy (x : MgmtAccess) (data : List Byte) (s : State) : Host.Outcome State Fault Refusal :=
  .next (readOnly x data (fun s => toBytes 8 (regValue s 0xC00010)) s)

/-- ALERT. -/
def execAlert (x : MgmtAccess) (data : List Byte) (s : State) : Host.Outcome State Fault Refusal :=
  .next (readClear x data 0xC00040 s)

/-- CAUSE. -/
def execCause (x : MgmtAccess) (data : List Byte) (s : State) : Host.Outcome State Fault Refusal :=
  .next (readClear x data 0xC00028 s)

/-- STAGES. -/
def execStages (x : MgmtAccess) (data : List Byte) (s : State) : Host.Outcome State Fault Refusal :=
  .next (readOnly x data (fun s => toBytes 8 (regValue s 0xC00090)) s)

/-- POSITION. -/
def execPosition (x : MgmtAccess) (data : List Byte) (s : State) : Host.Outcome State Fault Refusal :=
  .next (readOnly x data (fun s => toBytes 8 (regValue s 0x500008)) s)

/-- RESET: with the byte 0xA5, a chip-level software reset. -/
def execReset (x : MgmtAccess) (data : List Byte) (s : State) : Host.Outcome State Fault Refusal :=
  .next (mgmt x (fun s =>
    if data = [] then i3cReply [] s
    else if data.length ≠ 1 then i3cError s
    else if data = [0xA5] then chipReset s 6
    else setAnswer s []) s)

/-! Common command codes (R529). -/

/-- A dynamic address is assigned. -/
def setDynamic (s : State) (addr : Nat) : State := (s.set HST_I3C.DADDR addr).set HST_I3C.DVALID 1

/-- The provisioned ID, most significant byte first. [DESIGN CHOICE, log entry 131] -/
def provisioned : List Byte := (toBytes 6 (Config.provisionedId Config.serial).toNat).reverse

/-- The bus characteristics register: in-band interrupts with a payload, and no controller role. [PRESUMED, log entry 130] -/
def bcr : Byte := 0x06

/-- SETDASA: the module at a static address takes a dynamic one. -/
def execSetdasa (parity : Bool) (static dyn : BitVec 7) (s : State) : Host.Outcome State Fault Refusal :=
  .next (i3cTransfer parity (fun s =>
    if static.toNat = s.get HST_I3C.SADDR ∧ s.get HST_I3C.DVALID = 0 then setDynamic s dyn.toNat else s) s)

/-- ENTDAA: the target sends its provisioned ID and characteristics; when its arbitration is won it takes the address assigned. -/
def execEntdaa (parity : Bool) (won : Bool) (dyn : BitVec 7) (s : State) : Host.Outcome State Fault Refusal :=
  .next (i3cTransfer parity (fun s =>
    if s.flag HST_I3C.DVALID then s
    else
      let s := setAnswer s (provisioned ++ [bcr, Config.i3cDcr])
      if won then setDynamic s dyn.toNat else s) s)

/-- RSTDAA. -/
def execRstdaa (parity : Bool) (s : State) : Host.Outcome State Fault Refusal :=
  .next (i3cTransfer parity (fun s => (s.set HST_I3C.DADDR 0).set HST_I3C.DVALID 0) s)

/-- ENEC: bit 0 of the events enables in-band interrupts. [PRESUMED, log entry 130] -/
def execEnec (parity : Bool) (events : BitVec 8) (s : State) : Host.Outcome State Fault Refusal :=
  .next (i3cTransfer parity (fun s => if bit events.toNat 0 then s.set HST_I3C.IBI_EN 1 else s) s)

/-- DISEC: bit 0 of the events disables in-band interrupts. [PRESUMED, log entry 130] -/
def execDisec (parity : Bool) (events : BitVec 8) (s : State) : Host.Outcome State Fault Refusal :=
  .next (i3cTransfer parity (fun s => if bit events.toNat 0 then s.set HST_I3C.IBI_EN 0 else s) s)

/-- GETPID. -/
def execGetpid (parity : Bool) (s : State) : Host.Outcome State Fault Refusal :=
  .next (i3cTransfer parity (fun s => setAnswer s provisioned) s)

/-- GETBCR. -/
def execGetbcr (parity : Bool) (s : State) : Host.Outcome State Fault Refusal :=
  .next (i3cTransfer parity (fun s => setAnswer s [bcr]) s)

/-- GETDCR. [DESIGN CHOICE, log entry 131] -/
def execGetdcr (parity : Bool) (s : State) : Host.Outcome State Fault Refusal :=
  .next (i3cTransfer parity (fun s => setAnswer s [Config.i3cDcr]) s)

/-- GETSTATUS. [DESIGN CHOICE, log entry 131] -/
def execGetstatus (parity : Bool) (s : State) : Host.Outcome State Fault Refusal :=
  .next (i3cTransfer parity (fun s =>
    let (n, s) := s.fresh
    setAnswer s (toBytes 2 (Config.i3cStatus n).toNat).reverse) s)

/-- SETMWL. -/
def execSetmwl (parity : Bool) (limit : BitVec 16) (s : State) : Host.Outcome State Fault Refusal :=
  .next (i3cTransfer parity (fun s => setHost s { s.host with mwl := limit.toNat }) s)

/-- GETMWL. [PRESUMED, log entry 130] -/
def execGetmwl (parity : Bool) (s : State) : Host.Outcome State Fault Refusal :=
  .next (i3cTransfer parity (fun s => setAnswer s (toBytes 2 s.host.mwl).reverse) s)

/-- SETMRL. -/
def execSetmrl (parity : Bool) (limit : BitVec 16) (s : State) : Host.Outcome State Fault Refusal :=
  .next (i3cTransfer parity (fun s => setHost s { s.host with mrl := limit.toNat }) s)

/-- GETMRL: the limit, and the one byte of an in-band interrupt's payload. [PRESUMED, log entry 130] -/
def execGetmrl (parity : Bool) (s : State) : Host.Outcome State Fault Refusal :=
  .next (i3cTransfer parity (fun s => setAnswer s ((toBytes 2 s.host.mrl).reverse ++ [1])) s)

/-! In-band interrupts (R531). -/

/-- The target may request an in-band interrupt. -/
def mayInterrupt (s : State) : Bool := configured s && s.flag HST_I3C.IBI_EN && s.flag HST_I3C.DVALID

/-- A request with the alert flags as payload, that the controller accepts or declines; `left` tries remain after it. -/
def requestIbi (s : State) (accepted : Bool) (left : Nat) : State :=
  if accepted then setAnswer (setHost s { s.host with ibi := none }) (toBytes 1 (regValue s 0xC00040))
  else setHost s { s.host with ibi := if left = 0 then none else some left }

/-- IN_BAND_INTERRUPT: the ALERT_L condition has risen. -/
def execInBandInterrupt (accepted : Bool) (s : State) : Host.Outcome State Fault Refusal :=
  .next (if !alertCond s || s.host.alert then s
    else
      let s := setHost s { s.host with alert := true }
      if mayInterrupt s then requestIbi s accepted 3 else s)

/-- IBI_RETRY: 1 ms after the controller declined. -/
def execIbiRetry (accepted : Bool) (s : State) : Host.Outcome State Fault Refusal :=
  .next (match s.host.ibi with
    | none => s
    | some left => if mayInterrupt s then requestIbi s accepted (left - 1) else setHost s { s.host with ibi := none })

end Sys2Proof.Machine
end

