-- ==== Sys2Proof/Machine/RegAccess.lean ====
section
/-!
DEFINITION. Machine/RegAccess.lean: reads and writes of the control space (00 R8 to R16). A register shows the fields that it stores and, where
a field tells of an engine's own state, that state; a write acts as each of its fields says.
-/

namespace Sys2Proof.Machine

open Reg

/-! What registers show. -/

/-- A register's value with a field showing something else. -/
def shows (v : Nat) (f : Field) (x : Nat) : Nat := setBits v f.lsb f.width x

/-- A mask of the numbers below 16 that satisfy `p`. -/
def maskOf (p : Nat → Bool) : Nat := (List.range 16).foldl (fun m n => m + b2n (p n) * 2 ^ n) 0

/-- The percentage of the journal that is filled, its log snapshots and the flash work that waits (Table 16.17). [DEDUCED, log entry 28] -/
def shownFlash (s : State) (v : Nat) : Nat :=
  let used := min 100 (shownQuot (pagesOf s.ctl.journal * 100) s.ctl.journalPages)
  let logs := ((List.range 16).filter (fun k => (journalGet s.ctl.journal recLOG k).isSome)).length
  let waits := s.flt.fwq.filter FwEvent.flash
  shows (shows (shows (shows (shows v CTL_FLASH_STATUS.USED used) CTL_FLASH_STATUS.LOGS logs) CTL_FLASH_STATUS.DEF_VALID
    (b2n (defaultSlot s).isSome)) CTL_FLASH_STATUS.DEFAULT ((defaultSlot s).getD 0)) CTL_FLASH_STATUS.QUEUED (min 255 waits.length)

/-- The slots of the selected tag, 32 from slot `from_` on (Table 7.11). -/
def shownSlots (s : State) (from_ : Nat) : Nat :=
  let t := s.get TAG_SLOT_SEL.TAG
  (List.range 32).foldl (fun v n =>
    if from_ + n < (tagEntry s t).slots then v + (slotAt s t (from_ + n)).st.code * 4 ^ n else v) 0

/-- LNK_STATUS (Table 10.13). -/
def shownLink (s : State) (v : Nat) : Nat :=
  let v := shows (shows v LNK_STATUS.UP (maskOf (fun n => s.get (LNK_P_STATUS.STATE n) == 2))) LNK_STATUS.NARROW
    (maskOf (fun n => s.get (LNK_P_STATUS.NARROW n) == 1))
  let v := shows (shows v LNK_STATUS.SYS_RM (b2n (isSysRm s))) LNK_STATUS.BELLWETHER (b2n (isBellwether s))
  let v := shows v LNK_STATUS.HOLDING (b2n ((List.range 16).any (fun n => s.get (LNK_P_STATUS.HELD n) == 1)))
  match s.lnk.topo with
  | none => v
  | some t =>
    let rm := fun g => decide (g < 4) && t.redMask g != 0 && ownPos s != 0xFFFF && t.ringmaster (t.redMask g) (ownPos s) == some (ownPos s)
    shows (shows v LNK_STATUS.MODE t.mode) LNK_STATUS.GROUP_RM (maskOf rm)

/-- ING_STATUS (Table 13.9). -/
def shownIngest (s : State) : Nat :=
  let held := readsHeld s
  let far := s.ing.samples.foldl (fun m x => max m x.dstep) (if s.ing.samples.isEmpty then 0 else s.step.count)
  b2n (ingestOn s && !held) + s.get ING_CFG.PAUSE * 2 + b2n (decide (2 ≤ s.get PWR_STATUS.STAGE)) * 4 + pipesBusy s % 64 * 8
    + readsOut s % 2 ^ 13 * 2 ^ 16 + far % 2 ^ 32 * 2 ^ 32

/-- CAD_STATUS (Table 14.9). -/
def shownCad (s : State) (v : Nat) : Nat :=
  shows (shows (shows (shows (shows v CAD_STATUS.RATE_VALID (s.get CAD_TICK_RATE.VALID)) CAD_STATUS.MODE (timingMode s)) CAD_STATUS.E_WARM
    (b2n (s.get CAD_PRED.E_SAMPLES == 64))) CAD_STATUS.T_WARM (b2n (s.get CAD_PRED.T_SAMPLES == 64))) CAD_STATUS.HOLDING
    (b2n (!s.cad.held.isEmpty))

/-- The energy bucket in microjoules. [DESIGN CHOICE, log entry 26] -/
def shownBucket (s : State) : Nat :=
  let b := s.cad.bucket
  let up := if b % 1000000000 = 0 then 0 else b2n (Config.roundUp b.natAbs)
  unsigned 64 (b / 1000000000 + Int.ofNat up)

/-- SEQ_STATE of a sequencer (Table 9.14). -/
def shownSeq (s : State) (q : Fin 4) : Nat :=
  let x := s.seqs.get q
  x.pc % 2 ^ 12 + x.code % 4 * 2 ^ 12 + b2n x.f * 2 ^ 14 + x.calls.length % 16 * 2 ^ 15 + x.hooks.length % 32 * 2 ^ 19 + x.issued % 2 ^ 32 * 2 ^ 32

/-- DNS_STATUS (Table 3.9); an engine that waits for slots is frozen (R87). [DESIGN CHOICE, log entry 27] -/
def shownDense (s : State) : Nat :=
  let is := fun n => [0, 1, 2, 3].any (fun p => s.get (panelField p) == n)
  b2n s.dense.op.isSome + b2n (is 2) * 2 + b2n (is 1) * 4 + (inService s).length * 8
    + b2n (s.dense.op.any DenseOp.frozen || s.dense.op.isSome && Config.frozen s.free) * 64

/-- The merge that runs is past its first sweep (R131). -/
def sweeping (s : State) : Bool :=
  s.drv.run.any (fun op =>
    let parts := mergeParts (opDesc s op.d) ((opDesc s op.d).idxDim.getD 0)
    op.func == 0x42 && (parts[min op.part (parts.length - 1)]?).any (fun x => decide (1 ≤ x.1)))

/-- The value that a read of the register at a control-space offset returns. [DEDUCED, log entry 28; DESIGN CHOICE, log entry 25] -/
def shown (s : State) (off : Nat) : Nat :=
  let v := regValue s off
  if 0x2000 ≤ off ∧ off < 0x2800 then ofBytes ((Config.certificate.drop (off - 0x2000)).take 8)
  else match off with
    | 0x000028 => shownFlash s v
    | 0x000030 => (List.range 64).foldl (fun m n => m + b2n (slotImage s n).isSome * 2 ^ n) 0
    | 0x000040 => ((slotImage s (s.get CTL_SLOT_SEL.SLOT)).map ImageFile.short).getD 0
    | 0x0000A0 => Config.certificate.length % 2 ^ 12
    | 0x100000 => shownDense s
    | 0x200000 => shows (shows v DRV_STATUS.BUSY (b2n s.drv.run.isSome)) DRV_STATUS.SWEEPING (b2n (sweeping s))
    | 0x200108 => shows (shows v DRV_ROUTE_STATUS.ROUTING (b2n (s.drv.run.any (fun op => op.func == 0x46)))) DRV_ROUTE_STATUS.DEMAND_POSTED (b2n (demandPosted s))
    | 0x300018 => shownSlots s 0
    | 0x300020 => shownSlots s 32
    | 0x400000 =>
      shows (shows (shows (shows v MEM_STATUS.FLUSHING (b2n (s.memory.flushing != []))) MEM_STATUS.RETIRING
        (b2n (!s.flt.repairing.isEmpty))) MEM_STATUS.RETIRE_FULL (b2n (retireFull s)))
        MEM_STATUS.PF_HALVED (b2n (decide (1 ≤ s.get PWR_STATUS.STAGE)))
    | 0x500000 => shownLink s v
    | 0x600000 => shows v RED_STATUS.ACTIVE s.reduces.length
    | 0x600010 =>
      let n := fun h => (s.red.carry.filter (fun e => e.half == h)).length
      shows (shows v RED_CARRY_STATUS.USED0 (n 0)) RED_CARRY_STATUS.USED1 (n 1)
    | 0x600020 => unsigned 32 (s.lnk.adj.getD 0 0) + unsigned 32 (s.lnk.adj.getD 1 0) * 2 ^ 32
    | 0x600028 => unsigned 32 (s.lnk.adj.getD 2 0) + unsigned 32 (s.lnk.adj.getD 3 0) * 2 ^ 32
    | 0x700000 => shownIngest s
    | 0x800000 => shownCad s v
    | 0x800040 => shownBucket s
    | 0x900010 => shownSeq s 0
    | 0x900018 => shownSeq s 1
    | 0x900020 => shownSeq s 2
    | 0x900028 => shownSeq s 3
    | 0x908048 => shows v SEQ_DESC_RESULT.BUSY (b2n s.commitNow.isSome)
    | 0xA00000 => shows (shows v FLT_STATUS.STANDDOWN (b2n s.lnk.standing)) FLT_STATUS.QUEUED (min 256 s.flt.fwq.length)
    | 0xB00000 => shows v OBS_STATUS.SHED (b2n (s.flag OBS_CTL.RUN && decide (1 ≤ s.get PWR_STATUS.STAGE)))
    | 0xD00000 => hostWord s
    | 0xD00008 => attnBits s
    | 0xD0F000 => s.host.msgAddr
    | 0xD0F008 => s.host.msgData % 2 ^ 32 + b2n s.host.masked * 2 ^ 32
    | 0xD0F800 => b2n s.host.msgPending
    | _ => v

/-! Reads. -/

/-- The bytes of a register that an access covers. -/
def spanBytes (p : Span) (v : Nat) : List Byte :=
  match p with
  | .whole => toBytes 8 v
  | .low => toBytes 4 v
  | .high => toBytes 4 (v / 2 ^ 32)

/-- Counters of a register return to zero (R11, R13). -/
def clearCounters (s : State) (off : Nat) : State :=
  (regFields groups off).foldl (fun s f => if f.acc = .rc then s.set f 0 else s) s

/-- RC_READ: a read of a register. One of all eight bytes clears the counters that it returns; one of four bytes clears nothing (R15).
[DESIGN CHOICE, log entry 13] -/
def execRcRead (reg : BitVec 21) (p : Span) (s : State) : Host.Outcome State Fault Refusal :=
  .next (
    let off := reg.toNat * 8
    let bs := spanBytes p (shown s off)
    let s := completeRead (if off = 0x100000 then { s with free := s.free + 1 } else s) bs
    match p with
    | .whole => clearCounters s off
    | _ => s)

/-! Writes. -/

/-- The bits of a register that an access covers. [DEDUCED, log entry 21] -/
def spanMask (p : Span) : Nat :=
  match p with
  | .whole => 2 ^ 64 - 1
  | .low => 2 ^ 32 - 1
  | .high => (2 ^ 32 - 1) * 2 ^ 32

/-- A write of the stored fields of a register, in the bits of a mask only (R11, R15). -/
def writeMasked (s : State) (off v mask : Nat) : State :=
  (regFields groups off).foldl (fun s f =>
    let m := bits mask f.lsb f.width
    let x := bits v f.lsb f.width &&& m
    match f.acc with
    | .rw => s.set f (s.get f &&& ((2 ^ f.width - 1) ^^^ m) ||| x)
    | .w1c => s.set f (s.get f &&& ((2 ^ f.width - 1) ^^^ x))
    | _ => s) s

/-- The state that a command's effect leaves. -/
def after (o : Host.Outcome State Fault Refusal) (s : State) : State :=
  match o with
  | .next t => t
  | _ => s

/-- A write of LNK_PORT_CTL: what it asks of each port (R285). [DESIGN CHOICE, log entry 22] -/
def writePortCtl (s : State) (v : Nat) : State :=
  let s := (List.finRange 16).foldl (fun s n => if bit v n.val then askRetrain s n else s) s
  settle ((List.finRange 16).foldl (fun s n => if bit v (32 + n.val) then askFulltrain s n else s) s)

/-- The write-only fields of a register act as stated for them; `v` has zeros where the access does not reach, and a register for which a zero acts
is left alone by an access that does not reach it. [DEDUCED, log entry 21; DESIGN CHOICE, log entry 22] -/
def writeActs (s : State) (off v : Nat) (p : Span) : State :=
  let on := fun i (o : State → Host.Outcome State Fault Refusal) (s : State) => if bit v i then after (o s) s else s
  match off with
  | 0x000008 => if 1 ≤ bits v 0 4 ∧ bits v 0 4 ≤ 9 then askImage (bits v 0 4) (bits v 4 6) s else s.setCtl { s.ctl with winLogged := false }
  | 0x000018 => on 1 execFwSwitch (on 2 execFwStore (on 0 execFwStage (noteFwCtl s)))
  | 0x000048 => on 0 execQuote s
  | 0x100010 => settle (askPanels s (bits v 0 4) (bits v 4 4))
  | 0x100020 => if p = .high then s else armInjection s (bits v 0 2) (bits v 2 2)
  | 0x200110 => if p = .high then s else allocGo s (bits v 0 16)
  | 0x400018 => settle (askCache s (bit v 0) (bit v 1))
  | 0x500028 => writePortCtl s v
  | 0x700020 => on 13 execQpResetAll (if bit v 12 then askQpReset s (bits v 0 12) else s)
  | 0x800010 => writeTickSet s v (spanMask p)
  | 0x800030 => coldEstimate s
  | 0x800050 => on 1 execPredReset (on 0 execSendTc s)
  | 0x908040 => if bit v 12 then descCommit s (bits v 0 12) 1 else s
  | 0xA00018 => on 2 (execLockstepInj (Config.lockedUpLately s.free)) (on 1 execYield (on 0 execSnapshot { s with free := s.free + 1 }))
  | 0xA00020 => on 16 execWdogKick s
  | 0xB00008 => if bit v 0 then after (execRunArm s) s else stopSampler s
  | 0xC00030 =>
    if bit v 9 then after (execChipReset (BitVec.ofNat 8 v) s) s
    else if bit v 8 then after (execEngineReset (BitVec.ofNat 8 v) s) s else s
  | 0xD00018 => if bit v 8 then after (execKill (BitVec.ofNat 8 v) s) s else s
  | _ => s

/-- A write of the MSI-X table entry. -/
def writeVector (s : State) (word v mask : Nat) : State :=
  let old := shown s (0xD0F000 + 8 * word)
  let w := (old &&& ((2 ^ 64 - 1) ^^^ mask)) ||| (v &&& mask)
  if word = 0 then setHost s { s.host with msgAddr := w }
  else
    let s := setHost s { s.host with msgData := bits w 0 32 }
    if s.host.masked ∧ !bit w 32 then unmask s else setHost s { s.host with masked := bit w 32 }

/-- A schedule entry's word 1 is at an offset. -/
def schedAt (off : Nat) : Option Nat :=
  if 0x801000 ≤ off ∧ off < 0x801400 ∧ off % 16 = 8 then some ((off - 0x801000) / 16) else none

/-- A partial-result window's register is at an offset. -/
def winAt (off : Nat) : Option Nat := if 0xD01008 ≤ off ∧ off < 0xD01200 then some ((off - 0xD01000) / 8) else none

/-- A write of the register at a control-space offset. [DEDUCED, log entry 21] -/
def writeReg (s : State) (off v : Nat) (p : Span) : State :=
  let old := regValue s off
  let w := (old &&& ((2 ^ 64 - 1) ^^^ spanMask p)) ||| (v &&& spanMask p)
  match schedAt off, winAt off with
  | some n, _ => if p = .high then s else writeSched s n w
  | _, some n => configWindow n w s
  | none, none =>
    if 0xD0F000 ≤ off ∧ off < 0xD0F010 then writeVector (sendNothing s) ((off - 0xD0F000) / 8) v (spanMask p)
    else if 0x80 ≤ off ∧ off < 0xA0 ∧ s.flag CTL_ATT_STATUS.BUSY then s
    else if 0x908000 ≤ off ∧ off < 0x908040 ∧ s.commitNow.isSome then s
    else if off = 0xB00008 then (if p = .high then s else writeActs s off v p)
    else noteFall (writeActs (writeMasked s off v (spanMask p)) off (v &&& spanMask p) p)

/-- REGISTER_WRITE: a write of the register with a number; `p` says which of its bytes the access covers, and `v` holds them in their places.
[DESIGN CHOICE, log entry 13] -/
def execRegisterWrite (reg : BitVec 21) (p : Span) (v : BitVec 64) (s : State) : Host.Outcome State Fault Refusal :=
  .next (writeReg s (reg.toNat * 8) v.toNat p)

/-- A register has a flag that a write of 1 clears. -/
def hasFlags (off : Nat) : Bool := (regFields groups off).any (fun f => f.acc == .w1c)

/-- W1C_CLEAR: ones written to the flags of a register clear them. [DEDUCED, log entry 23] -/
def execW1cClear (reg : BitVec 21) (ones : BitVec 64) (s : State) : Host.Outcome State Fault Refusal :=
  .next (if hasFlags (reg.toNat * 8) then noteFall (writeMasked s (reg.toNat * 8) ones.toNat (2 ^ 64 - 1)) else s)

/-- ADDRESS_ERROR: an access to a local address outside the map (R8). -/
def execAddressError (addr : BitVec 44) (write : Bool) (s : State) : Host.Outcome State Fault Refusal :=
  .next (if inMap addr.toNat then s
    else
      let s := outsideMap s
      if write then s else completeRead s (List.replicate 8 0))

end Sys2Proof.Machine
end

