-- ==== Sys2Proof/Machine/Slots.lean ====
section
/-!
DEFINITION. Machine/Slots.lean: stalled synchronised accesses that proceed or time out (07 R213 to R217).
-/

namespace Sys2Proof.Machine

open Reg

/-- The weight loader works for the half-issued operation: nothing that it loads for the running one is stalled. -/
def loaderAhead (s : State) : Bool := (s.dense.op.map (fun o => decide (o.acqW.needs = []))).getD true

/-- The accesses of the operation that a staller names; none where it has none. -/
def stallerAcq (s : State) : Staller → Option Acq
  | .loader => if loaderAhead s then s.dense.pre.map (·.acqW) else s.dense.op.map (·.acqW)
  | .feeder => s.dense.op.map (·.acqX)
  | .drain => s.dense.op.map (·.acqY)
  | .drover => s.drv.run.map (·.acq)
  | .transfer id => (xferAt s id).map (·.acq)
  | .neighbour n => (FMap.find s.lnk.nbrs n.toNat).map (·.acq)
  | .reduceRead t => (srcAt s t.toNat).map (·.acq)
  | .reduceWrite t => (redAt s t.toNat).map (·.acqW)

/-- The state with an operation's accesses as they now stand. -/
def putAcq (s : State) (w : Staller) (a : Acq) : State :=
  match w with
  | .loader =>
    if loaderAhead s then setDense s { s.dense with pre := s.dense.pre.map (fun o => { o with acqW := a }) }
    else setDense s { s.dense with op := s.dense.op.map (fun o => { o with acqW := a }) }
  | .feeder => setDense s { s.dense with op := s.dense.op.map (fun o => { o with acqX := a }) }
  | .drain => setDense s { s.dense with op := s.dense.op.map (fun o => { o with acqY := a }) }
  | .drover => { s with drv := { s.drv with run := s.drv.run.map (fun o => { o with acq := a }) } }
  | .transfer id => { s with xfers := s.xfers.map (fun x => if x.id = id then { x with acq := a } else x) }
  | .neighbour n =>
    (match FMap.find s.lnk.nbrs n.toNat with
     | none => s
     | some r => { s with lnk := { s.lnk with nbrs := FMap.put s.lnk.nbrs n.toNat { r with acq := a } } })
  | .reduceRead t =>
    (match srcAt s t.toNat with
     | none => s
     | some o => putRed s { o with acq := a })
  | .reduceWrite t =>
    (match redAt s t.toNat with
     | none => s
     | some o => putRed s { o with acqW := a })

/-- The accesses of one operand after the operation has timed out on a slot, through this operand or through another. -/
def sparedAcq (s : State) (u : SlotUse) (a : Acq) : Acq × State :=
  if a.spared.contains (u.tag, u.slot) then (a, s)
  else
    let b := a.spare u
    advanceGo a.needs.head? b s b.needs

/-- A timeout on a slot holds for every operand of the operation (R217); `ahead` says that the weight loader's was the half-issued one. -/
def spareOthers (s : State) (w : Staller) (ahead : Bool) (u : SlotUse) : State :=
  let dense := fun (s : State) => match s.dense.op with
    | none => s
    | some op =>
      let a := sparedAcq s u op.acqW
      let b := sparedAcq a.2 u op.acqX
      let c := sparedAcq b.2 u op.acqY
      setDense c.2 { c.2.dense with op := some { op with acqW := a.1, acqX := b.1, acqY := c.1 } }
  let red := fun (s : State) (op : ReduceOp) =>
    let a := sparedAcq s u op.acq
    let b := sparedAcq a.2 u op.acqW
    putRed b.2 { op with acq := a.1, acqW := b.1 }
  match w with
  | .feeder | .drain => dense s
  | .loader => if ahead then s else dense s
  | .reduceRead t => ((srcAt s t.toNat).map (red s)).getD s
  | .reduceWrite t => ((redAt s t.toNat).map (red s)).getD s
  | _ => s

/-- The operation goes on once its accesses are admitted. -/
def resumeOp (s : State) : Staller → State
  | .drain => deliverAll s
  | .drover => routeBegin s
  | .transfer id => actXfer s id
  | .reduceWrite t =>
    (match redAt s t.toNat with
     | none => s
     | some o => settleResults s o)
  | _ => s

/-- The cycles of a stall counted: of the tags those in which no other access was stalled (R213), of the dense engine those in which it froze for
this alone (R87 to R89). -/
def countStall (s : State) (w : Staller) (t : StallTime) : State :=
  let s := s.count TAG_STALL_CNT (t.cycles - t.shared)
  match w with
  | .feeder => (s.count DNS_FREEZE_CNT (t.cycles - t.frozen)).count DNS_FREEZE_FEED_CNT t.cycles
  | .drain => if !s.dense.op.any DenseOp.drainHeld then s else (s.count DNS_FREEZE_CNT (t.cycles - t.frozen)).count DNS_FREEZE_DRAIN_CNT t.cycles
  | _ => s

/-- A stalled access that `when_` picks is acted on, and the operation goes on. -/
def actStall (w : Staller) (time : StallTime) (when_ : State → Acq → SlotUse → Bool) (act : State → Acq → Acq × State) (s : State) :
    State :=
  match stallerAcq s w with
  | none => s
  | some a =>
    match a.needs with
    | [] => s
    | u :: _ =>
      if !when_ s a u then s
      else
        let ahead := loaderAhead s
        let r := act (countStall s w time) a
        let s := putAcq r.2 w r.1
        let late := r.1.spared.contains (u.tag, u.slot) && !a.spared.contains (u.tag, u.slot)
        let s := if late then spareOthers s w ahead u else s
        resumeOp s w

/-- SLOT_STALL_RESUME: the slot has reached a state that admits the access. -/
def execSlotStallResume (w : Staller) (time : StallTime) (s : State) : Host.Outcome State Fault Refusal :=
  .next (actStall w time (fun s _ u => (slotAt s u.tag u.slot).st.admits u.write) advanceAcq s)

/-- SLOT_READ_TIMEOUT (R215), once the stall has lasted its timeout. -/
def execSlotReadTimeout (w : Staller) (time : StallTime) (s : State) : Host.Outcome State Fault Refusal :=
  .next (actStall w time (fun _ a u => !u.write && decide (a.limit ≤ time.cycles)) timeoutAcq s)

/-- SLOT_WRITE_TIMEOUT (R216), once the stall has lasted its timeout. -/
def execSlotWriteTimeout (w : Staller) (time : StallTime) (s : State) : Host.Outcome State Fault Refusal :=
  .next (actStall w time (fun _ a u => u.write && decide (a.limit ≤ time.cycles)) timeoutAcq s)

end Sys2Proof.Machine
end

