-- ==== Sys2Proof/Machine/Dispatch.lean ====
section
/-!
DEFINITION. Machine/Dispatch.lean: one arm for each command.
-/

namespace Sys2Proof.Machine

/-- A command's effect on everything but the queue. [DESIGN CHOICE, log entries 4, 6, 7, 9] -/
def exec (i : Instr) (s : State) : Host.Outcome State Fault Refusal :=
  match i with
  | .halt q => Sys2Proof.Machine.execHalt q s
  | .waitTick q => Sys2Proof.Machine.execWaitTick q s
  | .waitSlot q cycles => Sys2Proof.Machine.execWaitSlot q cycles s
  | .waitDone q => Sys2Proof.Machine.execWaitDone q s
  | .signalClose q => Sys2Proof.Machine.execSignalClose q s
  | .signalDrain q => Sys2Proof.Machine.execSignalDrain q s
  | .signalSet q => Sys2Proof.Machine.execSignalSet q s
  | .setc q => Sys2Proof.Machine.execSetc q s
  | .loop q => Sys2Proof.Machine.execLoop q s
  | .br q => Sys2Proof.Machine.execBr q s
  | .call q => Sys2Proof.Machine.execCall q s
  | .ret q => Sys2Proof.Machine.execRet q s
  | .lds q => Sys2Proof.Machine.execLds q s
  | .loadw q => Sys2Proof.Machine.execLoadw q s
  | .stream q => Sys2Proof.Machine.execStream q s
  | .drain q => Sys2Proof.Machine.execDrain q s
  | .densePass feed drain both wait => Sys2Proof.Machine.execDensePass feed drain both wait s
  | .weightLoad panel => Sys2Proof.Machine.execWeightLoad panel s
  | .checkTileComplete panel upsets => Sys2Proof.Machine.execCheckTileComplete panel upsets s
  | .recomputeTile r => Sys2Proof.Machine.execRecomputeTile r s
  | .deferredPass => Sys2Proof.Machine.execDeferredPass s
  | .denseOpComplete => Sys2Proof.Machine.execDenseOpComplete s
  | .panelRetire panel => Sys2Proof.Machine.execPanelRetire panel s
  | .panelRevive panel => Sys2Proof.Machine.execPanelRevive panel s
  | .checkInj panel count => Sys2Proof.Machine.execCheckInj panel count s
  | .nop q => Sys2Proof.Machine.execNop q s
  | .add q => Sys2Proof.Machine.execAdd q s
  | .sub q => Sys2Proof.Machine.execSub q s
  | .mul q => Sys2Proof.Machine.execMul q s
  | .fma q => Sys2Proof.Machine.execFma q s
  | .axpby q => Sys2Proof.Machine.execAxpby q s
  | .max q => Sys2Proof.Machine.execMax q s
  | .min q => Sys2Proof.Machine.execMin q s
  | .abs q => Sys2Proof.Machine.execAbs q s
  | .sel q => Sys2Proof.Machine.execSel q s
  | .relu q => Sys2Proof.Machine.execRelu q s
  | .convert q => Sys2Proof.Machine.execConvert q s
  | .rcp q => Sys2Proof.Machine.execRcp q s
  | .rsqrt q => Sys2Proof.Machine.execRsqrt q s
  | .sqrt q => Sys2Proof.Machine.execSqrt q s
  | .exp q => Sys2Proof.Machine.execExp q s
  | .log q => Sys2Proof.Machine.execLog q s
  | .tanh q => Sys2Proof.Machine.execTanh q s
  | .sigmoid q => Sys2Proof.Machine.execSigmoid q s
  | .gelu q => Sys2Proof.Machine.execGelu q s
  | .silu q => Sys2Proof.Machine.execSilu q s
  | .rowsum q => Sys2Proof.Machine.execRowsum q s
  | .rowmax q => Sys2Proof.Machine.execRowmax q s
  | .rowsumsq q => Sys2Proof.Machine.execRowsumsq q s
  | .softmax q => Sys2Proof.Machine.execSoftmax q s
  | .layernorm q => Sys2Proof.Machine.execLayernorm q s
  | .rmsnorm q => Sys2Proof.Machine.execRmsnorm q s
  | .updSgdm q => Sys2Proof.Machine.execUpdSgdm q s
  | .upd2mom q => Sys2Proof.Machine.execUpd2mom q s
  | .gather q => Sys2Proof.Machine.execGather q s
  | .scatter q => Sys2Proof.Machine.execScatter q s
  | .scatterMerge q => Sys2Proof.Machine.execScatterMerge q s
  | .spmm q => Sys2Proof.Machine.execSpmm q s
  | .compress q => Sys2Proof.Machine.execCompress q s
  | .expand q => Sys2Proof.Machine.execExpand q s
  | .droverOpComplete cycles => Sys2Proof.Machine.execDroverOpComplete cycles s
  | .selectSend q => Sys2Proof.Machine.execSelectSend q s
  | .resend q => Sys2Proof.Machine.execResend q s
  | .routeReturn q => Sys2Proof.Machine.execReturn q s
  | .combine q => Sys2Proof.Machine.execCombine q s
  | .routeAllocGo seq => Sys2Proof.Machine.execRouteAllocGo seq s
  | .routeAllocTimeout => Sys2Proof.Machine.execRouteAllocTimeout s
  | .shuffleSend => Sys2Proof.Machine.execShuffleSend s
  | .tally q => Sys2Proof.Machine.execTally q s
  | .check q => Sys2Proof.Machine.execCheck q s
  | .xferLocal q => Sys2Proof.Machine.execXferLocal q s
  | .xferWindowWrite q => Sys2Proof.Machine.execXferWindowWrite q s
  | .xferNeighbourSend q => Sys2Proof.Machine.execXferNeighbourSend q s
  | .xferWindowRead q => Sys2Proof.Machine.execXferWindowRead q s
  | .reduce q => Sys2Proof.Machine.execReduce q s
  | .sourceBlockForm tid => Sys2Proof.Machine.execSourceBlockForm tid s
  | .combineFire tid block hw => Sys2Proof.Machine.execCombineFire tid block hw s
  | .reduceClose c => Sys2Proof.Machine.execReduceClose c s
  | .resultMissing tid => Sys2Proof.Machine.execResultMissing tid s
  | .reduceComplete tid => Sys2Proof.Machine.execReduceComplete tid s
  | .adjReview g => Sys2Proof.Machine.execAdjReview g s
  | .stepStart => Sys2Proof.Machine.execStepStart s
  | .stepComplete => Sys2Proof.Machine.execStepComplete s
  | .forcedHalt q => Sys2Proof.Machine.execForcedHalt q s
  | .hookQueue tag page => Sys2Proof.Machine.execHookQueue tag page s
  | .hookTake q => Sys2Proof.Machine.execHookTake q s
  | .descCommit number => Sys2Proof.Machine.execDescCommit number s
  | .descValidateDone => Sys2Proof.Machine.execDescValidateDone s
  | .slotStallResume w time => Sys2Proof.Machine.execSlotStallResume w time s
  | .slotReadTimeout w time => Sys2Proof.Machine.execSlotReadTimeout w time s
  | .slotWriteTimeout w time => Sys2Proof.Machine.execSlotWriteTimeout w time s
  | .patrolRead reader upsets => Sys2Proof.Machine.execPatrolRead reader upsets s
  | .memRequest ch hint addr ask bursts cells => Sys2Proof.Machine.execMemRequest ch hint addr ask bursts cells s
  | .cacheFillArrive line upsets => Sys2Proof.Machine.execCacheFillArrive line upsets s
  | .prefetchIssue line queued => Sys2Proof.Machine.execPrefetchIssue line queued s
  | .prefetchDrop line => Sys2Proof.Machine.execPrefetchDrop line s
  | .streamIdleFree ch cycles => Sys2Proof.Machine.execStreamIdleFree ch cycles s
  | .pageRetire => Sys2Proof.Machine.execPageRetire s
  | .pageRepair page spare => Sys2Proof.Machine.execPageRepair page spare s
  | .cacheFlush => Sys2Proof.Machine.execCacheFlush s
  | .unkeep => Sys2Proof.Machine.execUnkeep s
  | .portTrain n partner low high delay => Sys2Proof.Machine.execPortTrain n partner low high delay s
  | .partnerDetectRetry n partner low high delay => Sys2Proof.Machine.execPartnerDetectRetry n partner low high delay s
  | .downRetry n low high delay => Sys2Proof.Machine.execDownRetry n low high delay s
  | .widthChange a => Sys2Proof.Machine.execWidthChange a s
  | .flitReceive n data => Sys2Proof.Machine.execFlitReceive n data s
  | .flitTransmit a => Sys2Proof.Machine.execFlitTransmit a s
  | .nakRepeat n => Sys2Proof.Machine.execNakRepeat n s
  | .quickRetrain n low high delay credits => Sys2Proof.Machine.execQuickRetrain n low high delay credits s
  | .retrain n low high delay => Sys2Proof.Machine.execRetrain n low high delay s
  | .portDisable n => Sys2Proof.Machine.execPortDisable n s
  | .fulltrain n partner low high delay => Sys2Proof.Machine.execFulltrain n partner low high delay s
  | .heartbeatSend => Sys2Proof.Machine.execHeartbeatSend s
  | .heartbeat n => Sys2Proof.Machine.execHeartbeat n s
  | .neighbourLost d => Sys2Proof.Machine.execNeighbourLost d s
  | .epochChange n => Sys2Proof.Machine.execEpochChange n s
  | .censusStart => Sys2Proof.Machine.execCensusStart s
  | .censusReq n => Sys2Proof.Machine.execCensusReq n s
  | .censusReply n => Sys2Proof.Machine.execCensusReply n s
  | .censusWaitExpire => Sys2Proof.Machine.execCensusWaitExpire s
  | .censusOk n => Sys2Proof.Machine.execCensusOk n s
  | .notify n => Sys2Proof.Machine.execNotify n s
  | .vacateEpoch => Sys2Proof.Machine.execVacateEpoch s
  | .deadlineAdj n => Sys2Proof.Machine.execDeadlineAdj n s
  | .adopt n => Sys2Proof.Machine.execAdopt n s
  | .adoptFetch => Sys2Proof.Machine.execAdoptFetch s
  | .adoptComplete => Sys2Proof.Machine.execAdoptComplete s
  | .winWrite n => Sys2Proof.Machine.execWinWrite n s
  | .winRead n => Sys2Proof.Machine.execWinRead n s
  | .winData n => Sys2Proof.Machine.execWinData n s
  | .winDone n => Sys2Proof.Machine.execWinDone n s
  | .winTimeout w => Sys2Proof.Machine.execWinTimeout w s
  | .neighbour n => Sys2Proof.Machine.execNeighbour n s
  | .routedRow n => Sys2Proof.Machine.execRoutedRow n s
  | .routeClose n => Sys2Proof.Machine.execRouteClose n s
  | .sample n => Sys2Proof.Machine.execSample n s
  | .g16 n upset => Sys2Proof.Machine.execG16 n upset s
  | .timecode n phi residence edges => Sys2Proof.Machine.execTimecode n phi residence edges s
  | .timecodeSend delay => Sys2Proof.Machine.execTimecodeSend delay s
  | .sendTc => Sys2Proof.Machine.execSendTc s
  | .tickSet v => Sys2Proof.Machine.execTickSet v s
  | .tickEdge gap => Sys2Proof.Machine.execTickEdge gap s
  | .tickLoss => Sys2Proof.Machine.execTickLoss s
  | .freewheelAdvance => Sys2Proof.Machine.execFreewheelAdvance s
  | .schedInstall n w => Sys2Proof.Machine.execSchedInstall n w s
  | .powerEntryFire => Sys2Proof.Machine.execPowerEntryFire s
  | .checkpointEntryFire => Sys2Proof.Machine.execCheckpointEntryFire s
  | .governorAdmit cycles => Sys2Proof.Machine.execGovernorAdmit cycles s
  | .vetoRelease cycles => Sys2Proof.Machine.execVetoRelease cycles s
  | .vetoExpire q cycles => Sys2Proof.Machine.execVetoExpire q cycles s
  | .predictorSample => Sys2Proof.Machine.execPredictorSample s
  | .predReset => Sys2Proof.Machine.execPredReset s
  | .ethPortTrain port lanes => Sys2Proof.Machine.execEthPortTrain port lanes s
  | .ethFrameReceive port frame len tags => Sys2Proof.Machine.execEthFrameReceive port frame len tags s
  | .pfcFrame port prio pause => Sys2Proof.Machine.execPfcFrame port prio pause s
  | .sampleFetch => Sys2Proof.Machine.execSampleFetch s
  | .readIssue qp => Sys2Proof.Machine.execReadIssue qp s
  | .readResponse qpn place ce since data => Sys2Proof.Machine.execReadResponse qpn place ce since data s
  | .acknowledge qpn kind => Sys2Proof.Machine.execAcknowledge qpn kind s
  | .transportTimeout wait => Sys2Proof.Machine.execTransportTimeout wait s
  | .qpReset qp => Sys2Proof.Machine.execQpReset qp s
  | .qpResetAll => Sys2Proof.Machine.execQpResetAll s
  | .pipeAssign info => Sys2Proof.Machine.execPipeAssign info s
  | .frameDecode pipe f pic => Sys2Proof.Machine.execFrameDecode pipe f pic s
  | .tokeniseFrame => Sys2Proof.Machine.execTokeniseFrame s
  | .sampleDeliver which ended slot => Sys2Proof.Machine.execSampleDeliver which ended slot s
  | .sampleAbandon => Sys2Proof.Machine.execSampleAbandon s
  | .lockstepMismatch within => Sys2Proof.Machine.execLockstepMismatch within s
  | .firmwareResume copyOk fails => Sys2Proof.Machine.execFirmwareResume copyOk fails s
  | .wdogKick => Sys2Proof.Machine.execWdogKick s
  | .watchdogReset => Sys2Proof.Machine.execWatchdogReset s
  | .snapshot => Sys2Proof.Machine.execSnapshot s
  | .yield => Sys2Proof.Machine.execYield s
  | .lockstepInj within => Sys2Proof.Machine.execLockstepInj within s
  | .logEntryWrite => Sys2Proof.Machine.execLogEntryWrite s
  | .w1cClear reg ones => Sys2Proof.Machine.execW1cClear reg ones s
  | .rcRead reg p => Sys2Proof.Machine.execRcRead reg p s
  | .registerWrite reg p v => Sys2Proof.Machine.execRegisterWrite reg p v s
  | .addressError addr write => Sys2Proof.Machine.execAddressError addr write s
  | .imgOpen slot => Sys2Proof.Machine.execOpen slot s
  | .store slot => Sys2Proof.Machine.execStore slot s
  | .load slot => Sys2Proof.Machine.execLoad slot s
  | .storeLoad slot => Sys2Proof.Machine.execStoreLoad slot s
  | .delete slot => Sys2Proof.Machine.execDelete slot s
  | .default slot => Sys2Proof.Machine.execDefault slot s
  | .switch slot => Sys2Proof.Machine.execSwitch slot s
  | .owner slot => Sys2Proof.Machine.execOwner slot s
  | .nodefault slot => Sys2Proof.Machine.execNodefault slot s
  | .imgOpComplete readFails progFails => Sys2Proof.Machine.execImgOpComplete readFails progFails s
  | .imageInstall => Sys2Proof.Machine.execImageInstall s
  | .imageWindowWrite offset data => Sys2Proof.Machine.execImageWindowWrite offset data s
  | .fwStage => Sys2Proof.Machine.execFwStage s
  | .fwStore => Sys2Proof.Machine.execFwStore s
  | .fwSwitch => Sys2Proof.Machine.execFwSwitch s
  | .fwSwitchExec => Sys2Proof.Machine.execFwSwitchExec s
  | .journalCompact => Sys2Proof.Machine.execJournalCompact s
  | .quote => Sys2Proof.Machine.execQuote s
  | .quoteSigned => Sys2Proof.Machine.execQuoteSigned s
  | .supplySample mv => Sys2Proof.Machine.execSupplySample mv s
  | .stage4CommitDone cut => Sys2Proof.Machine.execStage4CommitDone cut s
  | .brownOut => Sys2Proof.Machine.execBrownOut s
  | .overvoltage => Sys2Proof.Machine.execOvervoltage s
  | .pwrFail low => Sys2Proof.Machine.execPwrFail low s
  | .powerOn => Sys2Proof.Machine.execPowerOn s
  | .pinReset low => Sys2Proof.Machine.execPinReset low s
  | .engineReset key => Sys2Proof.Machine.execEngineReset key s
  | .chipReset key => Sys2Proof.Machine.execChipReset key s
  | .debugReset => Sys2Proof.Machine.execDebugReset s
  | .clockFailure => Sys2Proof.Machine.execClockFailure s
  | .clockRecover => Sys2Proof.Machine.execClockRecover s
  | .releaseStepComplete pins fails => Sys2Proof.Machine.execReleaseStepComplete pins fails s
  | .thermalTrip die stack => Sys2Proof.Machine.execThermalTrip die stack s
  | .alertJudgement vin iin pin die stack stageT mj => Sys2Proof.Machine.execAlertJudgement vin iin pin die stack stageT mj s
  | .bar0BadAccess => Sys2Proof.Machine.execBar0BadAccess s
  | .windowRead n off len => Sys2Proof.Machine.execWindowRead n off len s
  | .windowWrite n off data => Sys2Proof.Machine.execWindowWrite n off data s
  | .windowConfig n v => Sys2Proof.Machine.execWindowConfig n v s
  | .functionReset kind => Sys2Proof.Machine.execFunctionReset kind s
  | .pcieLinkDown => Sys2Proof.Machine.execPcieLinkDown s
  | .mirrorWrite => Sys2Proof.Machine.execMirrorWrite s
  | .msixMessage => Sys2Proof.Machine.execMsixMessage s
  | .kill key => Sys2Proof.Machine.execKill key s
  | .ident parity data => Sys2Proof.Machine.execIdent parity data s
  | .status parity data => Sys2Proof.Machine.execStatus parity data s
  | .telem parity data => Sys2Proof.Machine.execTelem parity data s
  | .temp parity data => Sys2Proof.Machine.execTemp parity data s
  | .energy parity data => Sys2Proof.Machine.execEnergy parity data s
  | .alert parity data => Sys2Proof.Machine.execAlert parity data s
  | .cause parity data => Sys2Proof.Machine.execCause parity data s
  | .stages parity data => Sys2Proof.Machine.execStages parity data s
  | .position parity data => Sys2Proof.Machine.execPosition parity data s
  | .reset parity data => Sys2Proof.Machine.execReset parity data s
  | .setdasa parity static dyn => Sys2Proof.Machine.execSetdasa parity static dyn s
  | .entdaa parity won dyn => Sys2Proof.Machine.execEntdaa parity won dyn s
  | .rstdaa parity => Sys2Proof.Machine.execRstdaa parity s
  | .enec parity events => Sys2Proof.Machine.execEnec parity events s
  | .disec parity events => Sys2Proof.Machine.execDisec parity events s
  | .getpid parity => Sys2Proof.Machine.execGetpid parity s
  | .getbcr parity => Sys2Proof.Machine.execGetbcr parity s
  | .getdcr parity => Sys2Proof.Machine.execGetdcr parity s
  | .getstatus parity => Sys2Proof.Machine.execGetstatus parity s
  | .setmwl parity limit => Sys2Proof.Machine.execSetmwl parity limit s
  | .getmwl parity => Sys2Proof.Machine.execGetmwl parity s
  | .setmrl parity limit => Sys2Proof.Machine.execSetmrl parity limit s
  | .getmrl parity => Sys2Proof.Machine.execGetmrl parity s
  | .inBandInterrupt accepted => Sys2Proof.Machine.execInBandInterrupt accepted s
  | .ibiRetry accepted => Sys2Proof.Machine.execIbiRetry accepted s
  | .runArm => Sys2Proof.Machine.execRunArm s
  | .runStop => Sys2Proof.Machine.execRunStop s
  | .sampleTake cycles p => Sys2Proof.Machine.execSampleTake cycles p s
  | .ringBurstWrite => Sys2Proof.Machine.execRingBurstWrite s
  | .ringBurstAccept => Sys2Proof.Machine.execRingBurstAccept s
  | .writeBurstRejected addr len rejects => Sys2Proof.Machine.execWriteBurstRejected addr len rejects s
  | .pcieLinkUp rate width flit => Sys2Proof.Machine.execPcieLinkUp rate width flit s
  | .brownOutRelease => Sys2Proof.Machine.execBrownOutRelease s
  | .overvoltageRelease => Sys2Proof.Machine.execOvervoltageRelease s
  | .powerLoss => Sys2Proof.Machine.execPowerLoss s
  | .fwOpComplete readFails progFails => Sys2Proof.Machine.execFwOpComplete readFails progFails s
  | .lifetimeWrite => Sys2Proof.Machine.execLifetimeWrite s
  | .vectorUnmask => Sys2Proof.Machine.execVectorUnmask s
  | .holdoffExpire => Sys2Proof.Machine.execHoldoffExpire s
  | .busMasterEnable bme d3hot => Sys2Proof.Machine.execBusMasterEnable bme d3hot s

end Sys2Proof.Machine
end

