-- ==== Sys2Proof/Machine/Step.lean ====
section
/-!
DEFINITION. Machine/Step.lean: one step: the command at the front of the queue.
-/

namespace Sys2Proof.Machine

/-- A step: the command at the front of the queue acts on the machine with the queue's rest; on an empty queue time passes.
[DEDUCED, log entry 10; DESIGN CHOICE, log entries 4, 5] -/
def step (s : State) : Host.Outcome State Fault Refusal :=
  match s.pending with
  | [] => .next (idle s)
  | c :: rest => exec c { s with pending := rest }

/-- The state with the command that a word spells at the front of its queue. [DESIGN CHOICE, log entry 11] -/
def State.withFetchWord (s : State) (nbits w : Nat) : State :=
  match Sys2Proof.decodeTableWord nbits w with
  | some c => { s with pending := c :: s.pending }
  | none => s

end Sys2Proof.Machine
end

