-- ==== Sys2Proof/Machine/Pins.lean ====
section
/-!
DEFINITION. Machine/Pins.lean: the pins of the module as the state of the block sets them, and where they lie on the signal connectors
(17 R503 to R505, R507).
-/

namespace Sys2Proof.Machine

open Reg

/-- The single-ended pins of Table 17.10. -/
inductive Pin where
  | resetL | pwrFailL | perstL | alertL | thermL | i3cScl | i3cSda
  | opt (n : Fin 8)
  | dbgTck | dbgTms | dbgTdi | dbgTdo
  deriving DecidableEq, Repr

/-- The module pulls the pin up: the bus controller takes over the pull-ups of the I3C pins once release step 4 is reached (Table 17.8).
[DEDUCED, log entry 158] -/
def Pin.pulledUp (s : State) : Pin → Bool
  | .i3cScl | .i3cSda => !configured s
  | _ => true

/-- The module sinks the pin: THERM_L and ALERT_L while they are asserted (R504, R505). What DBG_TDO carries is the debug port's.
[DEDUCED, log entry 158] -/
def Pin.drivenLow (s : State) : Pin → Bool
  | .thermL => s.flag PWR_STATUS.THERM
  | .alertL => alertCond s
  | _ => false

/-- The differential lanes of Table 17.9. -/
inductive Lane where
  | fabric (port : Fin 16) (lane : Fin 8)
  | ethernet (port : Fin 2) (lane : Fin 8)
  | pcie (lane : Fin 4)
  deriving DecidableEq, Repr

/-- The lanes transmit electrical idle before their training begins: fabric and Ethernet before release step 6, PCI Express before step 4 and while
PERST_L is low (Table 17.8). [DEDUCED, log entry 158] -/
def Lane.idle (s : State) : Lane → Bool
  | .fabric .. | .ethernet .. => !s.pwr.fabric
  | .pcie _ => !configured s || s.flag HST_LINK.PERST

/-- The connector, 1 or 2, and the column of a lane (Table 17.9). -/
def Lane.column : Lane → Nat × Nat
  | .fabric n l => if n.val < 4 then (1, 10 * n.val + l.val + 1) else (2, 10 * (n.val - 4) + l.val + 1)
  | .ethernet e l => (1, 41 + 10 * e.val + l.val)
  | .pcie l => (1, 61 + l.val)

/-- The rows of a lane column: TX_P, TX_N, RX_P and RX_N; the others are ground (R507). -/
def laneRows : Char × Char × Char × Char := ('A', 'B', 'D', 'E')

/-- The position of a pin on J1 (Table 17.10). -/
def Pin.position : Pin → Char × Nat
  | .resetL => ('A', 68)
  | .pwrFailL => ('B', 68)
  | .perstL => ('D', 68)
  | .alertL => ('E', 68)
  | .thermL => ('A', 70)
  | .i3cScl => ('B', 70)
  | .i3cSda => ('D', 70)
  | .opt n => (['A', 'B', 'C', 'D', 'E', 'F', 'G', 'H'][n.val], 72)
  | .dbgTck => ('A', 74)
  | .dbgTms => ('B', 74)
  | .dbgTdi => ('D', 74)
  | .dbgTdo => ('E', 74)

/-- The positions of the reference clock and the tick pulse on J1, P before N (Table 17.10). -/
def clockPositions : List (Char × Nat) := [('A', 66), ('B', 66), ('D', 66), ('E', 66)]

end Sys2Proof.Machine
end

