-- ==== Sys2Proof/Safety.lean ====
section
/-!
DEFINITION. Safety.lean: the words in which claims about the machine are made: what a command answers, what it leaves as it was, and the
canonical form of its data.
-/

namespace Sys2Proof.Machine

open Reg

/-- Command `c` completes at `s`, in a state of which `P` holds. -/
def Answers (c : Instr) (s : State) (P : State → Prop) : Prop := ∃ t, exec c s = .next t ∧ P t

/-- The data of a state are in their one form: no byte of memory is listed that reads as zero anyway, and memory and the register file list each
place once, in rising order. -/
def State.canonical (s : State) : Bool := memWf s.mem && FMap.sorted s.regs && FMap.sorted s.latched

/-- Every register field but those of `fs` holds what it held. -/
def RegsKept (fs : List Field) (s t : State) : Prop := ∀ f : Field, f.key ∉ fs.map Field.key → t.get f = s.get f

/-- `t` is `s` but for what an access to memory may change: with the errors that it meets, the hooks queued on the sequencers (R277) and the
pages handed to firmware (R251) too. -/
def MemoryOnly (s t : State) : Prop :=
  t = { s with
    regs := t.regs, mem := t.mem, memory := t.memory, seqs := t.seqs, flt := t.flt, logIn := t.logIn, once := t.once
    upsets := t.upsets, free := t.free }

/-- The fields that a counter's event changes: the counter, and its shadow in the observation block (R546). -/
def counterFields (f : Field) : List Field :=
  match shadowIndex f.off with
  | some i => [f, OBS_AON.COUNT i]
  | none => [f]

/-- A counter has counted `n` more events, held at all ones (R14). -/
def Counted (f : Field) (n : Nat) (s t : State) : Prop :=
  t.get f = if n = 0 then s.get f else min (2 ^ f.width - 1) (s.get f + n)

/-- The byte that a read at a local address delivers: from the stacks through the memory-side cache, zero from a page out of service (R251); from the
other memories directly. -/
def byteAt (s : State) (a : Nat) : Byte := if a < stackBytes then stackPeek s a else cellAt s.mem a

/-- The memory-side cache is in order (R235): the lines of a set are distinct lines of that set and of the stacks, and the bytes that a line holds
lie in it, each once. -/
def cacheInOrder (s : State) : Bool :=
  s.memory.cache.all (fun e => (e.2.map (·.line)).Nodup &&
    e.2.all (fun x => setOf x.line == e.1 && decide (x.line * 2048 < stackBytes) && FMap.sorted x.bytes
      && x.bytes.all (fun b => decide (b.1 < 2048))))
    && FMap.sorted s.memory.cache

/-- Nothing is under way for a line: no error waits to be met, no fill of the line is on its way, and the controller of its stack has room and no
request that waits for it. -/
def lineQuiet (s : State) (l : Nat) : Bool :=
  s.upsets.isEmpty && !s.memory.fills.any (fun f => f.line == l)
    && !s.memory.waiting.any (fun w => lineOf w.addr == l || stackOf (lineOf w.addr) == stackOf l) && decide ((ctrlQueue s l).length < 256)

/-- What is on its way to the cache lies in the stacks (R228): the lines asked for and those still to be asked for, the bytes that a request
takes from its line or puts there, and the requests that wait for a controller, each within one line. -/
def fillsInOrder (s : State) : Bool :=
  s.memory.fills.all (fun f => decide (f.line * 2048 < stackBytes) && decide (f.off + f.len ≤ 2048)
      && decide (f.off + (f.write.getD []).length ≤ 2048))
    && s.memory.pfq.all (fun p => decide (p.2.2 * 2048 < stackBytes))
    && s.memory.waiting.all (fun w => decide (w.addr < stackBytes) && decide (w.addr % 2048 + Machine.askLen w.ask ≤ 2048))

/-- The data of a state are in their one form and its memory-side cache is in order. -/
def State.inOrder (s : State) : Bool := s.canonical && cacheInOrder s && fillsInOrder s

/-- Sequencer `q` runs and stands at instruction `i`, which it may issue (R259, R261, R264, Table 9.1). -/
def AtInsn (s : State) (q : Fin 4) (i : SeqInsn) : Prop :=
  (s.seqr q).running = true ∧ SeqInsn.decode (currentWord s q) = .ok i ∧ SeqInsn.allowed q i = true

/-- A sequencer that has issued an instruction and goes on at `pc` (R261). -/
def SeqState.stepped (x : SeqState) (pc : Nat) : SeqState :=
  { x with pc := pc, stall := .none, issued := (x.issued + 1) % 2 ^ 32 }

/-- A control message of a subtype stands at the head of its channel on port `n`, and its SRC and MSEQ have not been seen; `u` is the state with it
taken (R297). -/
def Heard (s : State) (n : Fin 16) (sub : Nat) (p : Packet) (u : State) : Prop :=
  ∃ x v, peekRx s n (isControl sub) = some x ∧ p = x.pkt ∧ v = takeRx s n (isControl sub)
    ∧ v.lnk.seen.contains (p.src, bits p.hdr1 8 16) = false
    ∧ u = { v with lnk := { v.lnk with seen := (p.src, bits p.hdr1 8 16) :: v.lnk.seen } }

/-- No control message of a subtype stands at the head of its channel on port `n`, or its SRC and MSEQ have been seen; `u` is the state without it
(R297). -/
def Unheard (s : State) (n : Fin 16) (sub : Nat) (u : State) : Prop :=
  (peekRx s n (isControl sub) = none ∧ u = s)
    ∨ ∃ x, peekRx s n (isControl sub) = some x ∧ u = takeRx s n (isControl sub)
      ∧ u.lnk.seen.contains (x.pkt.src, bits x.pkt.hdr1 8 16) = true

/-- The image `i` that an installation has brought is in force (R472, R473): at epoch 0 with no base and no step, or in the epoch whose change names
it. -/
def InForce (s : State) (x : Installation) (i : Image) : Prop :=
  s.ctl.installing = none ∧ s.image = some i ∧ s.get CTL_STATUS.IMAGE = 1 ∧ s.get CTL_TENANT.TENANT = i.tenant % 2 ^ 64
    ∧ s.get FLT_STATUS.WITHDRAWN = 0 ∧ s.get HST_STATUS.STEPV = 0
    ∧ (x.load.change = none → s.get LNK_EPOCH.EPOCH = 0 ∧ s.step = .reset)
    ∧ (∀ c, x.load.change = some c → s.get LNK_EPOCH.EPOCH = c.epoch % 2 ^ 32 ∧ s.step.baseTick = c.base)

/-- The commands of GSM and VEC, by function code (Table 4.7, R273). -/
def fnCommands (q : Fin 4) : List (Nat × Instr) :=
  [(0x00, .nop q), (0x01, .add q), (0x02, .sub q), (0x03, .mul q), (0x04, .fma q), (0x05, .axpby q), (0x06, .max q),
   (0x07, .min q), (0x08, .abs q), (0x09, .sel q), (0x0A, .relu q), (0x0B, .convert q), (0x10, .rcp q), (0x11, .rsqrt q),
   (0x12, .sqrt q), (0x13, .exp q), (0x14, .log q), (0x15, .tanh q), (0x16, .sigmoid q), (0x17, .gelu q), (0x18, .silu q),
   (0x20, .rowsum q), (0x21, .rowmax q), (0x22, .rowsumsq q), (0x28, .softmax q), (0x29, .layernorm q), (0x2A, .rmsnorm q),
   (0x38, .updSgdm q), (0x39, .upd2mom q), (0x40, .gather q), (0x41, .scatter q), (0x42, .scatterMerge q), (0x43, .spmm q),
   (0x44, .compress q), (0x45, .expand q)]

/-- The commands of ROUTE, by sub-operation (Table 9.4). -/
def routeCommands (q : Fin 4) : List (Nat × Instr) :=
  [(0, .selectSend q), (1, .resend q), (2, .routeReturn q), (3, .combine q)]

end Sys2Proof.Machine
end

