-- ==== Sys2Proof/Certificates/Slice0/Obligations.lean ====
section
/-!
DEFINITION. Certificates/Slice0/Obligations.lean: the statements about the model. Where a statement ends in `Answers c s P`, command `c` completes
at `s` in a state of which `P` holds. A clause `t = { s with … }` is a frame: everything that it does not name is as it was.
-/

open Sys2Proof Sys2Proof.Machine Sys2Proof.Machine.Reg

/-! The machine as a whole. -/

/-- A step takes the command at the front of the queue, and its outcome is that of the command on the machine with the queue's rest. With nothing
waiting it answers a next state in which time has passed: the machine as it is, but for an image installation, a flush of the memory-side cache or
the flash records of a supply stage 4 under way, which go on.
The model's own choices in it: log entries 4, 5. -/
def Obligations.StepTakesTheFrontCommand : Prop :=
  (∀ (c : Instr) (rest : List Instr) (s : State),
    step { s with pending := c :: rest } = exec c { s with pending := rest })
  ∧ (∀ s : State, step { s with pending := [] } = .next (idle { s with pending := [] }))
  ∧ (∀ s : State, s.ctl.installing = none → s.memory.flushing = [] → (∀ rest, firstOf FwEvent.supply s.flt.fwq ≠ some (false, rest)) → idle s = s)

/-- Every step from a state in order that answers a next state answers one in order: memory and the register file in canonical form, and in each set of the memory-side cache
distinct lines of that set and of the stacks. -/
def Obligations.StepsKeepTheStateInOrder : Prop :=
  ∀ s t : State, s.inOrder = true → step s = .next t → t.inOrder = true

/-- The state after reset is in order. -/
def Obligations.ResetIsInOrder : Prop :=
  State.reset.inOrder = true

/-- Every instruction of Table 9.3 whose fields fit is the one that its word decodes to. -/
def Obligations.SequencerWordsDecodeToTheirInstructions : Prop :=
  ∀ i : SeqInsn, SeqInsn.wf i = true → SeqInsn.decode (SeqInsn.encode i) = .ok i

/-! Sequencers (09). -/

/-- SETC, LOOP, BR, CALL and RET (R269): the counter, the program counter, the call stack and F after them; everything else, memory among it, is as it
was but the count of issued instructions. C15 may be read, as BR reads it, but is not written. -/
def Obligations.ControlInstructionsTakeEffect : Prop :=
  ∀ (s : State) (q : Fin 4),
    (∀ cnt add imm, AtInsn s q (.setc cnt add imm) → cnt < 15 → Answers (.setc q) s fun t =>
      counter t q cnt = (if add then counter s q cnt + imm else imm) % 2 ^ 32
      ∧ t = { s with regs := t.regs, seqs := s.seqs.set q ((s.seqr q).stepped (((s.seqr q).pc + 1) % 4096)) }
      ∧ RegsKept (SEQ_CNT.C (q * 16 + cnt) :: counterFields SEQ_ISSUE_CNT) s t ∧ Counted SEQ_ISSUE_CNT 1 s t)
    ∧ (∀ cnt target, AtInsn s q (.loop cnt target) → cnt < 15 → Answers (.loop q) s fun t =>
      counter t q cnt = (counter s q cnt - 1) % 2 ^ 32
      ∧ t = { s with
          regs := t.regs
          seqs := s.seqs.set q ((s.seqr q).stepped (if 1 < counter s q cnt then target else ((s.seqr q).pc + 1) % 4096)) }
      ∧ RegsKept (SEQ_CNT.C (q * 16 + cnt) :: counterFields SEQ_ISSUE_CNT) s t ∧ Counted SEQ_ISSUE_CNT 1 s t)
    ∧ (∀ cnt cond imm target, AtInsn s q (.br cnt cond imm target) → Answers (.br q) s fun t =>
      (∀ pc, pc = (if (cond = 0 ∨ cond = 1 ∧ counter s q cnt = imm ∨ cond = 2 ∧ counter s q cnt ≠ imm
              ∨ cond = 3 ∧ counter s q cnt < imm ∨ cond = 4 ∧ counter s q cnt ≥ imm
              ∨ cond = 5 ∧ (s.seqr q).f = true ∨ cond = 6 ∧ (s.seqr q).f = false)
            then target else ((s.seqr q).pc + 1) % 4096) →
        t = { s with regs := t.regs, seqs := s.seqs.set q ((s.seqr q).stepped pc) })
      ∧ RegsKept (counterFields SEQ_ISSUE_CNT) s t ∧ Counted SEQ_ISSUE_CNT 1 s t)
    ∧ (∀ target, AtInsn s q (.call target) → (s.seqr q).calls.length < 8 → Answers (.call q) s fun t =>
      t = { s with
          regs := t.regs
          seqs := s.seqs.set q { (s.seqr q).stepped target with
            calls := ((s.seqr q).pc + 1) % 4096 :: (s.seqr q).calls } }
      ∧ RegsKept (counterFields SEQ_ISSUE_CNT) s t ∧ Counted SEQ_ISSUE_CNT 1 s t)
    ∧ (∀ r rest, AtInsn s q .ret → (s.seqr q).calls = r :: rest → r < 4096 →
      (∀ x ∈ (s.seqr q).frames, x.1 ≠ (s.seqr q).calls.length) → Answers (.ret q) s fun t =>
      t = { s with regs := t.regs, seqs := s.seqs.set q { (s.seqr q).stepped r with calls := rest } }
      ∧ RegsKept (counterFields SEQ_ISSUE_CNT) s t ∧ Counted SEQ_ISSUE_CNT 1 s t)
    ∧ (∀ add imm, AtInsn s q (.setc 15 add imm) → Answers (.setc q) s fun t => counter t q 15 = counter s q 15 ∧ t.mem = s.mem)
    ∧ (∀ target, AtInsn s q (.loop 15 target) → Answers (.loop q) s fun t => counter t q 15 = counter s q 15 ∧ t.mem = s.mem)

/-- HALT, WAIT_TICK, WAIT_SLOT and WAIT_DONE (R266, R267, Table 9.2): each issues when it is satisfied, and then HALT stops its sequencer and the waits go on to
the next instruction, a WAIT_SLOT with F saying whether it timed out; until then each holds its sequencer where it is and changes nothing else. A tick wait passes at
its tick once no message that comes first at that tick stands waiting (R39). A slot wait stalls under the timeout that its tag has as it first does (R213).
The step limit halts a sequencer that has not halted (R263), counts it and writes one event-log entry; operations that run are untouched.
The model's own choices in it: log entries 59, 61, 63. -/
def Obligations.WaitsHaltAndStepLimitTakeEffect : Prop :=
  (∀ (s : State) (q : Fin 4),
    (AtInsn s q .halt → outstanding s q = false → (s.seqr q).startDue = false → Answers (.halt q) s fun t =>
      t = { s with
          regs := t.regs, unwaited := s.unwaited.filter (fun u => u.seqr != q.val)
          seqs := s.seqs.set q { (s.seqr q).stepped (s.seqr q).pc with running := false, frames := [] } }
      ∧ RegsKept (counterFields SEQ_ISSUE_CNT) s t ∧ Counted SEQ_ISSUE_CNT 1 s t)
    ∧ (AtInsn s q .halt → outstanding s q = false → (s.seqr q).startDue = true → (s.seqr q).hooks = [] → Answers (.halt q) s fun t =>
      t.seqr q = { (s.seqr q).stepped 0 with running := true, f := false, calls := [], frames := [], startDue := false }
      ∧ (∀ n, n < 15 → counter t q n = 0) ∧ counter t q 15 = s.step.number % 2 ^ 32 ∧ t.mem = s.mem ∧ Counted SEQ_ISSUE_CNT 1 s t)
    ∧ (AtInsn s q .halt → outstanding s q = true → Answers (.halt q) s fun t =>
      t = { s with seqs := s.seqs.set q { s.seqr q with stall := .other } })
    ∧ (∀ base offset, AtInsn s q (.waitTick base offset) →
      s.tick < (if base then s.step.baseTick else s.step.sched) + offset → Answers (.waitTick q) s fun t =>
      t = { s with seqs := s.seqs.set q { s.seqr q with stall := .wait } })
    ∧ (∀ base offset, AtInsn s q (.waitTick base offset) →
      (if base then s.step.baseTick else s.step.sched) + offset = s.tick → messageDue s = true → Answers (.waitTick q) s fun t =>
      t = { s with seqs := s.seqs.set q { s.seqr q with stall := .wait } })
    ∧ (∀ base offset, AtInsn s q (.waitTick base offset) →
      (if base then s.step.baseTick else s.step.sched) + offset ≤ s.tick →
      (messageDue s = true → (if base then s.step.baseTick else s.step.sched) + offset < s.tick) → Answers (.waitTick q) s fun t =>
      t = { s with regs := t.regs, seqs := s.seqs.set q ((s.seqr q).stepped (((s.seqr q).pc + 1) % 4096)) }
      ∧ RegsKept (counterFields SEQ_ISSUE_CNT ++ counterFields SEQ_LATE_WAIT_CNT) s t ∧ Counted SEQ_ISSUE_CNT 1 s t
      ∧ Counted SEQ_LATE_WAIT_CNT (if (s.seqr q).stall = .none then 1 else 0) s t)
    ∧ (∀ cen cidx tag slot states cycles n, AtInsn s q (.waitSlot cen cidx tag slot states) →
      (tagEntry s tag).valid = true → (tagEntry s tag).rd = true → n = effSlot s q cen cidx slot → n < (tagEntry s tag).slots →
      (bit states (slotAt s tag n).st.code = true → Answers (.waitSlot q cycles) s fun t =>
        t = { s with
            regs := t.regs, seqs := s.seqs.set q { (s.seqr q).stepped (((s.seqr q).pc + 1) % 4096) with f := false } }
        ∧ RegsKept (counterFields SEQ_ISSUE_CNT) s t ∧ Counted SEQ_ISSUE_CNT 1 s t)
      ∧ (bit states (slotAt s tag n).st.code = false → (s.seqr q).stall ≠ .none → (s.seqr q).limit ≤ cycles → Answers (.waitSlot q cycles) s fun t =>
        t = { s with
            regs := t.regs, seqs := s.seqs.set q { (s.seqr q).stepped (((s.seqr q).pc + 1) % 4096) with f := true } }
        ∧ RegsKept (counterFields SEQ_ISSUE_CNT ++ counterFields SEQ_WAIT_TIMEOUT_CNT) s t ∧ Counted SEQ_ISSUE_CNT 1 s t
        ∧ Counted SEQ_WAIT_TIMEOUT_CNT 1 s t)
      ∧ (bit states (slotAt s tag n).st.code = false → (s.seqr q).stall = .none → Answers (.waitSlot q cycles) s fun t =>
        t = { s with
            seqs := s.seqs.set q { s.seqr q with
              stall := .wait
              limit := 1024 * (if (tagEntry s tag).timeout = 0 then max 1 (s.get TAG_SLOT_TIMEOUT.DEFAULT) else (tagEntry s tag).timeout) } })
      ∧ (bit states (slotAt s tag n).st.code = false → (s.seqr q).stall ≠ .none → cycles < (s.seqr q).limit →
        Answers (.waitSlot q cycles) s fun t => t = { s with seqs := s.seqs.set q { s.seqr q with stall := .wait } }))
    ∧ (AtInsn s q .waitDone → outstanding s q = false → Answers (.waitDone q) s fun t =>
      t = { s with
          regs := t.regs, unwaited := s.unwaited.filter (fun u => u.seqr != q.val)
          seqs := s.seqs.set q ((s.seqr q).stepped (((s.seqr q).pc + 1) % 4096)) }
      ∧ RegsKept (counterFields SEQ_ISSUE_CNT) s t ∧ Counted SEQ_ISSUE_CNT 1 s t)
    ∧ (AtInsn s q .waitDone → outstanding s q = true → Answers (.waitDone q) s fun t =>
      t = { s with seqs := s.seqs.set q { s.seqr q with stall := .wait } }))
  ∧ (∀ (s : State) (q : Fin 4), s.step.running = true → (s.seqr q).running = true → s.held SEQ_CFG.STEP_LIMIT ≠ 0 →
    s.step.sched + s.held SEQ_CFG.STEP_LIMIT * 1024 ≤ s.tick → s.logIn.queue.length < 64 →
    Answers (.forcedHalt q) s fun t =>
      (t.seqr q).running = false ∧ (t.seqr q).stall = .none ∧ Counted SEQ_FORCED_HALT_CNT 1 s t
      ∧ t.logIn.queue.length = s.logIn.queue.length + 1
      ∧ (∀ p : Fin 4, p ≠ q → t.seqr p = s.seqr p)
      ∧ RegsKept (counterFields SEQ_FORCED_HALT_CNT) s t
      ∧ t = { s with regs := t.regs, seqs := t.seqs, cad := t.cad, logIn := t.logIn, free := t.free })

/-- A close, drain or set signal to one slot (R207, R209, R268, Table 7.3): the slot's state and counts after it, and that no other slot, register or byte
changes.
The states of a slot under closes and drains that its tag counts (Table 7.3): a slot that is EMPTY or FILLING becomes FULL with its last close and FILLING before
it; one that is FULL or DRAINING becomes EMPTY with its last drain and DRAINING before it; the others are extra and change nothing.
SLOT_STALL_RESUME, SLOT_READ_TIMEOUT and SLOT_WRITE_TIMEOUT (R213 to R217), for every unit whose access can stall. Resumed when its slot admits it, the access is made and the
operation goes on with its next. Timed out while its slot does not admit it, after its limit, it goes on without: a write's slot becomes FILLING, a read's operation STALE; the timeout is
counted and recorded, and no other operand of the operation stalls on that slot. Where nothing is stalled none of the three changes anything. -/
def Obligations.SlotsCycleThroughTheirStates : Prop :=
  (∀ (s : State) (q : Fin 4) (fence cen : Bool) (state cidx tag first n : Nat),
    n = effSlot s q cen cidx first →
    (tagEntry s tag).valid = true → (tagEntry s tag).rd = true → n < (tagEntry s tag).slots → n < 64 →
    (fence = true → outstanding s q = false) →
    (AtInsn s q (.signal fence 0 state cen cidx tag first 1) → Answers (.signalClose q) s fun t =>
      slotAt t tag n = ((slotAt s tag n).close (tagEntry s tag).nclose).1
      ∧ Counted TAG_EXTRA_CLOSE_CNT (b2n ((slotAt s tag n).close (tagEntry s tag).nclose).2) s t
      ∧ t = { s with
          regs := t.regs, slots := t.slots
          seqs := s.seqs.set q ((s.seqr q).stepped (((s.seqr q).pc + 1) % 4096)) }
      ∧ (∀ tag' n', n' < 64 → (tag', n') ≠ (tag, n) → slotAt t tag' n' = slotAt s tag' n')
      ∧ RegsKept (counterFields SEQ_ISSUE_CNT ++ counterFields TAG_EXTRA_CLOSE_CNT) s t)
    ∧ (AtInsn s q (.signal fence 1 state cen cidx tag first 1) → Answers (.signalDrain q) s fun t =>
      slotAt t tag n = ((slotAt s tag n).drain (tagEntry s tag).ndrain).1
      ∧ Counted TAG_EXTRA_DRAIN_CNT (b2n ((slotAt s tag n).drain (tagEntry s tag).ndrain).2) s t
      ∧ t = { s with
          regs := t.regs, slots := t.slots
          seqs := s.seqs.set q ((s.seqr q).stepped (((s.seqr q).pc + 1) % 4096)) }
      ∧ (∀ tag' n', n' < 64 → (tag', n') ≠ (tag, n) → slotAt t tag' n' = slotAt s tag' n')
      ∧ RegsKept (counterFields SEQ_ISSUE_CNT ++ counterFields TAG_EXTRA_DRAIN_CNT) s t)
    ∧ (AtInsn s q (.signal fence 2 state cen cidx tag first 1) → Answers (.signalSet q) s fun t =>
      slotAt t tag n = { st := SlotSt.ofCode state, closes := 0, drains := 0 }
      ∧ t = { s with
          regs := t.regs, slots := t.slots
          seqs := s.seqs.set q ((s.seqr q).stepped (((s.seqr q).pc + 1) % 4096)) }
      ∧ (∀ tag' n', n' < 64 → (tag', n') ≠ (tag, n) → slotAt t tag' n' = slotAt s tag' n')
      ∧ RegsKept (counterFields SEQ_ISSUE_CNT) s t))
  ∧ (∀ (x : Slot) (n : Nat), 1 ≤ n →
    (x.st = .empty → x.close n = ({ st := if n = 1 then .full else .filling, closes := 1, drains := 0 }, false))
    ∧ (x.st = .filling → x.close n =
        ({ st := if n ≤ x.closes + 1 then .full else .filling, closes := x.closes + 1, drains := x.drains }, false))
    ∧ (x.st = .full ∨ x.st = .draining → x.close n = (x, true))
    ∧ (x.st = .full ∨ x.st = .draining → x.drain n =
        (if n ≤ x.drains + 1 then { st := .empty, closes := 0, drains := 0 }
         else { st := .draining, closes := x.closes, drains := x.drains + 1 }, false))
    ∧ (x.st = .empty ∨ x.st = .filling → x.drain n = (x, true)))
  ∧ (∀ (s : State) (w : Staller) (a : Acq) (time : StallTime), stallerAcq s w = some a →
    (a.needs = [] → Answers (.slotStallResume w time) s (fun t => t = s) ∧ Answers (.slotReadTimeout w time) s (fun t => t = s)
      ∧ Answers (.slotWriteTimeout w time) s (fun t => t = s))
    ∧ (∀ (u : SlotUse) (us : List SlotUse), a.needs = u :: us → (slotAt s u.tag u.slot).st.admits u.write = true →
      Answers (.slotStallResume w time) s fun t =>
        ∃ r : Acq × State, t = resumeOp (putAcq r.2 w r.1) w ∧ u ∈ r.1.held ∧ r.1.late = a.late ∧ r.1.stale = a.stale
          ∧ Counted TAG_STALL_CNT (time.cycles - time.shared) s r.2
          ∧ (us = [] → r.1 = { a with needs := [], held := a.held ++ [u] }
            ∧ slotAt r.2 u.tag u.slot = (slotAt s u.tag u.slot).accessed u.write
            ∧ r.2 = { s with regs := r.2.regs, slots := r.2.slots }))
    ∧ (∀ (u : SlotUse) (us : List SlotUse), a.needs = u :: us → (slotAt s u.tag u.slot).st.admits u.write = false →
      a.limit ≤ time.cycles → (u.tag, u.slot) ∉ a.spared →
      ∀ P : State → Prop, P = (fun t =>
        ∃ r : Acq × State, t = resumeOp (spareOthers (putAcq r.2 w r.1) w (loaderAhead s) u) w
          ∧ u ∈ r.1.late ∧ (u.tag, u.slot) ∈ r.1.spared ∧ r.1.stale = (a.stale || !u.write)
          ∧ Counted TAG_STALL_CNT (time.cycles - time.shared) s r.2
          ∧ Counted (if u.write then TAG_TIMEOUT_WR_CNT else TAG_TIMEOUT_RD_CNT) 1 s r.2
          ∧ r.2.get TAG_LAST_TIMEOUT.VALID = 1 ∧ r.2.get TAG_LAST_TIMEOUT.TAG = u.tag % 2 ^ 12
          ∧ r.2.get TAG_LAST_TIMEOUT.SLOT = u.slot % 2 ^ 6 ∧ r.2.get TAG_LAST_TIMEOUT.DIR = b2n u.write
          ∧ r.2.get TAG_LAST_TIMEOUT.UNIT = a.unit % 2 ^ 8 ∧ r.2.mem = s.mem
          ∧ (us = [] → slotAt r.2 u.tag u.slot =
              if u.write then { st := .filling, closes := 0, drains := 0 } else slotAt s u.tag u.slot)) →
      (u.write = false → Answers (.slotReadTimeout w time) s P) ∧ (u.write = true → Answers (.slotWriteTimeout w time) s P)))

/-- LDS of one register, TALLY and CHECK (R72, R270, R274): the value loaded, the record written and the flag set, from what their reads of the tag deliver. -/
def Obligations.ScalarsTalliesAndChecksTakeEffect : Prop :=
  ∀ (s : State) (q : Fin 4),
    (∀ tag offset first, AtInsn s q (.lds tag offset first 1) → first < 64 →
      (tagEntry s tag).valid = true → (tagEntry s tag).rd = true → Answers (.lds q) s fun t =>
        ∀ r : Nat × State, r = tagWord (s.newOp 0) tag (Int.ofNat (offset * 4)) 4 →
          scalar t first = r.1 % 2 ^ 32
          ∧ t = { r.2 with
              regs := t.regs, seqs := r.2.seqs.set q ((r.2.seqr q).stepped (((r.2.seqr q).pc + 1) % 4096)) }
          ∧ RegsKept (SEQ_SCALAR.S first :: counterFields SEQ_ISSUE_CNT) r.2 t ∧ Counted SEQ_ISSUE_CNT 1 r.2 t)
    ∧ (∀ doff a tag offset first count d, AtInsn s q (.tally doff a tag offset first count) →
      effDesc s q doff 0 a < 4096 → descAt s (effDesc s q doff 0 a) = some d →
      (tagEntry s tag).valid = true → (tagEntry s tag).rd = true → Answers (.tally q) s fun t =>
        ∃ r : List Tally × State,
          r = readTallies d first ((if count = 0 then d.tiles else min d.tiles (first + count)) - first) (s.newOp 0)
          ∧ t = issuedNext (tagWrite r.2 (rawChan r.2 tag) (Int.ofNat (offset * 8)) (toBytes 8 (Tally.combine d.fmt r.1).encode)) q)
    ∧ (∀ tag offset cond imm attn, AtInsn s q (.check tag offset cond imm attn) →
      (tagEntry s tag).valid = true → (tagEntry s tag).rd = true → Answers (.check q) s fun t =>
        ∀ r : Nat × State, r = tagWord (s.newOp 0) tag (Int.ofNat (offset * 8)) 8 → ∀ x : Tally, x = Tally.decode r.1 →
          ∀ holds, holds = decide (cond = 0 ∧ x.ovf + x.nan ≠ 0 ∨ cond = 1 ∧ x.nan ≠ 0 ∨ cond = 2 ∧ x.stale = true
              ∨ cond = 3 ∧ x.maxexp ≥ imm ∨ cond = 4 ∧ x.maxexp < imm ∨ cond = 5 ∧ x.valid = false) →
            t = { r.2 with
                regs := t.regs, logIn := t.logIn, free := t.free
                seqs := r.2.seqs.set q { (r.2.seqr q).stepped (((r.2.seqr q).pc + 1) % 4096) with f := holds } }
            ∧ (attn = true ∧ holds = true → bit (t.get HST_ATTN.ATTN) 3 = true)
            ∧ (attn = false ∨ holds = false → RegsKept (counterFields SEQ_ISSUE_CNT) r.2 t ∧ t.logIn = r.2.logIn))

/-- A tag's recovery hook (R277): queued on the sequencer that the hook table names; taken, it pushes the next instruction's address, writes C13 and C14 and branches
to its entry; nothing else changes but the flag and the counter that go with it. -/
def Obligations.RecoveryHooksTakeEffect : Prop :=
  ∀ (s : State),
    (∀ (tag entry : Nat) (q : Fin 4) (page : Option Nat), FMap.find s.hookTable tag = some (q.val, entry) →
      (s.seqr q).hooks.length < 16 → Answers (.hookQueue tag page) s fun t =>
        t = { s with
            regs := t.regs
            seqs := s.seqs.set q { s.seqr q with
              hooks := (s.seqr q).hooks ++
                [{ entry := entry, tag := tag, page := (page.map (· % 2 ^ 32)).getD 0xFFFFFFFF }] } }
        ∧ t.flag FLT_FLAGS.DATA_LOST = true ∧ RegsKept [FLT_FLAGS.DATA_LOST] s t)
    ∧ (∀ (q : Fin 4) (h : HookReq) (rest : List HookReq), (s.seqr q).hooks = h :: rest →
      (s.seqr q).stall ≠ .other → (s.seqr q).calls.length < 8 → Answers (.hookTake q) s fun t =>
        t = { s with
            regs := t.regs
            seqs := s.seqs.set q { s.seqr q with
              hooks := rest, calls := (s.seqr q).pc :: (s.seqr q).calls, running := true, stall := .none, pc := h.entry
              frames := ((s.seqr q).calls.length + 1, !(s.seqr q).running, (s.seqr q).stall, (s.seqr q).limit) :: (s.seqr q).frames } }
        ∧ counter t q 14 = h.tag % 2 ^ 32 ∧ counter t q 13 = h.page % 2 ^ 32 ∧ Counted SEQ_HOOK_CNT 1 s t
        ∧ RegsKept (SEQ_CNT.C (q * 16 + 13) :: SEQ_CNT.C (q * 16 + 14) :: counterFields SEQ_HOOK_CNT) s t)

/-- An instruction refused for its form or its unit (R264, R280, Table 9.6) is counted, recorded in SEQ_LAST_ERR and skipped: no memory, slot or counter changes.
The model's own choices in it: log entry 60. -/
def Obligations.RefusedInstructionsAreSkipped : Prop :=
  ∀ (s : State) (q : Fin 4) (code : Nat), (s.seqr q).running = true → (s.seqr q).pc < 4096 →
    (code = 1 ∧ SeqInsn.decode (currentWord s q) = .error 1
      ∨ code = 3 ∧ SeqInsn.decode (currentWord s q) = .error 3 ∧ (∃ imm, SeqInsn.parse (currentWord s q) = some (.setc 0 false imm))
      ∨ code = 6 ∧ (∃ add imm, AtInsn s q (.setc 15 add imm))) →
    Answers (.setc q) s fun t =>
      Counted SEQ_INSN_ERR_CNT 1 s t ∧ t.get SEQ_LAST_ERR.VALID = 1 ∧ t.get SEQ_LAST_ERR.CODE = code
      ∧ t.get SEQ_LAST_ERR.SEQ = q ∧ t.get SEQ_LAST_ERR.PC = (s.seqr q).pc
      ∧ t.seqr q = { s.seqr q with pc := ((s.seqr q).pc + 1) % 4096, stall := .none }
      ∧ (s.logIn.queue.length < 64 → t.logIn.queue.length = s.logIn.queue.length + 1)
      ∧ t.mem = s.mem ∧ t.slots = s.slots ∧ (∀ n, n < 16 → counter t q n = counter s q n)

/-! The dense engine (03). -/

/-- LOADW, STREAM and DRAIN (R271): the half-issued operation that the first two record, and the operation that a DRAIN launches once the governor lets it go. A refused LOADW or
STREAM makes the operation void, and the DRAIN that finds it so is skipped without a count or log entry (R272). The command ends as a step boundary would where no step runs (R473). -/
def Obligations.DenseInstructionsTakeEffect : Prop :=
  ∀ (s : State) (q : Fin 4),
    (∀ doff w sparse hint d, AtInsn s q (.loadw doff w sparse hint) → effDesc s q doff 0 w < 4096 →
      descAt s (effDesc s q doff 0 w) = some d → sparse = d.sparse → ¬ (d.trans = true ∧ d.sparse = 2) →
      Answers (.loadw q) s fun t =>
        t = { s with
            regs := t.regs
            dense := { s.dense with pendW := some (effDesc s q doff 0 w, sparse, hint), pre := none }
            seqs := s.seqs.set q ((s.seqr q).stepped (((s.seqr q).pc + 1) % 4096)) }
        ∧ RegsKept (counterFields SEQ_ISSUE_CNT) s t ∧ Counted SEQ_ISSUE_CNT 1 s t)
    ∧ (∀ doff x hint accen acc d, AtInsn s q (.stream doff x hint accen acc) → effDesc s q doff 0 x < 4096 →
      descAt s (effDesc s q doff 0 x) = some d →
      Answers (.stream q) s fun t =>
        t = { s with
            regs := t.regs
            dense := { s.dense with pendX := some (effDesc s q doff 0 x, hint, if accen then some acc else none) }
            seqs := s.seqs.set q ((s.seqr q).stepped (((s.seqr q).pc + 1) % 4096)) }
        ∧ RegsKept (counterFields SEQ_ISSUE_CNT) s t ∧ Counted SEQ_ISSUE_CNT 1 s t)
    ∧ (∀ doff y hint cvt tied wid op typ u, AtInsn s q (.drain doff y hint cvt tied wid) → s.dense.void = false →
      effDesc s q doff 0 y < 4096 → drainOp s (effDesc s q doff 0 y) hint cvt tied wid = some op → s.dense.op = none →
      gate s q (denseWork s op) = (some typ, u) → inService s ≠ [] →
      Answers (.drain q) s fun t =>
        ∃ v, t = settle v ∧ v = issuedNext (launchDense u op typ) q ∧ v.dense.pendW = none ∧ v.dense.pendX = none
          ∧ ∃ o, v.dense.op = some o ∧ o.m = op.m ∧ o.k = op.k ∧ o.n = op.n ∧ o.plan = op.plan ∧ o.y = effDesc s q doff 0 y
            ∧ o.energy = typ)
    ∧ (∀ doff y hint cvt tied wid, AtInsn s q (.drain doff y hint cvt tied wid) → s.dense.void = true →
      Answers (.drain q) s fun t =>
        t = settle { s with
            dense := { s.dense with pendW := none, pendX := none, void := false, pre := none }
            seqs := s.seqs.set q { s.seqr q with pc := ((s.seqr q).pc + 1) % 4096, stall := .none } })
    ∧ (∀ doff w sparse hint, AtInsn s q (.loadw doff w sparse hint) →
      (4096 ≤ effDesc s q doff 0 w ∨ descAt s (effDesc s q doff 0 w) = none
        ∨ ∃ d, descAt s (effDesc s q doff 0 w) = some d ∧ (sparse ≠ d.sparse ∨ d.trans = true ∧ d.sparse = 2)) →
      Answers (.loadw q) s fun t => t.dense = { s.dense with void := true } ∧ t.mem = s.mem)
    ∧ (∀ doff x hint accen acc, AtInsn s q (.stream doff x hint accen acc) →
      4096 ≤ effDesc s q doff 0 x ∨ descAt s (effDesc s q doff 0 x) = none →
      Answers (.stream q) s fun t => t.dense = { s.dense with void := true } ∧ t.mem = s.mem)

/-- The operation that a DRAIN describes (R76, R77, R271): its operands' classes, its sizes, the depth of a pass, and the accumulator tag that more than one chunk needs. -/
def Obligations.DrainDescribesItsOperation : Prop :=
  ∀ (s : State) (y hint cvt : Nat) (tied : Bool) (wid : Nat) (op : DenseOp), drainOp s y hint cvt tied wid = some op →
    ∃ w sparse hw x hx acc dw dx dy,
      s.dense.pendW = some (w, sparse, hw) ∧ s.dense.pendX = some (x, hx, acc)
      ∧ descAt s w = some dw ∧ descAt s x = some dx ∧ descAt s y = some dy
      ∧ dw.cls = 1 ∧ dx.cls = 0 ∧ dy.cls = 2
      ∧ op.m = (if dx.trans then dx.d0.size else dx.d1.size) ∧ op.k = (if dx.trans then dx.d1.size else dx.d0.size)
      ∧ op.n = (if dw.trans then dw.d1.size else dw.d0.size) ∧ op.k = (if dw.trans then dw.d0.size else dw.d1.size)
      ∧ dy.d1.size = op.m ∧ dy.d0.size = op.n
      ∧ op.depth = 192 * min (density dw.fmt) (density dx.fmt) * (if sparse = 0 then 1 else 2)
      ∧ (op.depth < op.k → ∃ t, acc = some t ∧ (tagEntry s t).valid = true ∧ (tagEntry s t).place = 2)
      ∧ op.tied = (if tied then some wid else none)

/-- The passes of an operation (R79): each covers at most 192 columns for each panel in service and one chunk, and every column meets every chunk in exactly one pass. -/
def Obligations.PassesMeetEveryColumnAndChunkOnce : Prop :=
  ∀ (panels : List Nat) (n chunks : Nat), panels ≠ [] →
    (∀ p ∈ passesOf panels n (List.range chunks) (n + 1) 0 0,
      p.ncols ≤ 192 * panels.length ∧ p.col0 + p.ncols ≤ n ∧ p.chunk < chunks ∧ p.panels = panels)
    ∧ (∀ c k, c < n → k < chunks →
      (passesOf panels n (List.range chunks) (n + 1) 0 0).countP
        (fun p => decide (p.col0 ≤ c) && decide (c < p.col0 + p.ncols) && p.chunk == k) = 1)

/-- WEIGHT_LOAD (R80, R82 to R84): where the running operation has a pass that the panel has still to load and the panel's idle buffer is free, the buffer is filled with the panel's columns of that
pass, once the slots of W admit the reading; where it has none left and streams no more passes, the buffer is filled for the half-issued operation. A panel out of service, and a panel of which no buffer is free, load nothing.
DENSE_PASS (R79, R82, R87, R88, R97): when every panel of the next pass that is in service has its weights and the slots of X admit the reading, all rows of X stream over the pass's chunk: each such panel gets one
check tile for every 32 rows, in order, with those rows and its weights; the cycles that advanced, froze and waited are counted. Until then the pass does not stream.
The model's own choices in it: log entries 35, 39, 40, 170. -/
def Obligations.WeightLoadsAndPassesTakeEffect : Prop :=
  (∀ (s u : State) (panel : Fin 4), u = s.inOp 1 →
    (s.dense.op = none → Answers (.weightLoad panel) s fun t => t = u)
    ∧ (∀ (op : DenseOp) (x : Pass), s.dense.op = some op → nextLoad op panel = some x →
      (op.acqW.needs = [] → bufferFree s op panel x = true → s.get (panelField panel) ≠ 2 → Answers (.weightLoad panel) s fun t =>
        ∃ (a : Acq × State) (l : Load × State), a = acquire u op.acqW (weightUses u op x.chunk (panelCols x panel).1 (panelCols x panel).2)
          ∧ (a.1.needs ≠ [] → t = setDense a.2 { a.2.dense with op := some { op with acqW := a.1 } })
          ∧ (a.1.needs = [] → l = loadWeights a.2 { op with acqW := a.1 } x.no x.chunk (panelCols x panel).1 (panelCols x panel).2
            ∧ l.1.pass = x.no ∧ l.1.chunk = x.chunk ∧ l.1.col0 = (panelCols x panel).1
            ∧ l.1.cols.length = (panelCols x panel).2 - (panelCols x panel).1
            ∧ t = setDense l.2 { l.2.dense with op := some { op with
                acqW := a.1, loads := FMap.put op.loads panel ((FMap.find op.loads panel).getD [] ++ [l.1]) } }))
      ∧ (op.acqW.needs ≠ [] ∨ bufferFree s op panel x = false ∨ s.get (panelField panel) = 2 →
        Answers (.weightLoad panel) s fun t => t = u))
    ∧ (∀ (op new : DenseOp) (x : Pass), s.dense.op = some op → nextLoad op panel = none → op.plan = [] → op.deferred = [] →
      onePassOpen s = true → s.dense.void = false → s.get (panelField panel) ≠ 2 → s.dense.pre = none → preloadOp u = some new →
      nextLoad new panel = some x → x.no = 0 → Answers (.weightLoad panel) s fun t =>
        ∃ r : DenseOp × State, r = fillBuffer (u.newOp 1) new panel x ∧ t = setDense r.2 { r.2.dense with pre := some r.1 }))
  ∧ (∀ (s : State) (op : DenseOp) (feed drain both wait : Nat) (x : Pass) (rest : List Pass), s.dense.op = some op → op.plan = x :: rest →
    ∀ (live : List Nat) (loadOf : Nat → Option Load), live = x.panels.filter (fun p => s.get (panelField p) != 2) →
      (∀ p, loadOf p = ((FMap.find op.loads p).getD []).find? (fun l => l.pass == x.no)) →
      (op.frozen = false → (∀ p ∈ live, (loadOf p).isSome = true) → Answers (.densePass feed drain both wait) s fun t =>
        ∃ (a : Acq × State) (r : List (List Val) × State) (tiles : List CheckTile) (v : State),
          a = acquire (s.inOp 1) op.acqX (rowUses (s.inOp 1) op x.chunk 0 op.m)
          ∧ (a.1.needs ≠ [] → t = setDense a.2 { a.2.dense with op := some { op with acqX := a.1 } })
          ∧ (a.1.needs = [] → r = readRows a.2 { op with acqX := a.1 } x.chunk 0 op.m
            ∧ v = setDense r.2 { r.2.dense with
                tiles := r.2.dense.tiles ++ tiles
                op := some { op with
                  acqX := a.1, plan := rest, streams := op.streams + 1
                  loads := op.loads.map (fun l => (l.1, l.2.filter (fun y => y.pass != x.no))) } }
            ∧ tiles.map (fun u => (u.row0, u.panel)) = (List.range (ceilDiv op.m 32)).flatMap (fun i => live.map (fun p => (i * 32, p)))
            ∧ (∀ u ∈ tiles, some u.load = loadOf u.panel ∧ u.rows = (r.1.drop u.row0).take (min 32 (op.m - u.row0)) ∧ u.stream = op.streams
              ∧ u.attempt = 1 ∧ u.inject = 0 ∧ u.again = false ∧ u.outs = none)
            ∧ t = countFreeze ((v.count DNS_BUSY_CNT op.m).count DNS_WLOAD_WAIT_CNT wait) feed drain both
            ∧ Counted DNS_BUSY_CNT op.m v t ∧ Counted DNS_WLOAD_WAIT_CNT wait v t ∧ Counted DNS_FREEZE_CNT (feed + drain + both) v t
            ∧ Counted DNS_FREEZE_FEED_CNT (feed + both) v t ∧ Counted DNS_FREEZE_DRAIN_CNT (drain + both) v t))
      ∧ (op.frozen = true ∨ (∃ p ∈ live, loadOf p = none) →
        Answers (.densePass feed drain both wait) s fun t => t = s.inOp 1))

/-- CHECK_TILE_COMPLETE (R97 to R100, R106, Table 3.7): the oldest unjudged check tile of a panel fails when a failure is injected into it, and else passes exactly when every row is within its tolerance, or its weights have metadata that breaks its rules and no output was upset. One that passes
leaves the engine in turn, and on its first attempt lengthens the run of a SUSPECT panel, whose full run makes it GOOD. A failure is counted and recorded, and by attempt and panel state the tile is streamed again, the panel
becomes SUSPECT, or it is retired. With no tile to judge, those that wait leave as far as they may.
The model's own choices in it: log entries 33, 36, 136. -/
def Obligations.CheckTilesAreJudged : Prop :=
  ∀ (s u : State) (panel : Fin 4) (upsets : List (Nat × Nat × BitVec 48)),
    u = setDense (s.inOp 1) { s.dense with retiredNow := 0 } →
    Answers (.checkTileComplete panel upsets) s fun t => ∃ v, t = setDense (settle v) { (settle v).dense with retiredNow := 0 } ∧
      (s.dense.tiles.find? (fun t => t.panel == panel.val && !t.again && t.outs.isNone) = none → v = deliverAll u)
      ∧ (∀ (c : CheckTile) (armed inject : Nat) (passes : Bool),
        s.dense.tiles.find? (fun t => t.panel == panel.val && !t.again && t.outs.isNone) = some c →
        armed = (match s.dense.inject with | some x => if x.1 = panel.val ∧ c.attempt = 1 then x.2 else 0 | none => 0) →
        inject = (if armed = 0 then c.inject else armed) →
        passes = ((c.load.odd && upsets.isEmpty) || (c.rows.zip (tileOutputs c upsets).1).zipIdx.all (fun r =>
          rowPasses (tolShift s) (s.free * 32 + r.2) r.1.1 r.1.2
            (checkSums c.load.cols ((c.rows.head?.map (·.length)).getD 0)).1
            (checkSums c.load.cols ((c.rows.head?.map (·.length)).getD 0)).2)) →
        (inject = 0 → passes = true → ∃ w, v = deliverAll (putTile w { c with outs := some (tileOutputs c upsets).1 })
          ∧ w.dense = { u.dense with passRun := w.dense.passRun } ∧ w.mem = s.mem ∧ w.slots = s.slots
          ∧ ∀ n, n = (FMap.find s.dense.passRun panel).getD 0 + 1 →
            if c.attempt = 1 ∧ s.get (panelField panel) = 1 then
              if n ≥ 2 ^ min 40 (s.held DNS_CHECK_CFG.SUSPECT_CLEAR) then
                w.get (panelField panel) = 0 ∧ w.dense.passRun = FMap.del s.dense.passRun panel
              else w.get (panelField panel) = 1 ∧ w.dense.passRun = FMap.put s.dense.passRun panel n
            else w.get (panelField panel) = s.get (panelField panel) ∧ w.dense.passRun = s.dense.passRun)
        ∧ (0 < inject ∨ passes = false →
          Counted (mismatchField panel) 1 s v ∧ v.get DNS_LAST_MISMATCH.PANEL = panel
          ∧ v.flag DNS_LAST_MISMATCH.VALID = true ∧ v.flag DNS_LAST_MISMATCH.INJECTED = decide (0 < inject)
          ∧ v.get DNS_LAST_MISMATCH.ROW = c.row0 % 2 ^ 24 ∧ v.mem = s.mem
          ∧ (c.attempt = 1 → v.get (panelField panel) = s.get (panelField panel)
            ∧ v.dense.tiles = s.dense.tiles.map (fun x => if sameTile c x then { c with inject := inject - 1, again := true } else x))
          ∧ (c.attempt = 2 → s.get (panelField panel) = 0 → v.get (panelField panel) = 1
            ∧ v.dense.tiles = s.dense.tiles.map (fun x => if sameTile c x then { c with inject := inject - 1, again := true } else x))
          ∧ (c.attempt ≠ 1 → (c.attempt = 2 → s.get (panelField panel) ≠ 0) →
            v.get (panelField panel) = 2 ∧ ∀ x ∈ v.dense.tiles, x.panel = panel.val → x.outs.isSome = true)))

/-- RECOMPUTE_TILE (R87, R88, R100, R101): while the engine is not frozen, the rows of the panel's oldest failed check tile stream again for every panel whose tile of those rows of that stream failed; each of these begins its next
attempt. The recomputation and its cycles are counted, and nothing else changes. With no failed tile, or in a frozen engine, nothing changes.
DEFERRED_PASS and DENSE_OP_COMPLETE (R31, R83, R85, R102, R208): a retired panel's columns are loaded onto the lowest panel in service and the rows that it still owed stream there, once its buffer is idle and the slots
admit the reading. An operation that has streamed all passes and has no check tile left ends: it is counted, its slots are left, its energy is done. How long either was held is free. Neither changes anything before it may.
PANEL_RETIRE, PANEL_REVIVE and CHECK_INJ (R106, R107): asked for during a step, a panel's retirement or revival waits for its boundary; there, RETIRE makes the panel RETIRED, and REVIVE makes a
RETIRED one SUSPECT unless hardware has just retired it or RETIRE is asked too; an injection replaces the one that waits, and COUNT 0 cancels it.
The model's own choices in it: log entries 35, 38, 134, 135, 147, 169. -/
def Obligations.DenseOperationsAndPanelsTakeEffect : Prop :=
  (∀ (s : State) (r : Restream),
    (∀ (op : DenseOp) (c : CheckTile), s.dense.op = some op → op.frozen = false →
      s.dense.tiles.find? (fun t => t.panel == r.panel.val && t.again) = some c →
      Answers (.recomputeTile r) s fun t =>
        t = { s with
            regs := t.regs
            dense := { s.dense with tiles := s.dense.tiles.map (fun u =>
              if u.again = true ∧ u.row0 = c.row0 ∧ u.stream = c.stream then
                { u with again := false, attempt := u.attempt + 1 } else u) } }
        ∧ RegsKept (counterFields DNS_RECOMPUTE_CNT ++ counterFields DNS_BUSY_CNT ++ counterFields DNS_FREEZE_CNT
          ++ counterFields DNS_FREEZE_FEED_CNT ++ counterFields DNS_FREEZE_DRAIN_CNT) s t
        ∧ Counted DNS_RECOMPUTE_CNT 1 s t ∧ Counted DNS_BUSY_CNT c.rows.length s t ∧ Counted DNS_FREEZE_CNT (r.feed + r.drain + r.both) s t
        ∧ Counted DNS_FREEZE_FEED_CNT (r.feed + r.both) s t ∧ Counted DNS_FREEZE_DRAIN_CNT (r.drain + r.both) s t)
    ∧ (s.dense.op = none ∨ s.dense.tiles.find? (fun t => t.panel == r.panel.val && t.again) = none
        ∨ (∃ op, s.dense.op = some op ∧ op.frozen = true) →
      Answers (.recomputeTile r) s fun t => t = s))
  ∧ (∀ (s u : State) (op : DenseOp), u = s.inOp 1 → s.dense.op = some op →
    (∀ (p : Nat) (ps : List Nat) (l : Deferred) (rest : List Deferred) (xs ws : List SlotUse),
      inService u = p :: ps → op.deferred = l :: rest → op.plan = [] → op.frozen = false → op.acqW.needs = [] →
      idleBuffer s op = true → xs = l.rows.flatMap (fun r => rowUses u op l.chunk r (min 32 (op.m - r))) →
      ws = weightUses u op l.chunk l.col0 l.col1 → Answers .deferredPass s fun t =>
        ∀ a b : Acq × State, a = askSlots u op.acqX xs → b = askSlots a.2 op.acqW ws →
          (a.1.needs ≠ [] ∨ b.1.needs ≠ [] → t = setDense b.2 { b.2.dense with op := some { op with acqX := a.1, acqW := b.1 } })
          ∧ (a.1.needs = [] → b.1.needs = [] → ∃ (x w : State) (tiles : List CheckTile),
            MemoryOnly (countForeign (countForeign b.2 a.1.unit xs) b.1.unit ws) x
            ∧ w = setDense x { x.dense with
                op := some { op with acqX := a.1, acqW := b.1, deferred := rest, streams := op.streams + 1 }
                tiles := x.dense.tiles ++ tiles }
            ∧ tiles.map (·.row0) = l.rows
            ∧ (∀ c ∈ tiles, c.panel = p ∧ c.load.chunk = l.chunk ∧ c.load.col0 = l.col0 ∧ c.rows.length = min 32 (op.m - c.row0)
              ∧ c.load.cols.length = l.col1 - l.col0 ∧ c.stream = op.streams ∧ c.attempt = 1 ∧ c.outs = none)
            ∧ t = countHeld (w.count DNS_BUSY_CNT (tiles.foldl (fun n c => n + c.rows.length) 0))))
    ∧ (op.deferred = [] ∨ op.plan ≠ [] ∨ op.frozen = true ∨ op.acqW.needs ≠ [] ∨ idleBuffer s op = false
        ∨ inService u = [] → Answers .deferredPass s fun t => t = u)
    ∧ (op.plan = [] → op.deferred = [] → s.dense.tiles = [] → op.frozen = false → op.acqW.needs = [] →
      Answers .denseOpComplete s fun t =>
        ∃ v w f drain, v = finishAcq (finishAcq (finishAcq u op.acqX) op.acqW) op.acqY
          ∧ w = setDense v { v.dense with op := none, opTotal := v.dense.opTotal + 1 }
          ∧ f = w.fresh ∧ drain = Config.heldCycles f.1 1
          ∧ t = noteDone (countFreeze ((f.2.count DNS_OP_CNT 1).count DNS_BUSY_CNT 396) 0 drain 0) op.energy
          ∧ Counted DNS_OP_CNT 1 w t ∧ Counted DNS_BUSY_CNT 396 w t ∧ Counted DNS_FREEZE_CNT drain w t ∧ Counted DNS_FREEZE_DRAIN_CNT drain w t
          ∧ t.cad.done = w.cad.done + op.energy ∧ t.mem = s.mem ∧ t.slots = v.slots)
    ∧ (op.plan ≠ [] ∨ op.deferred ≠ [] ∨ s.dense.tiles ≠ [] ∨ op.frozen = true ∨ op.acqW.needs ≠ [] →
      Answers .denseOpComplete s fun t => t = u))
  ∧ (∀ (s : State) (panel : Fin 4),
    (Answers (.panelRetire panel) s fun t =>
      t = settle { s with dense := { s.dense with retireReq := s.dense.retireReq ||| 2 ^ panel.val } })
    ∧ (Answers (.panelRevive panel) s fun t =>
      t = settle { s with dense := { s.dense with reviveReq := s.dense.reviveReq ||| 2 ^ panel.val } })
    ∧ (s.step.running = true → settle s = s)
    ∧ (∀ count, Answers (.checkInj panel count) s fun t =>
      t = { s with dense := { s.dense with inject := if count % 4 = 0 then none else some (panel.val, count % 4) } })
    ∧ (bit s.dense.retireReq panel = true → s.get (panelField panel) ≠ 2 →
      (panelControl s panel).get (panelField panel) = 2 ∧ bit ((panelControl s panel).get HST_ATTN.ATTN) 1 = true
        ∧ (panelControl s panel).flag FLT_FLAGS.PANEL_RETIRED = true)
    ∧ (bit s.dense.retireReq panel = false → bit s.dense.reviveReq panel = true → s.get (panelField panel) = 2 →
      (panelControl s panel).get (panelField panel) = (if bit s.dense.retiredNow panel then 2 else 1)))

/-! The drover (04, 05, 12). -/

/-- Every function of GSM, VEC and ROUTE (R118, R119, R273, Table 4.7): an instruction that its unit accepts and the governor lets go is issued; its operation starts when none runs, and
waits to start when one does. Nothing is read or written yet, but for a SELECT_SEND under host allocation, which asks for its allocation as it starts. -/
def Obligations.DroverOperationsAreLaunched : Prop :=
  ∀ (s : State) (q : Fin 4) (op : DrvOp) (c : Instr) (typ : Nat) (u : State),
    ((∃ f, (op.func, c) ∈ fnCommands q ∧ op = opOfFields s q f ∧ AtInsn s q (if op.func < 0x40 then .vec f else .gsm f))
      ∨ (∃ f, (op.subop, c) ∈ routeCommands q ∧ op = opOfRoute s q f ∧ AtInsn s q (.route f))) →
    (∀ n ∈ op.readNums ++ op.writeNums, (namedDesc s n).isSome = true) → (isUpdate op.func = true → op.s1 ≤ 56) →
    drvOk op (op.readNums.filterMap (namedDesc s)) (op.writeNums.filterMap (namedDesc s)) = true →
    s.drv.wait = none → gate s q (drvWork s op) = (some typ, u) →
    Answers c s fun t =>
      (s.drv.run = none → ∃ v, v = startDrv u { op with energy := typ }
        ∧ t = issuedNext (if op.func = 0x46 then routeBegin v else v) q
        ∧ (∃ o, v.drv.run = some o ∧ o.func = op.func ∧ o.a = op.a ∧ o.b = op.b ∧ o.c = op.c ∧ o.d = op.d
          ∧ o.subop = op.subop ∧ o.cvt = op.cvt ∧ o.energy = typ ∧ o.part = 0)
        ∧ v.get DRV_STATUS.FUNC = op.func ∧ v.mem = s.mem ∧ v.memory = s.memory ∧ v.descs = s.descs
        ∧ (hostAllocates s op = false → t = issuedNext v q ∧ t.seqr q = (s.seqr q).stepped (((s.seqr q).pc + 1) % 4096)))
      ∧ (s.drv.run ≠ none → t = issuedNext (setDrv u { s.drv with wait := some { op with energy := typ } }) q
        ∧ t.slots = s.slots ∧ t.mem = s.mem ∧ t.memory = s.memory ∧ t.descs = s.descs
        ∧ t.seqr q = (s.seqr q).stepped (((s.seqr q).pc + 1) % 4096))

/-- DROVER_OP_COMPLETE (R118, R208): the parts of an operation that may act are done in turn, each with its function's effect, as far as their slots admit them. When they are all done, and no close message waits for the operation's rows to be accepted, the operation is counted, its slots are left
and the operation that waits starts. One that is stalled on a slot, or that waits for the host's allocation, does nothing.
The model's own choices in it: log entries 43, 175, 176. -/
def Obligations.DroverOperationsComplete : Prop :=
  ∀ (s : State) (cycles : Nat),
    (drvReady s = none ∨ (∃ op, drvReady s = some op ∧ awaitsHost s op = true) → Answers (.droverOpComplete cycles) s fun t => t = s)
    ∧ (∀ op : DrvOp, drvReady s = some op → awaitsHost s op = false → Answers (.droverOpComplete cycles) s fun t =>
      ∃ e, e = walkParts drvEffect (drvParts s op) (s.inOp 2)
        ∧ (drvReady e = none ∨ closesDue e = true ∨ (∃ o, drvReady e = some o ∧ o.part < drvParts e o) → t = e)
        ∧ (∀ o, drvReady e = some o → drvParts e o ≤ o.part → closesDue e = false → ∃ f v, f = finishAcq e o.acq ∧ t = startWaiting v
          ∧ v = { f with
              regs := v.regs
              drv := { f.drv with run := none, opTotal := f.drv.opTotal + 1, posted := none, alloc := none }
              cad := { f.cad with done := f.cad.done + o.energy } }
          ∧ v.mem = e.mem ∧ Counted DRV_OP_CNT 1 f v ∧ Counted DRV_BUSY_CNT cycles f v
          ∧ RegsKept (counterFields DRV_OP_CNT ++ counterFields DRV_BUSY_CNT) f v
          ∧ (f.drv.wait = none → t = v) ∧ (∀ w, f.drv.wait = some w → ∃ o, t.drv.run = some o ∧ o.func = w.func)))

/-- The element-wise functions (R46, R142, Table 4.7) on values of their lanes, what they do with NaN and zeros, and that NOP does nothing.
The special values of the special functions (R143, Table 4.5), whatever an implementation's results within the stated accuracy are.
SOFTMAX's special rules (R145): a row all −infinity yields +0 in every element; one with a NaN or a +infinity yields NaN in every element.
The model's own choices in it: log entries 44, 45, 137, 138, 146, 171, 172, 173, 174, 177. -/
def Obligations.LaneFunctionsAreExact : Prop :=
  (∀ (s1 s2 a b c : Val) (fn : Nat → Val), (∀ f, fn f = (elemFn f s1 s2 a b c).1) →
    fn 0x01 = round32 (Val.add a b) ∧ fn 0x02 = round32 (Val.sub a b) ∧ fn 0x03 = round32 (Val.mul a b)
    ∧ fn 0x04 = Val.add (Val.mul a b) c ∧ fn 0x05 = round32 (Val.add (round32 (Val.mul s1 a)) (round32 (Val.mul s2 b)))
    ∧ fn 0x08 = a.abs ∧ fn 0x0B = a
    ∧ (c.isZero = true → fn 0x09 = b) ∧ (c.isZero = false → fn 0x09 = a)
    ∧ (a.isNan = false → (fn 0x0A).isNan = false ∧ Val.lt (fn 0x0A) .zero = false)
    ∧ (a.isNan = true → (fn 0x0A).isNan = true)
    ∧ (a.isNan = false → b.isNan = false →
        Val.lt (fn 0x06) a = false ∧ Val.lt (fn 0x06) b = false ∧ Val.lt a (fn 0x07) = false ∧ Val.lt b (fn 0x07) = false
        ∧ (fn 0x06 = a ∨ fn 0x06 = b) ∧ (fn 0x07 = a ∨ fn 0x07 = b))
    ∧ (a.isNan = true ∨ b.isNan = true → (fn 0x06).isNan = true ∧ (fn 0x07).isNan = true)
    ∧ (∀ (op : DrvOp) (s : State), op.func = 0 → drvEffect op s = s))
  ∧ ((∀ code, special code .nan = .nan)
  ∧ (∀ s e, special 0x10 (.fin s 0 e) = .inf s ∧ special 0x10 (.inf s) = .fin s 0 0)
  ∧ (∀ s e, special 0x11 (.fin s 0 e) = .inf s) ∧ (∀ m e, m ≠ 0 → special 0x11 (.fin true m e) = .nan)
  ∧ (∀ e, special 0x12 (.fin true 0 e) = .fin true 0 e) ∧ (∀ m e, m ≠ 0 → special 0x12 (.fin true m e) = .nan)
  ∧ special 0x13 (.inf true) = .zero ∧ special 0x13 (.inf false) = .inf false
  ∧ (∀ s e, special 0x14 (.fin s 0 e) = .inf true) ∧ (∀ m e, m ≠ 0 → special 0x14 (.fin true m e) = .nan)
  ∧ special 0x14 (.inf false) = .inf false
  ∧ special 0x15 (.inf false) = .one ∧ special 0x15 (.inf true) = Val.one.neg
  ∧ special 0x16 (.inf true) = .zero ∧ special 0x16 (.inf false) = .one
  ∧ special 0x17 (.inf true) = .fin true 0 0 ∧ special 0x17 (.inf false) = .inf false
  ∧ special 0x18 (.inf true) = .fin true 0 0 ∧ special 0x18 (.inf false) = .inf false)
  ∧ (∀ xs : List Val,
    ((∀ x ∈ xs, x = .inf true) → (softmaxRow xs).1 = xs.map (fun _ => .zero))
    ∧ (Val.nan ∈ xs → (softmaxRow xs).1 = xs.map (fun _ => .nan))
    ∧ (Val.inf false ∈ xs → (softmaxRow xs).1 = xs.map (fun _ => .nan)))

/-- Host-allocated dispatch (R165, R166): a SELECT_SEND that may act asks for the slots of its scores, and once they admit it reads its scores, counts its demand into the demand tag under the next sequence number and waits. A matching
ROUTE_ALLOC_GO lets it decide under the allocation; any other is only counted. After the wait ROUTE_ALLOC_TIMEOUT lets it decide under the image's quotas, counted and logged; before, it changes nothing.
The model's own choices in it: log entry 49. -/
def Obligations.HostAllocationTakesEffect : Prop :=
  ∀ (s : State),
    (∀ (op : DrvOp) (tag alloc : Nat) (a : Acq × State), s.drv.run = some op → op.acq.needs = [] → hostAllocates s op = true →
      s.drv.posted = none → s.drv.alloc = none → allocTags s = some (tag, alloc) →
      a = acquire s op.acq (descUses s (opDesc s op.a) false) →
      (a.1.needs ≠ [] → routeBegin s = setRun a.2 { op with acq := a.1 })
      ∧ (a.1.needs = [] → ∀ (n : Nat) (d : Desc) (u r v : State) (x : FMap (List Val) × State), n = (s.get DRV_ROUTE_STATUS.SEQ + 1) % 2 ^ 16 →
        d = opDesc s op.a → u = (a.2.inOp 2).set DRV_ROUTE_STATUS.SEQ n →
        x = readTiles op.func d (op.chan d op.a) ((List.range d.tiles).map d.posOf) u →
        r = setRun x.2 { op with acq := a.1, got := { tiles := x.1, sectors := [] } } →
        v = tagWrite r (rawChan r tag) 0 ((demand { op with acq := a.1 } d x.1).flatMap (fun k => toBytes 8 (k % 2 ^ 32 + n * 2 ^ 32))) →
        routeBegin s = setDrv v { v.drv with posted := some v.tick } ∧ u.get DRV_ROUTE_STATUS.SEQ = n))
    ∧ (∀ (tick : Nat) (seq : BitVec 16), s.drv.posted = some tick → s.drv.alloc = none → seq.toNat = s.get DRV_ROUTE_STATUS.SEQ →
      Answers (.routeAllocGo seq) s fun t =>
        t = { s with drv := { s.drv with alloc := some true }, host := t.host } ∧ demandPosted t = false)
    ∧ (∀ seq : BitVec 16, s.drv.posted = none ∨ s.drv.alloc ≠ none ∨ seq.toNat ≠ s.get DRV_ROUTE_STATUS.SEQ →
      Answers (.routeAllocGo seq) s fun t =>
        t = { s with regs := t.regs } ∧ RegsKept (counterFields DRV_ROUTE_ALLOC_STALE_CNT) s t
        ∧ Counted DRV_ROUTE_ALLOC_STALE_CNT 1 s t)
    ∧ (∀ tick : Nat, s.drv.posted = some tick → s.drv.alloc = none →
      tick + max 1 (s.held DRV_ROUTE_CFG.ALLOC_WAIT) * 1024 ≤ s.tick → Answers .routeAllocTimeout s fun t =>
        t = { s with
            regs := t.regs, logIn := t.logIn, free := t.free, host := t.host, drv := { s.drv with alloc := some false } }
        ∧ Counted DRV_ROUTE_ALLOC_TIMEOUT_CNT 1 s t
        ∧ (s.logIn.queue.length < 64 → t.logIn.queue.length = s.logIn.queue.length + 1))
    ∧ ((∀ tick : Nat, s.drv.posted = some tick → s.drv.alloc = none →
        s.tick < tick + max 1 (s.held DRV_ROUTE_CFG.ALLOC_WAIT) * 1024) →
      Answers .routeAllocTimeout s fun t => t = s)

/-! Descriptors, tags and memory (06, 07, 08). -/

/-- DESC_COMMIT and DESC_VALIDATE_DONE (R195, R196, Table 6.8): a commit takes the staged words unless one is being validated; a valid descriptor is installed when no step runs and held for
the boundary when one does, and an invalid one is refused with its code, counted and logged. -/
def Obligations.DescriptorCommitsTakeEffect : Prop :=
  ∀ (s : State),
    (∀ n : BitVec 12, s.commitNow = none → Answers (.descCommit n) s fun t =>
      t = { s with
          regs := t.regs
          commitNow := some (n.toNat, (List.range 8).map (fun i => s.get (SEQ_DESC_DATA.WORD i))) }
      ∧ t.get SEQ_DESC_RESULT.NUMBER = n.toNat ∧ t.get SEQ_DESC_RESULT.PENDING = 0
      ∧ RegsKept [SEQ_DESC_RESULT.NUMBER, SEQ_DESC_RESULT.PENDING] s t)
    ∧ (∀ n : BitVec 12, s.commitNow.isSome = true → Answers (.descCommit n) s fun t => t = s)
    ∧ (∀ (n : Nat) (ws : List Nat), s.commitNow = some (n, ws) →
        Answers .descValidateDone s fun t =>
          t.commitNow = none ∧ t.get SEQ_DESC_RESULT.VALID = 1
          ∧ (∀ code, code = (Desc.ofWords ws).refusal (tagEntry s) → code < 15 →
            (code = 0 → s.step.running = false →
              t = { s with regs := t.regs, commitNow := none, descs := FMap.put s.descs n ws } ∧ t.get SEQ_DESC_RESULT.CODE = 0)
            ∧ (code = 0 → s.step.running = true → (s.commits.filter (fun c => c.1 != n)).length < 64 →
              t = { s with
                  regs := t.regs, commitNow := none, commits := s.commits.filter (fun c => c.1 != n) ++ [(n, ws)] }
              ∧ t.get SEQ_DESC_RESULT.CODE = 0 ∧ t.get SEQ_DESC_RESULT.PENDING = 1)
            ∧ (code = 0 → s.step.running = true → 64 ≤ (s.commits.filter (fun c => c.1 != n)).length →
              t.descs = s.descs ∧ t.commits = s.commits ∧ t.get SEQ_DESC_RESULT.CODE = 15
              ∧ Counted SEQ_DESC_REFUSED_CNT 1 s t)
            ∧ (code ≠ 0 → t.descs = s.descs ∧ t.commits = s.commits ∧ t.get SEQ_DESC_RESULT.CODE = code
              ∧ Counted SEQ_DESC_REFUSED_CNT 1 s t)))

/-- The bytes of a tag whose slices hold them have distinct addresses within its memory (R201). -/
def Obligations.AddressesOfATagAreDistinct : Prop :=
  ∀ (e : TagEntry), e.place = 0 → e.firstSlice + 2 ^ e.span ≤ 64 → e.base * 4096 + e.bytes / 2 ^ e.span + 2048 ≤ 0x400000 →
    ∀ b b', b < e.bytes → b' < e.bytes →
      (e.addr b = e.addr b' → b = b') ∧ scratchBase ≤ e.addr b ∧ e.addr b < scratchBase + scratchBytes

/-- An access that its tag does not allow, through a channel that was not checked before (R191, R192): a read delivers zeros, a write is discarded, and each is counted.
What is written to an accumulator-buffer tag is what a read of it delivers while no error stands in the memories, and no other byte of memory changes (R191, R201). -/
def Obligations.TagAccessesAreServedOrDropped : Prop :=
  (∀ (s : State) (c : Chan) (off : Int) (n : Nat) (bs : List Byte), c.prot = false →
    ((tagEntry s c.tag).allows false off n = false → (tagRead s c off n).1 = List.replicate n 0
      ∧ (tagRead s c off n).2.mem = s.mem ∧ Counted TAG_PROT_ERR_CNT 1 s (tagRead s c off n).2)
    ∧ ((tagEntry s c.tag).allows true off bs.length = false → (tagWrite s c off bs).mem = s.mem
      ∧ (tagWrite s c off bs).memory = s.memory ∧ Counted TAG_PROT_ERR_CNT 1 s (tagWrite s c off bs)))
  ∧ (∀ (s : State) (c : Chan) (off : Nat) (bs : List Byte), (tagEntry s c.tag).place = 2 → s.upsets = [] →
    (tagEntry s c.tag).allows true off bs.length = true → (tagEntry s c.tag).rd = true →
    (tagRead (tagWrite s c off bs) c off bs.length).1 = bs
    ∧ (∀ a, (∀ i, i < bs.length → a ≠ (tagEntry s c.tag).addr (off + i)) → cellAt (tagWrite s c off bs).mem a = cellAt s.mem a)
    ∧ tagWrite s c off bs = { s with mem := (tagWrite s c off bs).mem })

/-- A read of stack memory within a line, other than under LAST, delivers the bytes as they are and leaves every byte as it was, whatever the cache evicts for it, where no error strikes and nothing else is under way for
the line (R231, R239). -/
def Obligations.ReadsLeaveEveryByte : Prop :=
  ∀ (s : State) (ch : Nat) (h : Hint) (a n : Nat), cacheInOrder s = true → lineQuiet s (lineOf a) = true → effHint s h ≠ .last →
    a + n ≤ stackBytes → a % 2048 + n ≤ 2048 →
    (lineRead s ch h a n).1 = (List.range n).map (fun i => byteAt s (a + i))
    ∧ (∀ b, byteAt (lineRead s ch h a n).2 b = byteAt s b) ∧ cacheInOrder (lineRead s ch h a n).2 = true

/-- A write of stack memory within a line changes exactly the bytes it writes, whatever its hint and whatever the cache evicts for it, where no error strikes and nothing else is under way for the line; to a page out of
service it changes nothing (R231, R239, R251).
The model's own choices in it: log entry 55. -/
def Obligations.WritesChangeTheirBytesAlone : Prop :=
  ∀ (s : State) (ch : Nat) (h : Hint) (a : Nat) (bs : List Byte), cacheInOrder s = true → lineQuiet s (lineOf a) = true →
    a + bs.length ≤ stackBytes → a % 2048 + bs.length ≤ 2048 → bs ≠ [] →
    (∀ b, byteAt (lineWrite s ch h a bs) b =
      if a ≤ b ∧ b < a + bs.length ∧ pageRetired s (pageOf (lineOf a)) = false then bs.getD (b - a) 0 else byteAt s b)
    ∧ cacheInOrder (lineWrite s ch h a bs) = true

/-- MEM_REQUEST (R230 to R233, R238, R251), with what strikes: the part of it within its first line is served. It waits while its controller is full or an older request for the line waits. To a page out of service a read
is answered with zeros. For a line that is on its way it waits for that line, or for a burst of its own where a LAST read has passed the line. A LAST write acts as STREAM. A NORMAL or KEEP one that misses and is no write of a whole line asks for its line. Any other is served at once.
The model's own choices in it: log entries 55, 56, 58, 141, 145. -/
def Obligations.MemoryRequestsAreServed : Prop :=
  ∀ (s u : State) (ch : Nat) (hint h : Hint) (addr : BitVec 40) (bursts cells : List Upset) (a l room : Nat), u = strike s (bursts ++ cells) →
    a = addr.toNat → l = lineOf a → room = 2048 - a % 2048 →
    (stackBytes ≤ a → ∀ ask, Answers (.memRequest ch hint addr ask bursts cells) s fun t => t = u)
    ∧ (a < stackBytes → ∀ ask asked : MemAsk,
      asked = (match ask with | .read n => .read (min n room) | .write d => .write (d.take room)) →
      h = (match ask with | .read _ => effHint s hint | .write _ => writeHint s hint) →
      (waitsForFill u (effHint s hint) l asked = true → Answers (.memRequest ch hint addr ask bursts cells) s fun t =>
        t = { u with memory := { u.memory with waiting := u.memory.waiting ++ [{ chan := ch, hint := hint, addr := a, ask := asked }] } })
      ∧ (waitsForFill u (effHint s hint) l asked = false →
        (pageRetired s (pageOf l) = true → ∀ n, asked = .read n → Answers (.memRequest ch hint addr ask bursts cells) s fun t =>
          t = { u with regs := t.regs, memory := { u.memory with reply := List.replicate n 0 } }
          ∧ Counted MEM_RETIRED_ACC_CNT 1 s t ∧ RegsKept (counterFields MEM_RETIRED_ACC_CNT) s t)
        ∧ (pageRetired s (pageOf l) = true → ∀ d, asked = .write d → Answers (.memRequest ch hint addr ask bursts cells) s fun t =>
          t = { u with regs := t.regs }
          ∧ Counted MEM_RETIRED_ACC_CNT 1 s t ∧ RegsKept (counterFields MEM_RETIRED_ACC_CNT) s t)
        ∧ (pageRetired s (pageOf l) = false → (findLine s l).isSome = true → u.upsets = [] → ∀ n, asked = .read n →
          Answers (.memRequest ch hint addr ask bursts cells) s fun t =>
            t.memory.reply = (List.range n).map (fun i => byteAt s (a + i)) ∧ t.mem = s.mem ∧ Counted MEM_CACHE_HIT_CNT 1 s t)
        ∧ (pageRetired s (pageOf l) = false → findLine s l = none →
          s.memory.fills.any (fun f => f.line == l) = true ∨ fetches h asked = true →
          Answers (.memRequest ch hint addr ask bursts cells) s fun t =>
            t.mem = s.mem ∧ t.memory.cache = s.memory.cache ∧ t.memory.reply = s.memory.reply
            ∧ (∃ f : Fill, f = {
                line := l, wave := (waveFor s l).1, prefetch := false, hint := h, discarded := decide (h = .last), off := a % 2048, len := askLen asked
                write := match asked with | .write d => some d | .read _ => none }
              ∧ t.memory.fills = s.memory.fills.map (fun g => if h = .last ∧ g.line = l then { g with discarded := true } else g) ++ [f])
            ∧ Counted MEM_CACHE_MISS_CNT 1 s t)
        ∧ (pageRetired s (pageOf l) = false →
          (findLine s l).isSome = true ∨ s.memory.fills.any (fun f => f.line == l) = false ∧ fetches h asked = false →
          Answers (.memRequest ch hint addr ask bursts cells) s fun t =>
            (∀ n, asked = .read n → t = setReply (readLine u ch h l (a % 2048) n).2 (readLine u ch h l (a % 2048) n).1)
            ∧ (∀ d, asked = .write d → t = writeLine u ch h l (a % 2048) d))))

/-- CACHE_FILL_ARRIVE, PREFETCH_ISSUE, PREFETCH_DROP and STREAM_IDLE_FREE (R19, R241, R245, R246): a line that is the oldest on its way from its stack arrives; one that a single read waits for becomes resident and the
read is answered with its bytes; one behind an older does not arrive. A requested prefetch is sent while its controller holds fewer than 32 demand requests and the line is neither resident nor on its way, or is dropped and
counted; one not asked for changes nothing. The entry of a stream idle for the image's time is freed, before that time not.
CACHE_FLUSH and UNKEEP (R239, R255, Table 8.9): asked for during a step they wait for its boundary. There UNKEEP makes every line ordinary, and a flush begins: as time passes it writes back the dirty lines one after
another, each of which stays, clean, and changes no byte where no error strikes. -/
def Obligations.CacheFillsPrefetchesAndControlTakeEffect : Prop :=
  (∀ (s : State),
    (∀ (f : Fill), cacheInOrder s = true → s.upsets = [] → s.memory.fills = [f] → s.memory.waiting = [] → f.prefetch = false →
      f.discarded = false → f.hint = .normal ∨ f.hint = .keep → f.write = none → f.off + f.len ≤ 2048 → f.line * 2048 < stackBytes → findLine s f.line = none →
      pageRetired s (pageOf f.line) = false → Answers (.cacheFillArrive f.line []) s fun t =>
        t.memory.fills = [] ∧ (findLine t f.line).isSome = true
        ∧ t.memory.reply = (List.range f.len).map (fun i => byteAt s (f.line * 2048 + f.off + i))
        ∧ (∀ b, byteAt t b = byteAt s b))
    ∧ (∀ line upsets, (∀ f, s.memory.fills.find? (fun f => stackOf f.line == stackOf line) = some f → f.line ≠ line) →
      Answers (.cacheFillArrive line upsets) s fun t => t = strike s upsets)
    ∧ (∀ line upsets f, s.memory.fills.find? (fun f => stackOf f.line == stackOf line) = some f → f.line = line →
      Answers (.cacheFillArrive line upsets) s fun t =>
        ∃ u, u = fillArrives (strike s upsets) line ∧ t = takeWaiting [] u.memory.waiting u)
    ∧ (∀ line queued, 32 ≤ queued + (ctrlQueue s line).length ∨ s.memory.pfq.any (fun p => p.2.2 == line) = false →
      Answers (.prefetchIssue line queued) s fun t => t = s)
    ∧ (∀ line queued u, queued + (ctrlQueue s line).length < 32 → s.memory.pfq.any (fun p => p.2.2 == line) = true →
      u = { s with memory := { s.memory with pfq := s.memory.pfq.filter (fun p => p.2.2 != line) } } →
      ((findLine s line).isSome = true ∨ s.memory.fills.any (fun f => f.line == line) = true →
        Answers (.prefetchIssue line queued) s fun t => t = u)
      ∧ (findLine s line = none → s.memory.fills.any (fun f => f.line == line) = false → Answers (.prefetchIssue line queued) s fun t =>
        t = { u with
            regs := t.regs
            memory := { u.memory with
              fills := s.memory.fills ++ [{ line := line, wave := 0, prefetch := true, hint := .normal, discarded := false, off := 0, len := 0
                                            write := none }] } }
        ∧ Counted MEM_PF_ISSUE_CNT 1 s t))
    ∧ (∀ line, s.memory.pfq.any (fun p => p.2.2 == line) = true → Answers (.prefetchDrop line) s fun t =>
        t = { s with regs := t.regs, memory := { s.memory with pfq := s.memory.pfq.filter (fun p => p.2.2 != line) } }
        ∧ Counted MEM_PF_DROP_CNT 1 s t ∧ RegsKept (counterFields MEM_PF_DROP_CNT) s t)
    ∧ (∀ line, s.memory.pfq.any (fun p => p.2.2 == line) = false → Answers (.prefetchDrop line) s fun t => t = s)
    ∧ (∀ ch cycles, max 1 (s.held MEM_PF_CFG.IDLE) * 1024 ≤ cycles → Answers (.streamIdleFree ch cycles) s fun t =>
        t = { s with memory := { s.memory with
          streams0 := s.memory.streams0.filter (fun y => y.chan != ch)
          streams1 := s.memory.streams1.filter (fun y => y.chan != ch) } })
    ∧ (∀ ch cycles, cycles < max 1 (s.held MEM_PF_CFG.IDLE) * 1024 → Answers (.streamIdleFree ch cycles) s fun t => t = s))
  ∧ (∀ (s : State),
    (Answers .cacheFlush s fun t => t = settle { s with memory := { s.memory with flushReq := true } })
    ∧ (Answers .unkeep s fun t => t = settle { s with memory := { s.memory with unkeepReq := true } })
    ∧ (applyCacheCtl s).memory.flushReq = false ∧ (applyCacheCtl s).memory.unkeepReq = false
    ∧ (s.memory.flushReq = true →
      (applyCacheCtl s).memory.flushing = ((s.memory.cache.flatMap (·.2)).filter (·.dirty)).map (·.line))
    ∧ (s.memory.unkeepReq = true → (applyCacheCtl s).memory.cache.all (fun e => e.2.all (fun x => !x.keep)) = true)
    ∧ (∀ l ls, cacheInOrder s = true → s.upsets = [] → s.ctl.installing = none → s.memory.flushing = l :: ls →
      step { s with pending := [] } = .next (flushNext { s with pending := [] })
      ∧ (flushNext s).memory.flushing = ls ∧ (∀ b, byteAt (flushNext s) b = byteAt s b)
      ∧ (∀ x, findLine s l = some x → ∃ y, findLine (flushNext s) l = some y ∧ y.dirty = false)))

/-- PATROL_READ and WRITE_BURST_REJECTED (R224, R250): a patrol reader goes on to its next word. Where no error stands in the word it read, nothing else changes; an error that stands there is met: a good word or a corrected
one keeps its bytes, a word lost reads as zero from then on, and no other byte changes. A write burst that every attempt rejects loses its bytes alone. Each error is counted.
PAGE_RETIRE and PAGE_REPAIR (R251, R252), while firmware runs: a lost page takes its entry of the retirement table, or the next, after which it is out of service and under repair; with the table full it stays in service
and the flag says so. What stood behind it in firmware's queue is acted on then. A repair that found a spare row zeroes the page and puts it back in service; one that found none leaves it out. Nothing else of memory changes.
The model's own choices in it: log entries 57, 142, 143, 144, 160. -/
def Obligations.MemoryErrorsAndLostPagesAreConfined : Prop :=
  (∀ (s : State),
    (∀ (r : Fin 76) (upsets : List Upset), Answers (.patrolRead r upsets) s fun t =>
      ∀ w, w = (FMap.find s.patrol r).getD 0 →
        (FMap.find t.patrol r).getD 0 = (w + 1) % patrolWords
        ∧ ((∀ a e, Upset.word a e ∈ s.upsets ++ upsets → a / 8 * 8 ≠ patrolAddr r w) → t = { strike s upsets with patrol := t.patrol })
        ∧ (∀ a err, s.upsets ++ upsets = [.word a err] → a / 8 * 8 = patrolAddr r w →
          t.upsets = []
          ∧ (∀ b, cellAt t.mem b =
              if err = .persistent ∧ patrolAddr r w ≤ b ∧ b < patrolAddr r w + 8 then 0 else cellAt s.mem b)
          ∧ Counted TAG_ECC_CE_CNT (if err = .single then 1 else 0) s t
          ∧ Counted TAG_ECC_UE_CNT (if err = .double ∨ err = .persistent then 1 else 0) s t))
    ∧ (∀ (addr : BitVec 40) (len : Nat) (n : Fin 4), addr.toNat < stackBytes → n.val ≠ 0 →
      Answers (.writeBurstRejected addr len n) s fun t =>
        Counted MEM_WR_RETRY_CNT (min 2 n.val) s t
        ∧ (n.val ≤ 2 → t = { s with regs := t.regs } ∧ RegsKept (counterFields MEM_WR_RETRY_CNT) s t)
        ∧ (∀ a, (a < addr.toNat ∨ addr.toNat + min len (2048 - addr.toNat % 2048) ≤ a) → cellAt t.mem a = cellAt s.mem a)
        ∧ (n.val = 3 → Counted MEM_DATA_LOST_CNT 1 s t ∧ t.flag MEM_LAST_ERR.VALID = true ∧ t.get MEM_LAST_ERR.KIND = 2
          ∧ (min len (2048 - addr.toNat % 2048) = 2048 → findLine t (lineOf addr.toNat) = none)))
    ∧ (∀ (addr : BitVec 40) (len : Nat) (n : Fin 4), stackBytes ≤ addr.toNat ∨ n.val = 0 →
      Answers (.writeBurstRejected addr len n) s fun t => t = s))
  ∧ (∀ (s : State), fwRuns s = true →
    (∀ page stack tick rest n, firstOf FwEvent.lostPage s.flt.fwq = some ((page, stack, tick), rest) → page < 2 ^ 24 → entryFor s page = some n → n < 512 →
      Answers .pageRetire s fun t => ∃ u, t = drainFwq u ∧
        u.get MEM_RETIRE_STATUS.USED = max (s.get MEM_RETIRE_STATUS.USED) (n + 1)
        ∧ u.get (MEM_RETIRE_TABLE.PAGE n) = page ∧ u.get (MEM_RETIRE_TABLE.VALID n) = 1 ∧ u.get (MEM_RETIRE_TABLE.REPAIRED n) = 0
        ∧ u.get (MEM_RETIRE_TABLE.STACK n) = stack % 16 ∧ (s.get MEM_RETIRE_STATUS.USED ≤ n → u.get (MEM_RETIRE_TABLE.TICK n) = s.tick % 2 ^ 32)
        ∧ pageRetired u page = true ∧ u.flt.repairing = s.flt.repairing ++ [page] ∧ u.flt.fwq = rest ∧ u.mem = s.mem)
    ∧ (∀ page stack tick rest, firstOf FwEvent.lostPage s.flt.fwq = some ((page, stack, tick), rest) → entryFor s page = none →
      Answers .pageRetire s fun t => ∃ u, t = drainFwq u ∧
        u.flag FLT_FLAGS.RETIRE_FULL = true ∧ u.get MEM_RETIRE_STATUS.USED = s.get MEM_RETIRE_STATUS.USED
        ∧ u.flt = { s.flt with fwq := rest } ∧ u.mem = s.mem)
    ∧ (firstOf FwEvent.lostPage s.flt.fwq = none → Answers .pageRetire s fun t => t = s)
    ∧ (∀ (page : BitVec 24) (n : Nat), cacheInOrder s = true → s.upsets = [] → s.memory.fills = [] → s.memory.waiting = [] →
      s.flt.repairing.contains page.toNat = true → retireEntry s page.toNat = some n → n < 512 →
      page.toNat * 65536 + 65536 ≤ stackBytes → Answers (.pageRepair page true) s fun t =>
        t.get (MEM_RETIRE_TABLE.REPAIRED n) = 1 ∧ pageRetired t page.toNat = false
        ∧ t.flt.repairing.contains page.toNat = false
        ∧ (∀ a, byteAt t a = if page.toNat * 65536 ≤ a ∧ a < page.toNat * 65536 + 65536 then 0 else byteAt s a))
    ∧ (∀ page : BitVec 24, s.flt.repairing.contains page.toNat = true → Answers (.pageRepair page false) s fun t =>
        t = { s with flt := { s.flt with repairing := s.flt.repairing.filter (· != page.toNat) } })
    ∧ (∀ (page : BitVec 24) (spare : Bool), s.flt.repairing.contains page.toNat = false → Answers (.pageRepair page spare) s fun t => t = s))

/-! Transfers and windows (09 R275, 10 R309 to R314). -/

/-- XFER (R275, R278, R310, Table 9.2): an instruction whose descriptors are of its class, whose module is one of the fold, and that the governor lets go is issued while fewer than 16 transfers of its sequencer
are incomplete; its transfer has the instruction's fields, begins, and delivers unspecified bytes where it races with one issued before it. With 16 incomplete it waits.
The model's own choices in it: log entry 73. -/
def Obligations.TransfersAreLaunched : Prop :=
  ∀ (s : State) (q : Fin 4) (f : XferFields) (i : SeqInsn) (c : Instr) (mode modul window roff dir : Nat),
    (i = .xferLocal f ∧ c = .xferLocal q ∧ mode = 0 ∧ modul = 0 ∧ window = 0 ∧ roff = 0 ∧ dir = 0
      ∨ i = .xferWindow false f modul window roff ∧ c = .xferWindowWrite q ∧ mode = 1 ∧ dir = 0
      ∨ i = .xferNeighbour f dir ∧ c = .xferNeighbourSend q ∧ mode = 2 ∧ modul = 0 ∧ window = 0 ∧ roff = 0
      ∨ i = .xferWindow true f modul window roff ∧ c = .xferWindowRead q ∧ mode = 3 ∧ dir = 0) →
    AtInsn s q i →
    ∀ (src dst : Nat) (reads writes : List Nat), src = effDesc s q f.doff 0 f.src → dst = effDesc s q f.doff 1 f.dst →
    reads = (if mode = 3 then [] else [src]) → writes = (if mode = 0 ∨ mode = 3 then [dst] else []) →
    (mode ≠ 3 → ∃ d, namedDesc s src = some d ∧ d.cls = (if mode = 2 then Desc.clsLink else Desc.clsXfer)) →
    (mode ≠ 1 → ∃ d, namedDesc s dst = some d ∧ d.cls = (if mode = 2 then Desc.clsLink else Desc.clsXfer)
      ∧ (mode ≠ 2 → d.dims.any (·.bcast) = false)) →
    (mode = 1 ∨ mode = 3 → badModule s modul = false) →
    (16 ≤ (s.xfers.filter (fun x => x.seqr == q.val)).length → Answers c s fun t =>
      t = { s with seqs := s.seqs.set q { s.seqr q with stall := .other } })
    ∧ (∀ (typ : Nat) (u : State), (s.xfers.filter (fun x => x.seqr == q.val)).length < 16 →
      gate s q (xferWork s mode (reads ++ writes)) = (some typ, u) → Answers c s fun t =>
        ∃ (open_ : Bool) (v w : State), raceWith u { seqr := q.val, reads := reads, writes := writes } = (open_, v)
          ∧ w = beginXfer v {
              id := 0, seqr := q, mode := mode, src := src, dst := dst, hsrc := f.hsrc, hdst := f.hdst, close := f.close
              modul := modul, window := window, roff := roff, dir := dir, acq := Acq.none 6, next := 0, moved := false, got := []
              fetch := none, open_ := open_, energy := typ, limit := 0 }
          ∧ t = { w with regs := t.regs, seqs := w.seqs.set q ((w.seqr q).stepped (((w.seqr q).pc + 1) % 4096)) }
          ∧ RegsKept (counterFields SEQ_ISSUE_CNT) w t ∧ Counted SEQ_ISSUE_CNT 1 w t)

/-- A tile moves bit for bit (R275): the elements and scales of a whole tile's bytes, laid out again, are those bytes.
The model's own choices in it: log entry 73. -/
def Obligations.TilesMoveBitForBit : Prop :=
  ∀ (s : State) (f : Fmt) (bs : List Byte), bs.length = f.tileBytes → (rawOfBytes s f bs).bytes f = bs

/-- WIN_WRITE (R311 to R313): a write that its window admits goes to the window's tag and is noted for its transfer; one that it does not admit writes nothing, is counted and makes the transfer a refused one. The last
packet of a transfer is answered with what was accepted, whether anything was refused and whether slots were closed: a close that the window allows closes the slots written, another is refused.
WIN_READ, WIN_DATA, WIN_DONE and WIN_TIMEOUT (R311 to R313, R451): a read is answered with the window's bytes in packets of the size it names, with zeros where the window does not admit it. A response is written at its
place of the destination once the slots there admit it, and the last one ends the transfer at its source, as the answer to a write does. After the time-out a transfer sent whole ends without its answer, counted; the fetch
of an adoption is repeated once, and what the second did not bring is not fetched. What answers no transfer, and a time-out of none, changes nothing.
The model's own choices in it: log entry 74. -/
def Obligations.WindowRequestsAndAnswersTakeEffect : Prop :=
  ((∀ (s : State) (n : Fin 16), peekRx s n (isType 3) = none → Answers (.winWrite n) s fun t => t = s)
  ∧ (∀ (s : State) (n : Nat) (o : WinOwn), (winRefuse s n o).1 = { o with refused := true }
    ∧ ∃ v, v = (winRefuse s n o).2 ∧ v = { s with regs := v.regs, logIn := v.logIn, free := v.free } ∧ Counted LNK_WIN_REFUSED_CNT 1 s v)
  ∧ ∀ (s : State) (n : Fin 16) (x : RxPkt) (u : State), peekRx s n (isType 3) = some x → u = takeRx s n (isType 3) →
    Answers (.winWrite n) s fun t =>
      ∀ (p : Packet) (window off tag : Nat) (o : WinOwn) (allowed : Bool), p = x.pkt → window = bits p.hdr1 0 8 → off = bits p.hdr1 8 40 →
        tag = bits (winWord u window 0) 0 12 → o = winOwn u p.src p.transfer window → allowed = bit (winWord u window 0) 14 →
        ∃ (o' : WinOwn) (v : State),
          (winAccepts u p.src p.hdr1 true p.data.length = true → ∀ w, w = winCtx u p.src p.transfer →
            v = tagWrite w (streamChan w tag) off p.data
            ∧ o' = { o with
                accepted := o.accepted + p.data.length
                slots := (o.slots ++ slotsOf (tagEntry v tag) off (off + p.data.length)).eraseDups })
          ∧ (winAccepts u p.src p.hdr1 true p.data.length = false → (o', v) = winRefuse u n o)
          ∧ (p.last = false → t = putWin v o')
          ∧ (p.last = true → ∀ (r : WinOwn × State) (closing : Bool) (w : State),
            r = (if p.close = true ∧ allowed = false then winRefuse v n o' else (o', v)) →
            closing = (p.close && allowed && !o'.slots.isEmpty) → w = (if closing then closeSlots r.2 0x0B tag o'.slots else r.2) →
            t = sendPacket (dropWin w r.1) 6 (Packet.make p.src w.lnk.ownId 6 false true p.hdr1
              (toBytes 16 (o'.accepted % 2 ^ 40 + b2n r.1.refused * 2 ^ 40 + b2n closing * 2 ^ 41)))))
  ∧ (∀ (s : State) (n : Fin 16),
    (peekRx s n (isType 4) = none → Answers (.winRead n) s fun t => t = s)
    ∧ (peekRx s n (isType 5) = none → Answers (.winData n) s fun t => t = s)
    ∧ (peekRx s n (isType 6) = none → Answers (.winDone n) s fun t => t = s)
    ∧ (∀ x u, peekRx s n (isType 4) = some x → u = takeRx s n (isType 4) → Answers (.winRead n) s fun t =>
      ∀ (p : Packet) (window off len rsize : Nat), p = x.pkt → window = bits p.hdr1 0 8 → off = bits p.hdr1 8 40 → len = field p 0 5 →
        rsize = max 16 (bits (field p 5 2) 0 13) →
        ∃ (bs : List Byte) (v : State) (parts : List (List Byte)),
          (winAccepts u p.src p.hdr1 false len = true → ∀ w, w = winCtx u p.src p.transfer →
            (bs, v) = tagRead w (streamChan w (bits (winWord u window 0) 0 12)) off len)
          ∧ (winAccepts u p.src p.hdr1 false len = false →
            bs = List.replicate len 0 ∧ v = (winRefuse u n (winOwn u p.src p.transfer window)).2)
          ∧ parts = (if len = 0 then [[]] else chunks rsize (len / rsize + 1) bs)
          ∧ t = parts.zipIdx.foldl (fun w y => sendPacket w 6 (Packet.make p.src w.lnk.ownId 5 false (y.2 + 1 == parts.length)
              (winHdr window (off + y.2 * rsize) p.transfer) y.1)) v)
    ∧ (∀ x, peekRx s n (isType 5) = some x →
      (xferOf s 3 x.pkt = none → Answers (.winData n) s fun t => t = takeRx s n (isType 5))
      ∧ (∀ (op : XferOp) (u : State) (off : Nat), xferOf s 3 x.pkt = some op → u = s.inOp (16 + op.id) → off = bits x.pkt.hdr1 8 40 - op.roff →
        (∀ d, op.fetch = none → descAt s op.dst = some d → Answers (.winData n) s fun t =>
          ∀ (k : Nat) (a : Acq × State), k = off / max 1 d.unit →
            a = (if op.acq.needs = [] then acquire u op.acq (moveUses u d k true) else (op.acq, u)) →
            (a.1.needs ≠ [] → t = putXfer a.2 { op with acq := a.1 })
            ∧ (a.1.needs = [] → ∃ (o : XferOp) (bs : List Byte) (f v : State),
              (op.open_ = false → f = a.2 ∧ bs = x.pkt.data.take (respSize d))
              ∧ (op.open_ = true → f = { a.2 with free := a.2.free + 1 } ∧ bs.length = (x.pkt.data.take (respSize d)).length)
              ∧ o = { op with acq := a.1, got := off / max 1 (respSize d) :: op.got }
              ∧ v = writeMove f d (op.dstChan d) k (off % max 1 d.unit) bs
              ∧ t = takeRx (if x.pkt.last then endRead (putXfer v o) o else putXfer v o) n (isType 5)))
        ∧ (∀ tag, op.fetch = some tag → Answers (.winData n) s fun t =>
          ∀ (o : XferOp) (v : State), o = { op with got := x.pkt.data.length :: op.got } →
            v = tagWrite u (streamChan u tag) off (x.pkt.data.take ((tagEntry u tag).bytes - off)) →
            t = takeRx (if x.pkt.last then endRead (putXfer v o) o else putXfer v o) n (isType 5))))
    ∧ (∀ x u, peekRx s n (isType 6) = some x → u = takeRx s n (isType 6) →
      (xferOf u 1 x.pkt = none → Answers (.winDone n) s fun t => t = u)
      ∧ (∀ op, xferOf u 1 x.pkt = some op → Answers (.winDone n) s fun t =>
        t = { u with xfers := u.xfers.filter (fun y => y.id != op.id), cad := { u.cad with done := u.cad.done + op.energy } }))
    ∧ (∀ (late : WinWait),
      ((∀ op, s.xfers.find? (fun x => x.id % 2 ^ 16 == late.transfer.toNat && (x.mode == 1 || x.mode == 3)) = some op →
        op.moved = false ∨ xferUnsent s op.id = true ∨ late.us < op.limit) → Answers (.winTimeout late) s fun t => t = s)
      ∧ (∀ op, s.xfers.find? (fun x => x.id % 2 ^ 16 == late.transfer.toNat && (x.mode == 1 || x.mode == 3)) = some op →
        op.moved = true → xferUnsent s op.id = false → op.limit ≤ late.us → Answers (.winTimeout late) s fun t =>
          ∃ v, v = { s with regs := v.regs, logIn := v.logIn, free := v.free } ∧ Counted LNK_WIN_TIMEOUT_CNT 1 s v
            ∧ v.get LNK_LAST_ERR.CODE = 9 ∧ (s.logIn.queue.length < 64 → v.logIn.queue.length = s.logIn.queue.length + 1)
            ∧ ∀ w, w = (if op.mode = 3 then endRead v op else doneXfer v op) →
              (op.fetch = none → t = w)
              ∧ (∀ tag, op.fetch = some tag → op.dir = 0 → t = beginFetch w tag op.window op.modul 1)
              ∧ (∀ tag, op.fetch = some tag → op.dir ≠ 0 →
                t = notifyRm { w with lnk := { w.lnk with
                  adoptTry := 2, unfetched := w.lnk.unfetched + ((tagEntry v tag).bytes - op.got.sum) } } 9 0xFF op.modul))))

/-- NEIGHBOUR, ROUTED_ROW, ROUTE_CLOSE and SAMPLE (R158, R159, R209, R314): a tile for a LINK descriptor that has it is written through the descriptor once its slots admit it, and the send ends with its last tile, closing
slots when it asks for that; another tile has no route. A row, a close and a piece of a sample go to the tag that their header names, the piece once its place may be written (R30). Where none is at the head of its channel, nothing changes.
The model's own choices in it: log entries 51, 52, 178. -/
def Obligations.ArrivingDataTakesEffect : Prop :=
  ∀ (s : State) (n : Fin 16),
    (peekRx s n (isType 7) = none → Answers (.neighbour n) s fun t => t = s)
    ∧ (peekRx s n (isType 8) = none → Answers (.routedRow n) s fun t => t = s)
    ∧ (peekRx s n (isType 9) = none → Answers (.routeClose n) s fun t => t = s)
    ∧ (peekRx s n (isType 10) = none → Answers (.sample n) s fun t => t = s)
    ∧ ∀ (x : RxPkt) (h : Nat), h = x.pkt.hdr1 →
      (∀ (e k : Nat), peekRx s n (isType 7) = some x → e = bits h 0 12 → k = bits h 12 32 →
        (descAt s e = none ∨ (∃ d, descAt s e = some d ∧ (d.cls ≠ Desc.clsLink ∨ d.tiles ≤ k)) → Answers (.neighbour n) s fun t =>
          t = takeRx (noRoute s n x.pkt.src) n (isType 7))
        ∧ (∀ (d : Desc) (u : State) (r : NbrRecv) (a : Acq × State), descAt s e = some d → d.cls = Desc.clsLink → k < d.tiles →
          u = (if (FMap.find s.lnk.nbrs e).isSome then s.inOp (2 ^ 30 + e) else s.newOp (2 ^ 30 + e)) →
          r = (FMap.find s.lnk.nbrs e).getD { no := u.opCount, tiles := [], acq := Acq.none 7, close := false } →
          a = (if r.acq.needs = [] then acquire u r.acq (moveUses u d k true) else (r.acq, u)) →
          Answers (.neighbour n) s fun t =>
            (a.1.needs ≠ [] → t = { a.2 with lnk := { a.2.lnk with nbrs := FMap.put a.2.lnk.nbrs e { r with acq := a.1 } } })
            ∧ (a.1.needs = [] → ∀ (v : State) (tiles : List Nat) (o : NbrRecv),
              v = writeMove a.2 d (d.chan .normal (channel (2 ^ 30 + e) r.no 0)) k 0 (x.pkt.data.take d.unit) →
              tiles = (if r.tiles.contains k then r.tiles else k :: r.tiles) →
              o = { no := r.no, tiles := tiles, acq := a.1, close := r.close || x.pkt.close } →
              (tiles.length < d.tiles → t = takeRx { v with lnk := { v.lnk with nbrs := FMap.put v.lnk.nbrs e o } } n (isType 7))
              ∧ (d.tiles ≤ tiles.length → ∀ w, w = { v with lnk := { v.lnk with nbrs := FMap.del v.lnk.nbrs e } } →
                t = takeRx (if r.close || x.pkt.close then closeSlots w 7 d.tag (d.slotsTouched (tagEntry w d.tag)) else w) n (isType 7)))))
      ∧ (peekRx s n (isType 8) = some x → Answers (.routedRow n) s fun t =>
        t = acceptRow (takeRx s n (isType 8)) x.pkt.src (bits h 0 12) (bits h 12 28) (bits h 40 24) x.pkt.data)
      ∧ (peekRx s n (isType 9) = some x → Answers (.routeClose n) s fun t => t = acceptClose (takeRx s n (isType 9)) (bits h 0 12))
      ∧ (peekRx s n (isType 10) = some x → Answers (.sample n) s fun t =>
        ∀ (tag off : Nat) (u v : State), tag = bits h 0 12 → off = 16 * bits h 12 36 →
          (pieceWaits s tag off = true → t = s) ∧ (pieceWaits s tag off = false → u = (takeRx s n (isType 10)).newOp 4 →
          v = tagWrite u (streamChan u tag) (Int.ofNat off) x.pkt.data →
          t = if x.pkt.last then closeSlots v 0x0A tag (slotsOf (tagEntry v tag) off (off + max 1 x.pkt.data.length)) else v))

/-! The fabric ports (10). -/

/-- Flits and packets keep what they carry (R287 to R289, R295, Tables 10.2 and 10.5): a flit made of a first word and a payload has a fitting CRC and gives both back, and whole packets are unpacked
from their bytes in order.
The model's own choices in it: log entry 64. -/
def Obligations.FlitsAndPacketsKeepWhatTheyCarry : Prop :=
  (∀ (seq ack vc cls crVc crCls crN : Nat) (nak idle : Bool) (data : List Byte), seq < 4096 → ack < 4096 → vc < 8 → cls < 2 →
    crVc < 8 → crCls < 2 → crN < 4096 → data.length ≤ 240 →
    ∀ f, f = Flit.make (Flit.word seq ack nak vc cls idle crVc crCls crN) data →
      Flit.ok f = true ∧ Flit.seq f = seq ∧ Flit.ack f = ack ∧ Flit.nak f = nak ∧ Flit.vc f = vc ∧ Flit.cls f = cls
      ∧ Flit.idle f = idle ∧ Flit.crVc f = crVc ∧ Flit.crCls f = crCls ∧ Flit.crN f = crN
      ∧ Flit.payload f = data ++ List.replicate (240 - data.length) 0)
  ∧ (∀ (ps : List Packet), (∀ p ∈ ps, p.hdr0 < 2 ^ 64 ∧ p.hdr1 < 2 ^ 64 ∧ ¬ (p.hdr0 = 0 ∧ p.hdr1 = 0) ∧ p.data.length = p.len * 16) →
    unpack (ps.length + 1) (ps.flatMap Packet.bytes) = (ps, []))

/-- A packet's next hop (R300, R303): none when it is where it is going; else to a neighbour one step nearer, and the opposite direction leads back. -/
def Obligations.EachHopComesNearer : Prop :=
  ∀ (t : Topology) (p q : Nat), p < t.count → q < t.count →
    (t.hop p q = none ↔ p = q)
    ∧ (∀ d, t.hop p q = some d → t.neighbour p d < t.count
      ∧ [0, 1, 2, 3].foldl (fun n a => n + t.ringDist a (t.coord (t.neighbour p d) a) (t.coord q a)) 0 + 1
          = [0, 1, 2, 3].foldl (fun n a => n + t.ringDist a (t.coord p a) (t.coord q a)) 0)
    ∧ (∀ d, d < 8 → t.neighbour (t.neighbour p d) (d + 1 - 2 * (d % 2)) = p)

/-- PORT_TRAIN, PARTNER_DETECT_RETRY, DOWN_RETRY and FULLTRAIN (R285, R286): a port that may train and finds a partner comes up, ×8 or ×4 on the half of its lanes that trained (×4 where this module is at supply stage 3 or the
partner of a port in service asks for it); one neither of whose halves trains goes DOWN, but one that is DOWN stays so and tries again. Without a partner a port that was in service goes DOWN and another returns to electrical
idle. A port that may not train, or is in another state than the command is for, stays as it is, but that FULLTRAIN discards its coefficients.
WIDTH_CHANGE, QUICK_RETRAIN, RETRAIN and PORT_DISABLE (R285, R286, R290, R293): a port that is up narrows when this module is at supply stage 3 or its partner asks for it, and widens when neither does any more. A
retrain of a port that is up, for a cause that asked for it or as a register write, is counted and replays from the last acknowledged flit, or leaves the port DOWN when no half trains; after a credit violation the credits are
those given anew. DISABLE is a request that a boundary carries out.
The model's own choices in it: log entry 152. -/
def Obligations.PortsTrainAndRetrain : Prop :=
  (∀ (s : State) (n : Fin 16) (partner low high : Bool) (delay : Nat) (c : Instr),
    (c = .portTrain n partner low high delay ∨ c = .partnerDetectRetry n partner low high delay ∨ c = .downRetry n low high delay
      ∨ c = .fulltrain n partner low high delay) →
    ∀ (st : Nat) (fits : Bool), st = s.get (LNK_P_STATUS.STATE n) →
      fits = decide (c = .portTrain n partner low high delay ∧ st ≤ 1 ∨ c = .partnerDetectRetry n partner low high delay ∧ st = 0
        ∨ c = .downRetry n low high delay ∧ st = 3 ∧ (low || high) = true ∨ c = .fulltrain n partner low high delay) →
      (mayTrain s n = false ∨ fits = false → Answers c s fun t =>
        t = if c = .fulltrain n partner low high delay then s.set (LNK_P_STATUS.EQ_SAVED n) 0 else s)
      ∧ (mayTrain s n = true → fits = true → Answers c s fun t =>
        t.mem = s.mem
        ∧ (partner = true ∨ c = .downRetry n low high delay →
          ((low || high) = true →
            t.slots = s.slots ∧ t.get (LNK_P_STATUS.STATE n) = 2 ∧ t.get (LNK_P_STATUS.EQ_SAVED n) = 1
            ∧ t.get (LNK_P_STATUS.NARROW n) =
              (if low && high && decide (s.get PWR_STATUS.STAGE < 3) && ((s.port n).credit == [] || !(s.port n).asked) then 0 else 1)
            ∧ t.get (LNK_P_STATUS.UPPER n) = (if low then 0 else 1)
            ∧ (t.port n).replays = 0 ∧ (t.port n).inbox = (s.port n).inbox)
          ∧ ((low || high) = false → t.get (LNK_P_STATUS.STATE n) = 3 ∧ t.get (LNK_P_STATUS.NARROW n) = 0))
        ∧ (partner = false → c ≠ .downRetry n low high delay →
          t.get (LNK_P_STATUS.STATE n) = (if (s.port n).credit = [] then 0 else 3))))
  ∧ (∀ (s : State) (n : Fin 16),
    (∀ partner, s.get (LNK_P_STATUS.STATE n) ≠ 2 → Answers (.widthChange ⟨n, partner⟩) s fun t => t = s)
    ∧ (∀ partner, s.get (LNK_P_STATUS.STATE n) = 2 →
      (3 ≤ s.get PWR_STATUS.STAGE ∨ partner = true → s.get (LNK_P_STATUS.NARROW n) = 0 → Answers (.widthChange ⟨n, partner⟩) s fun t =>
        t.get (LNK_P_STATUS.NARROW n) = 1 ∧ t.get (LNK_P_STATUS.UPPER n) = 0 ∧ (t.port n).shed = true ∧ (t.port n).asked = partner
        ∧ Counted (LNK_P_RETRAIN_CNT n) 1 s t ∧ (t.port n).replayAt = (s.port n).replay.head?.map (·.1))
      ∧ (s.get PWR_STATUS.STAGE < 3 → partner = false → (s.port n).shed = true → Answers (.widthChange ⟨n, partner⟩) s fun t =>
        t.get (LNK_P_STATUS.NARROW n) = 0 ∧ (t.port n).shed = false ∧ (t.port n).asked = false ∧ Counted (LNK_P_RETRAIN_CNT n) 1 s t)
      ∧ ((3 ≤ s.get PWR_STATUS.STAGE ∨ partner = true) ∧ s.get (LNK_P_STATUS.NARROW n) ≠ 0
          ∨ s.get PWR_STATUS.STAGE < 3 ∧ partner = false ∧ (s.port n).shed = false → Answers (.widthChange ⟨n, partner⟩) s fun t =>
        t = s.setPort n { s.port n with asked := partner }))
    ∧ (∀ low high delay credits c, c = .quickRetrain n low high delay credits ∨ c = .retrain n low high delay →
      s.get (LNK_P_STATUS.STATE n) ≠ 2 ∨ c = .quickRetrain n low high delay credits ∧ (s.port n).retrainDue = 0 →
      Answers c s fun t => t = s)
    ∧ (∀ low high delay credits c cause, s.get (LNK_P_STATUS.STATE n) = 2 → cause ≠ 0 →
      (c = .quickRetrain n low high delay credits ∧ (s.port n).retrainDue = cause ∨ c = .retrain n low high delay ∧ cause = 12) →
      Answers c s fun t =>
        Counted (LNK_P_RETRAIN_CNT n) 1 s t
        ∧ ((low || high) = true → t.get (LNK_P_STATUS.STATE n) = 2 ∧ (t.port n).retrainDue = 0 ∧ (t.port n).replays = 0
            ∧ (t.port n).replay = (s.port n).replay ∧ (t.port n).replayAt = (s.port n).replay.head?.map (·.1)
            ∧ (t.port n).credit = (if cause = 11 then (List.range 16).map (fun k => (k, credits.getD k 0)) else (s.port n).credit))
        ∧ ((low || high) = false → t.get (LNK_P_STATUS.STATE n) = 3))
    ∧ (Answers (.portDisable n) s fun t =>
      t = settle (s.set LNK_PORT_CTL.DISABLE (s.get LNK_PORT_CTL.DISABLE ||| 2 ^ n.val)))
    ∧ (s.step.running = true → settle s = s))

/-- FLIT_RECEIVE (R289, R291, R293), counted on a port that is up: a good flit in order is taken, its payload joins its channel's stream, and the next number is expected; a damaged or misplaced one is discarded and starts the
NAK; one for which its buffer has no room asks for a retrain; a good idle flit brings its acknowledgement, NAK and credits alone, and a damaged one is counted.
FLIT_TRANSMIT and NAK_REPEAT (R289, R291, R293, R294): what leaves a port that is up is a flit with a fitting CRC that acknowledges the last one taken and carries the NAK that is due. A new flit takes the next number, a
credit of its channel and a place in the replay buffer; a replayed one carries its payload again, where no error stands in the buffers; an idle one carries the credits that are due, which are due again when it was lost.
The model's own choices in it: log entries 65, 72, 151, 152. -/
def Obligations.FlitsAreReceivedAndTransmitted : Prop :=
  (∀ (s : State) (n : Fin 16) (f : List Byte),
    (s.get (LNK_P_STATUS.STATE n) ≠ 2 → Answers (.flitReceive n f) s fun t => t = s)
    ∧ (s.get (LNK_P_STATUS.STATE n) = 2 → Answers (.flitReceive n f) s fun t =>
      ∀ u, u = s.count (LNK_P_RX_FLIT_CNT n) 1 →
        (Flit.ok f = true → Flit.idle f = true → t = takeHeader u n f)
        ∧ (Flit.ok f = false → Flit.idle f = true → t = u.count (LNK_P_CRC_ERR_CNT n) 1)
        ∧ (Flit.ok f = false → Flit.idle f = false → t = startNak (u.count (LNK_P_CRC_ERR_CNT n) 1) n)
        ∧ (Flit.ok f = true → Flit.idle f = false → Flit.seq f ≠ (s.port n).expect → t = startNak u n)
        ∧ (Flit.ok f = true → Flit.idle f = false → Flit.seq f = (s.port n).expect →
            occupied (s.port n) (vcKey (Flit.vc f) (Flit.cls f)) < bufferFlits (vcKey (Flit.vc f) (Flit.cls f)) →
            t = acceptPayload (takeHeader u n f) n f)
        ∧ (Flit.ok f = true → Flit.idle f = false → Flit.seq f = (s.port n).expect →
            bufferFlits (vcKey (Flit.vc f) (Flit.cls f)) ≤ occupied (s.port n) (vcKey (Flit.vc f) (Flit.cls f)) →
            (t.port n).retrainDue = 11 ∧ Counted (LNK_P_CREDIT_ERR_CNT n) 1 s t ∧ (t.port n).expect = (s.port n).expect))
    ∧ ((startNak s n).port n = { s.port n with nakOn := true, nakDue := (s.port n).nakDue || !(s.port n).nakOn }
      ∧ startNak s n = s.setPort n ((startNak s n).port n)))
  ∧ (∀ (s : State) (n : Fin 16),
    (∀ idleLost, s.get (LNK_P_STATUS.STATE n) ≠ 2 → Answers (.flitTransmit ⟨n, idleLost⟩) s fun t => t = s)
    ∧ (∀ (idleLost : Bool) (u : State) (p : PortState) (place : Option Nat), s.get (LNK_P_STATUS.STATE n) = 2 →
      u = (if idleLost then s.setPort n (s.port n).idleFailed else s) → p = u.port n →
      place = p.replayAt.bind (fun q => p.replay.findIdx? (fun x => x.1 == q)) →
      Answers (.flitTransmit ⟨n, idleLost⟩) s fun t =>
        (place = none ∨ s.upsets = [] → t = { s with regs := t.regs, lnk := t.lnk }) ∧ t.mem = s.mem ∧ t.slots = s.slots ∧ Counted (LNK_P_TX_FLIT_CNT n) 1 s t ∧ (t.port n).nakDue = false
        ∧ Flit.ok (t.port n).wire = true ∧ Flit.ack (t.port n).wire = ((s.port n).expect + 4095) % 4096
        ∧ Flit.nak (t.port n).wire = (s.port n).nakDue
        ∧ (place = none → p.replay.length < 1024 → ∀ vc cls tv tl, chooseVc u n = some (vc, cls, tv, tl) →
            (t.port n).nextSeq = (p.nextSeq + 1) % 4096
            ∧ (t.port n).replay = p.replay ++ [(p.nextSeq, (t.port n).wire)]
            ∧ countAt (t.port n).credit (vcKey vc cls) = countAt p.credit (vcKey vc cls) - 1 ∧ (t.port n).idleCr = (0, 0))
        ∧ (place = none → 1024 ≤ p.replay.length ∨ chooseVc u n = none →
            Flit.idle (t.port n).wire = true ∧ (t.port n).nextSeq = p.nextSeq ∧ (t.port n).replay = p.replay
            ∧ (t.port n).txq = p.txq ∧ (t.port n).idleCr = dueCredit u n)
        ∧ (∀ i f, place = some i → p.replay[i]? = some f →
            (t.port n).replay = p.replay ∧ (t.port n).nextSeq = p.nextSeq ∧ (t.port n).credit = p.credit ∧ (t.port n).txq = p.txq
            ∧ (t.port n).replayAt = (p.replay[i + 1]?).map (·.1)
            ∧ (s.upsets = [] → Flit.payload (t.port n).wire = Flit.payload f.2 ++ List.replicate (240 - (Flit.payload f.2).length) 0)))
    ∧ ((s.port n).nakOn = true → Answers (.nakRepeat n) s fun t => t = s.setPort n { s.port n with nakDue := true })
    ∧ ((s.port n).nakOn = false → Answers (.nakRepeat n) s fun t => t = s))

/-! What modules tell one another (10 R315 to R323, 15 R441 to R451). -/

/-- HEARTBEAT_SEND and HEARTBEAT (R315 to R318): every port that is up sends one. A heartbeat passes when its fields fit the wiring and its digest and epoch are those in force, or are tolerated beside a change of epoch; it opens its
port and lifts its hold. Another is counted, and holds the port, which is recorded and escalated once.
NEIGHBOUR_LOST (R319, R441, R442): the direction is lost, on an axis of size 2 with its opposite, which leads to the same module, flagged and counted, and what was queued for it, heartbeats and
timecodes apart, is gone. Where the direction leads to no other module, or is lost already, nothing
changes.
The model's own choices in it: log entries 66, 71. -/
def Obligations.HeartbeatsAndLossesTakeEffect : Prop :=
  (∀ (s : State),
    (Answers .heartbeatSend s fun t => t = { s with lnk := t.lnk }
      ∧ ∀ n : Fin 16, t.port n = { s.port n with
          txq := (s.port n).txq ++ (if s.get (LNK_P_STATUS.STATE n) = 2 then
            [{ vc := 1, cls := 0, pkt := heartbeat s n, sent := 0, lastSeq := 0, xfer := none }] else []) })
    ∧ (∀ n : Fin 16, peekRx s n (isType 1) = none → Answers (.heartbeat n) s fun t => t = s)
    ∧ (∀ (n : Fin 16) (x : RxPkt) (u : State) (near : Bool), peekRx s n (isType 1) = some x → u = takeRx s n (isType 1) →
      near = (field x.pkt 8 4 != u.get LNK_EPOCH.EPOCH && epochNear u (field x.pkt 8 4)) →
      ∀ fault, fault = heartbeatFault u n (u.port n).grace x.pkt →
        (∀ tolerated, tolerated = (near && decide ((u.port n).grace < u.get LNK_CFG.GRACE)) →
          (fault = none ↔ wiringOk u n x.pkt = true
            ∧ (field x.pkt 16 8 = u.get LNK_DIGEST.DIGEST ∨ tolerated = true ∧ digestTolerated u (field x.pkt 16 8) = true)
            ∧ (field x.pkt 8 4 = u.get LNK_EPOCH.EPOCH ∨ tolerated = true)))
        ∧ (fault = none → Answers (.heartbeat n) s fun t =>
          t.get (LNK_P_STATUS.HELD n) = 0 ∧ (t.port n).opened = true ∧ (t.port n).grace = (if near then (u.port n).grace + 1 else 0)
          ∧ t.get (LNK_P_STATUS.NEIGHBOUR n) = field x.pkt 0 2 % 2 ^ 16 ∧ t = { u with regs := t.regs, lnk := t.lnk })
        ∧ (∀ code, fault = some code → u.get (LNK_P_STATUS.HELD n) ≠ 1 → Answers (.heartbeat n) s fun t =>
          ∃ v, t = notifyRm v code n (field x.pkt 0 2) ∧ v = { u with regs := v.regs, lnk := v.lnk, logIn := v.logIn, free := v.free }
            ∧ v.get (LNK_P_STATUS.HELD n) = 1 ∧ Counted LNK_MISMATCH_CNT 1 s v ∧ Counted LNK_HOLD_CNT 1 s v
            ∧ v.get LNK_LAST_ERR.CODE = code ∧ Counted FLT_ESC_CNT 1 s v)
        ∧ (∀ code, fault = some code → u.get (LNK_P_STATUS.HELD n) = 1 → Answers (.heartbeat n) s fun t =>
          t.get (LNK_P_STATUS.HELD n) = 1 ∧ Counted LNK_MISMATCH_CNT 1 s t ∧ t = { u with regs := t.regs, lnk := t.lnk })))
  ∧ (∀ (s : State) (d : Fin 8),
    (s.lnk.topo = none → Answers (.neighbourLost d) s fun t => t = s)
    ∧ (∀ tp : Topology, s.lnk.topo = some tp →
      (ownPos s = 0xFFFF ∨ tp.neighbour (ownPos s) d = ownPos s ∨ tp.idAt (tp.neighbour (ownPos s) d) = 0xFFFF
        ∨ s.lnk.lost.contains d.val = true → Answers (.neighbourLost d) s fun t => t = s)
      ∧ (ownPos s ≠ 0xFFFF → tp.neighbour (ownPos s) d ≠ ownPos s → tp.idAt (tp.neighbour (ownPos s) d) ≠ 0xFFFF →
        s.lnk.lost.contains d.val = false → Answers (.neighbourLost d) s fun t =>
          t.lnk.lost = sameWay tp d ++ s.lnk.lost ∧ t.flag FLT_FLAGS.LOST = true ∧ Counted LNK_HB_MISS_CNT 1 s t
          ∧ t.lnk.lostPos.contains (tp.neighbour (ownPos s) d) = true ∧ t.mem = s.mem
          ∧ ∀ e ∈ sameWay tp d, (∀ x ∈ (t.port (portNo (2 * e))).txq, x.vc = 1) ∧ (∀ x ∈ (t.port (portNo (2 * e + 1))).txq, x.vc = 1))))

/-- EPOCH_CHANGE, VACATE_EPOCH and NOTIFY (R321, R442, R443, R448): a change heard is held as pending, with the amendments of one that it overtakes before its own. The ringmaster's firmware vacates the position of a module that it
is told is lost, withdraws or yields, and gives a vacant position to the standby found beside it; with no notice that it can act on nothing changes. A loss told of is noted, and the ringmaster's firmware takes every notice. A
boundary applies a change.
The model's own choices in it: log entries 67, 156. -/
def Obligations.EpochChangesTakeEffect : Prop :=
  ∀ (s : State) (n : Fin 16) (p : Packet) (u : State),
    (Unheard s n 1 u → Answers (.epochChange n) s fun t => t = settle u)
    ∧ (Unheard s n 5 u → Answers (.notify n) s fun t => t = u)
    ∧ (Heard s n 1 p u → Answers (.epochChange n) s fun t =>
      ∃ v c, t = settle v ∧ v.lnk.change = some c ∧ c.epoch = field p 0 4 ∧ c.base = field p 8 8 ∧ c.digest = field p 16 8
        ∧ (∃ own, c.amend = (u.lnk.change.map (·.amend)).getD [] ++ own ∧ own.length = min 1016 (field p 24 2))
        ∧ v.get LNK_EPOCH.PENDING = field p 0 4 % 2 ^ 32 ∧ v.get LNK_STATUS.EPOCH_PENDING = 1 ∧ v.mem = s.mem)
    ∧ (isSysRm s = false ∨ fwRuns s = false ∨ firstNotice s [] s.flt.fwq = none → Answers .vacateEpoch s fun t => t = settle s)
    ∧ (∀ (tp : Topology) (src code port modul : Nat) (rest : List FwEvent), isSysRm s = true → fwRuns s = true → s.lnk.topo = some tp →
      s.flt.fwq = .notice src code port modul :: rest →
      (∀ q, code = 7 ∨ code = 12 ∨ code = 13 → tp.posOf modul = some q → (q, 0xFFFF) ∈ (s.lnk.change.map (·.amend)).getD [] →
        Answers .vacateEpoch s fun t => t = settle { s with flt := { s.flt with fwq := rest } })
      ∧ (∀ q, code = 7 ∨ code = 12 ∨ code = 13 → tp.posOf modul = some q → (q, 0xFFFF) ∉ (s.lnk.change.map (·.amend)).getD [] →
        Answers .vacateEpoch s fun t =>
        ∃ v c, t = settle v ∧ v.lnk.change = some c ∧ c.epoch = nextEpoch s ∧ c.base = secondStep s
          ∧ c.digest = s.get LNK_DIGEST.DIGEST ∧ c.amend = (s.lnk.change.map (·.amend)).getD [] ++ [(q, 0xFFFF)] ∧ v.flt.fwq = rest
          ∧ v.flag FLT_FLAGS.LOST = true)
      ∧ (∀ q r, code = 6 → modul ≠ 0xFFFF → tp.posOf modul = none → standbyPlace s src port = some q → replicaDir tp q = some r →
        Answers .vacateEpoch s fun t =>
          ∃ v c, t = settle v ∧ v.lnk.change = some c ∧ c.epoch = nextEpoch s ∧ c.base = secondStep s
            ∧ c.digest = s.get LNK_DIGEST.DIGEST ∧ c.amend = (s.lnk.change.map (·.amend)).getD [] ++ [(q, modul)] ∧ v.flt.fwq = rest
            ∧ v.lnk.adoptEpoch = some (nextEpoch s)))
    ∧ (Heard s n 5 p u → Answers (.notify n) s fun t =>
      ∀ v, v = (match u.lnk.topo.bind (fun tp => tp.posOf (field p 2 2)) with
          | some q => if field p 0 1 = 7 then noteLoss u q else u
          | none => u) →
        t = (if isSysRm v then fwAsk v (.notice p.src (field p 0 1) (field p 1 1) (field p 2 2)) else v))
    ∧ (∀ q, (noteLoss s q).lnk.lostPos.contains q = true ∧ (noteLoss s q).mem = s.mem)
    ∧ (∀ c : EpochChange, (enterEpoch s c).get LNK_EPOCH.EPOCH = c.epoch % 2 ^ 32 ∧ (enterEpoch s c).get LNK_STATUS.CENSUS_OK = 0
      ∧ (s.lnk.change = none → (enterEpoch s c).get LNK_STATUS.EPOCH_PENDING = 0) ∧ (enterEpoch s c).lnk.change = s.lnk.change
      ∧ (enterEpoch s c).lnk.lost = [])

/-- The census (R322): the ringmaster, or its deputy, begins it and counts it, at epoch 0 once it is synchronised; a request is joined; a reply that the census waits for adds up, another is dropped; children that do not reply are
left out. With every child accounted for it is answered to the parent, or closed at its root: it agrees when every position that holds an identifier was reached and agreed. A CENSUS_OK for the epoch in force lets its steps
start. While firmware is down, what falls to it waits in its queue.
The model's own choices in it: log entries 71, 85, 86, 153. -/
def Obligations.CensusesTakeEffect : Prop :=
  ∀ (s : State) (n : Fin 16) (p : Packet) (u : State) (tp : Topology),
    (fwRuns s = false → Answers .censusStart s fun t => t = settle (fwAsk s .censusDue))
    ∧ (Unheard s n 2 u → Answers (.censusReq n) s fun t => t = settle u)
    ∧ (Unheard s n 3 u → Answers (.censusReply n) s fun t => t = settle u)
    ∧ (Unheard s n 4 u → Answers (.censusOk n) s fun t => t = u)
    ∧ (fwRuns s = true → isSysRm s = false ∨ s.lnk.census ≠ none ∨ s.get LNK_EPOCH.EPOCH = 0 ∧ s.flag CAD_STATUS.SYNCED = false →
      Answers .censusStart s fun t => t = settle s)
    ∧ (fwRuns s = true → isSysRm s = true → s.lnk.census = none → s.get LNK_EPOCH.EPOCH ≠ 0 ∨ s.flag CAD_STATUS.SYNCED = true → s.lnk.topo = some tp →
      ∀ waiting, waiting = ((tp.under (ownPos s)).children systemMask (ownPos s)).map (·.1) → Answers .censusStart s fun t =>
        ∃ v, t = settle v ∧ Counted LNK_CENSUS_CNT 1 s v ∧ v.lnk.censusNo = (s.lnk.censusNo + 1) % 2 ^ 16
          ∧ (waiting ≠ [] → v.get LNK_CENSUS_STATUS.RUNNING = 1
            ∧ ∃ c, v.lnk.census = some c ∧ c.number = (s.lnk.censusNo + 1) % 2 ^ 16 ∧ c.root = ownPos s ∧ c.epoch = s.get LNK_EPOCH.EPOCH
              ∧ c.digest = s.get LNK_DIGEST.DIGEST ∧ c.waiting = waiting ∧ c.reached = 1)
          ∧ (waiting = [] → v.lnk.census = none ∧ v.get LNK_CENSUS_STATUS.RUNNING = 0 ∧ v.get LNK_CENSUS_STATUS.DONE = 1))
    ∧ (∀ (waiting : List Nat) (root : Nat) (agree : Bool), Heard s n 2 p u → fwRuns u = true → u.lnk.topo = some tp → root = rootOf u tp p.src →
      waiting = ((tp.under root).children systemMask (ownPos u)).map (·.1) → agree = agrees u (field p 4 4) (field p 8 8) →
      (waiting ≠ [] → Answers (.censusReq n) s fun t =>
        ∃ v, t = settle v ∧ v.lnk.census = some
          { number := field p 0 2, root := root, epoch := field p 4 4, digest := field p 8 8
            waiting := waiting, reached := 1, agree := b2n agree, firstBad := if agree then 0xFFFF else ownPos u })
      ∧ (waiting = [] → Answers (.censusReq n) s fun t =>
        t = settle (finishCensus u
          { number := field p 0 2, root := root, epoch := field p 4 4, digest := field p 8 8
            waiting := [], reached := 1, agree := b2n agree, firstBad := if agree then 0xFFFF else ownPos u })))
    ∧ (Heard s n 3 p u → fwRuns u = true → u.lnk.topo = some tp → ∀ c, u.lnk.census = some c →
      ((∀ q, tp.posOf p.src = some q → c.number ≠ field p 0 2 ∨ c.waiting.contains q = false) → Answers (.censusReply n) s fun t => t = settle u)
      ∧ (∀ q, tp.posOf p.src = some q → c.number = field p 0 2 → c.waiting.contains q = true → Answers (.censusReply n) s fun t =>
        ∀ d, d = { c with
            waiting := c.waiting.filter (· != q), reached := c.reached + field p 2 2, agree := c.agree + field p 4 2
            firstBad := min c.firstBad (field p 6 2) } →
          t = settle (if d.waiting = [] then finishCensus u d else { u with lnk := { u.lnk with census := some d } })))
    ∧ (s.lnk.census = none → Answers .censusWaitExpire s fun t => t = settle s)
    ∧ (∀ c, fwRuns s = true → s.lnk.census = some c → Answers .censusWaitExpire s fun t =>
        t = settle (finishCensus s { c with waiting := [], firstBad := c.waiting.foldl min c.firstBad }))
    ∧ (∀ c v, s.lnk.topo = some tp → v = finishCensus s c →
      (c.root = ownPos s → v.lnk.census = none ∧ v.get LNK_CENSUS_STATUS.DONE = 1 ∧ v.get LNK_CENSUS_STATUS.RUNNING = 0
          ∧ v.get LNK_CENSUS_STATUS.NUMBER = c.number % 2 ^ 14
          ∧ (v.flag LNK_CENSUS_STATUS.AGREED = true ↔ c.reached = memberCount s ∧ c.agree = memberCount s)
          ∧ v.get LNK_STATUS.CENSUS_OK = (if c.epoch = s.get LNK_EPOCH.EPOCH ∧ c.reached = memberCount s ∧ c.agree = memberCount s then 1
              else s.get LNK_STATUS.CENSUS_OK))
      ∧ (∀ q, c.root ≠ ownPos s → (tp.under c.root).parent systemMask (ownPos s) = some q →
          v = sendControl { s with lnk := { s.lnk with census := none } } (tp.idAt q) 3
            (toBytes 2 c.number ++ toBytes 2 c.reached ++ toBytes 2 c.agree ++ toBytes 2 c.firstBad)))
    ∧ (Heard s n 4 p u → Answers (.censusOk n) s fun t =>
        t.get LNK_STATUS.CENSUS_OK = (if field p 4 4 = u.get LNK_EPOCH.EPOCH then 1 else u.get LNK_STATUS.CENSUS_OK)
        ∧ t.mem = s.mem ∧ t.step = s.step)

/-- DEADLINE_ADJ, ADOPT, ADOPT_FETCH and ADOPT_COMPLETE (R323, R448 to R451): an adjustment is clamped and held for its step, in place of one for the same group and step; one whose step has begun
holds at once, for the REDUCEs of that step too. While firmware runs, an ADOPT for this standby, whose image it holds, begins the
adoption, one whose image it lacks is answered with a notice, and one for another module is relayed. Once its image is installed and no port is held, every tag of the adoption list is fetched; when all fetches have ended
and none has failed the adoption is complete. Before that neither changes anything.
The model's own choices in it: log entry 69. -/
def Obligations.AdjustmentsAndAdoptionsTakeEffect : Prop :=
  ∀ (s : State) (n : Fin 16) (p : Packet) (u : State),
    (Unheard s n 6 u → Answers (.deadlineAdj n) s fun t => t = u)
    ∧ (Unheard s n 7 u → Answers (.adopt n) s fun t => t = u)
    ∧ (Heard s n 6 p u → 4 ≤ field p 0 1 → Answers (.deadlineAdj n) s fun t => t = u)
    ∧ (∀ (g : Nat) (a : Int), Heard s n 6 p u → g = field p 0 1 → g < 4 → a = max (-65536) (min (signed 32 (field p 4 4)) (adjMax u g)) →
      Answers (.deadlineAdj n) s fun t => t.mem = s.mem
        ∧ (u.step.count = 0 ∨ u.step.number < field p 8 8 → t.reduces = u.reduces
          ∧ t.lnk.adjNext = u.lnk.adjNext.filter (fun x => !(x.1 == g && x.2.2 == field p 8 8)) ++ [(g, a, field p 8 8)])
        ∧ (0 < u.step.count → field p 8 8 ≤ u.step.number → u.lnk.adjNext = [] →
          t.lnk.adj = u.lnk.adj.set g a ∧ t.lnk.adjNext = []
          ∧ t.reduces = u.reduces.map (fun x => if x.group = g ∧ field p 8 8 ≤ x.step then
              { x with deadline := x.deadline + (t.lnk.adj.getD g 0 - u.lnk.adj.getD g 0) } else x)))
    ∧ (∀ slot b, Heard s n 7 p u → fwRuns u = true → field p 6 2 = u.lnk.ownId → ownPos u = 0xFFFF → namedImage u (field p 16 8) = some (slot, b) →
      Answers (.adopt n) s fun t =>
        t.get FLT_STATUS.ADOPTING = 1 ∧ t.lnk.adopting = some (field p 25 1 % 8, field p 8 8) ∧ t.lnk.adoptTry = 0
        ∧ ∃ l, t.ctl.load = some l ∧ l.slot = slot ∧ l.bytes = b ∧ ∃ c, l.change = some c ∧ c.epoch = field p 0 4
            ∧ c.base = field p 8 8 ∧ c.amend = [(field p 4 2, field p 6 2)])
    ∧ (Heard s n 7 p u → fwRuns u = false → field p 6 2 = u.lnk.ownId → Answers (.adopt n) s fun t => t = fwAsk u (.adopt n p))
    ∧ (Heard s n 7 p u → fwRuns u = true → field p 6 2 = u.lnk.ownId → ownPos u = 0xFFFF → namedImage u (field p 16 8) = none → Answers (.adopt n) s fun t =>
      t = sendOnPort { u with lnk := { u.lnk with mseq := (u.lnk.mseq + 1) % 2 ^ 16 } } n 0
        (Packet.make p.src u.lnk.ownId 0 false true (5 + u.lnk.mseq * 2 ^ 8) (notifyData u 14 0xFF u.lnk.ownId)))
    ∧ (Heard s n 7 p u → fwRuns u = true → field p 6 2 = u.lnk.ownId → ownPos u ≠ 0xFFFF → Answers (.adopt n) s fun t => t = u)
    ∧ (Heard s n 7 p u → field p 6 2 ≠ u.lnk.ownId → Answers (.adopt n) s fun t =>
        t = relayAdopt u (field p 24 1 % 8) (field p 6 2) p.src p.hdr1 p.data)
    ∧ (∀ dir base tp, s.lnk.adopting = some (dir, base) → s.lnk.topo = some tp → s.get FLT_STATUS.ADOPTING ≠ 0 → fwRuns s = true →
      s.ctl.load = none → s.ctl.installing = none → ownPos s ≠ 0xFFFF → s.lnk.adoptTry = 0 → (∀ k, k < 16 → s.get (LNK_P_STATUS.HELD k) ≠ 1) →
      (∀ x ∈ s.xfers, x.id < s.lnk.xferNo) → Answers .adoptFetch s fun t =>
        t.lnk.adoptTry = 1
        ∧ (t.xfers.filter (fun x => x.seqr == 4)).length
            = (s.xfers.filter (fun x => x.seqr == 4)).length + (wordsOf 4 (imgSection s 12)).length)
    ∧ (s.lnk.adopting = none ∨ s.lnk.topo = none ∨ s.get FLT_STATUS.ADOPTING = 0 ∨ fwRuns s = false ∨ s.ctl.load ≠ none
        ∨ s.ctl.installing ≠ none ∨ ownPos s = 0xFFFF ∨ s.lnk.adoptTry ≠ 0 ∨ (∃ k, k < 16 ∧ s.get (LNK_P_STATUS.HELD k) = 1) →
      Answers .adoptFetch s fun t => t = s)
    ∧ (s.get FLT_STATUS.ADOPTING ≠ 0 → s.lnk.adoptTry = 1 → s.xfers.any (fun x => x.seqr == 4) = false →
      Answers .adoptComplete s fun t =>
        t.get FLT_STATUS.ADOPTING = 0 ∧ t.flag FLT_FLAGS.ADOPTED = true ∧ Counted FLT_ADOPT_CNT 1 s t ∧ t.lnk.adopting = none
        ∧ t.mem = s.mem)
    ∧ (s.get FLT_STATUS.ADOPTING = 0 ∨ s.lnk.adoptTry ≠ 1 ∨ s.xfers.any (fun x => x.seqr == 4) = true →
      Answers .adoptComplete s fun t => t = s)

/-! Gradient reduction (11). -/

/-- Narrowing, the residue checks and the recomputations (R340 to R343): a narrowed element and what is discarded of it make up the element; a sum that the shift of R341 narrows fits 16 bits; a combine of blocks
whose RES is right finds no input wrong; and the block that a combine answers, at whichever attempt, has its number and a RES that is right, the first attempt's when that finds nothing wrong. -/
def Obligations.CombinesLoseNothingUnnoticed : Prop :=
  (∀ (near : Bool) (lane n : Nat) (ws : List Int) (g : Gens), (narrow near lane n ws g).1.length = ws.length
    ∧ List.zipWith (fun q d => q * 2 ^ n + d) (narrow near lane n ws g).1 (narrow near lane n ws g).2.1 = ws
    ∧ ∀ d ∈ (narrow near lane n ws g).2.1, d.natAbs < 2 ^ n)
  ∧ (∀ (near : Bool) (lane : Nat) (ws : List Int) (g : Gens), (∀ w ∈ ws, -(2 ^ 27 : Int) ≤ w ∧ w ≤ (2 ^ 15 - 1) * 2 ^ 12) →
    ∀ q ∈ (narrow near lane (narrowBy ws) ws g).1, -(2 ^ 15 : Int) ≤ q ∧ q ≤ 2 ^ 15 - 1)
  ∧ (∀ (near : Bool) (lane block : Nat) (absent carried : Bool) (ins : List G16) (g : Gens),
    (∀ b ∈ ins, b.res = residue b.q ∧ (b.withheld = true → ∀ x ∈ b.q, x = 0)) →
    (attempt near lane block absent carried ins g).2.1 = [])
  ∧ (∀ (s : State) (port : Option Nat) (tid block : Nat) (absent carried : Bool) (ins : List G16) (hw : List Nat) (r : G16 × State),
    r = combine3 s port tid block absent carried ins hw →
    r.1.block = block ∧ r.1.res = residue r.1.q
    ∧ r.2 = { s with regs := r.2.regs, genLanes := r.2.genLanes, logIn := r.2.logIn, free := r.2.free }
    ∧ (∀ a, a = attempt (redNear s) (match port with | some n => 4096 + 64 * n | none => 5120) block absent carried ins (redGens s) →
      a.2.1 = [] → hw.getD 0 0 = 0 → r.1 = a.1 ∧ r.2.logIn = s.logIn
        ∧ RegsKept (counterFields (numInf regionRED) ++ counterFields (numFtz regionRED)) s r.2
        ∧ Counted (numInf regionRED) a.2.2.1.inf s r.2 ∧ Counted (numFtz regionRED) a.2.2.1.ftz s r.2))

/-- SOURCE_BLOCK_FORM, COMBINE_FIRE and REDUCE_CLOSE (R332 to R343, R348 to R350): the next source block of a REDUCE, complete or not, waits for the slots of its tile, is formed and is offered to its combine. A
combine whose inputs are all present fires once, in the order of the blocks: its inputs leave their buffers, carried ones are taken in, and its block goes up, or at the root to every member. At its close every
combine of a member that is not cut off has fired. Nothing else happens: with no such REDUCE, none to form, a combine that may not fire, or a close that is past or to come.
G16 (R330 to R332, R344, R348 to R350, R446): a packet whose REDUCE of the running step is still to come waits, and keeps back its own channel alone; one of another step but the last is dropped and counted; of any other each block is taken in turn, and keeps its place in the
receive buffer until it is done with. A block on its way up is an input from that child, or late once its combine has fired or its REDUCE is complete; a late one is carried into the next step, or dropped and counted where LATE is set or there is
no room; a member that is cut off drops it without a count. A block on its way down is a result; one that comes LOST goes on unchanged, and one whose RES is wrong is LOST.
The model's own choices in it: log entries 70, 75, 76, 154. -/
def Obligations.BlocksAreFormedCombinedAndReceived : Prop :=
  (∀ (s : State) (tid : BitVec 16),
    (srcAt s tid.toNat = none → Answers (.sourceBlockForm tid) s fun t => t = s)
    ∧ (∀ op, srcAt s tid.toNat = some op →
      ((∀ d, descAt s op.src = some d → 16 * d.tiles ≤ op.formed ∨ op.acq.needs ≠ []) → Answers (.sourceBlockForm tid) s fun t => t = s)
      ∧ (∀ d a, descAt s op.src = some d → op.formed < 16 * d.tiles → op.acq.needs = [] →
        a = acquire (s.inOp (2 ^ 20 + op.id)) op.acq (redUses s d (op.formed / 16) false) → Answers (.sourceBlockForm tid) s fun t =>
          (a.1.needs ≠ [] → t = putRed a.2 { op with acq := a.1 })
          ∧ (a.1.needs = [] → ∀ r op', r = formBlock a.2 { op with acq := a.1 } d op.formed →
            op' = { op with acq := a.1, formed := op.formed + 1 } →
            t = leaveTile (offerBlock (putRed r.2 op') op' r.1) op' d
            ∧ r.1.block = op.formed ∧ r.1.res = residue r.1.q
            ∧ (r.1.withheld = false → r.1.count = 1 ∧ r.1.q.length = 64 ∧ 1 ≤ r.1.exp ∧ r.1.exp ≤ 254
                ∧ ∀ x ∈ r.1.q, -32768 ≤ x ∧ x ≤ 32767))))
    ∧ (∀ block hw, (∀ op, redAt s tid.toNat = some op → mayFire s op block = false) →
      Answers (.combineFire tid block hw) s fun t => t = s)
    ∧ (∀ hw, redAt s tid.toNat = none → Answers (.reduceClose ⟨tid, hw⟩) s fun t => t = s)
    ∧ ∀ op, redAt s tid.toNat = some op →
      (∀ block hw ins, block < redBlocks s op → op.fired.contains block = false → isCut s op.group = false →
        inputsPresent s op block = true → (∀ b, b < block → op.fired.contains b = false → inputsPresent s op b = false) →
        ins = (0 :: (redChildren s op.group).map (·.1)).filterMap
          (fun w => (((FMap.find op.inputs block).getD []).find? (fun x => x.who == w)).map (·.blk)) →
        Answers (.combineFire tid block hw) s fun t =>
          ∃ (u v w : State) (more : List G16) (b : G16) (op' : ReduceOp),
            takeCarried s op block = (more, u)
            ∧ (b, v) = combine3 (freeBlocks u op.group ((FMap.find op.inputs block).getD []))
                (if isRoot s op.group then none else adderPort u op.group block) op.tid block false (decide (more ≠ [])) (ins ++ more) hw
            ∧ op' = { op with inputs := FMap.del op.inputs block, fired := block :: op.fired, lastFire := Int.ofNat s.tick }
            ∧ w = putRed (v.count RED_COMBINE_CNT 1) op' ∧ Counted RED_COMBINE_CNT 1 v (v.count RED_COMBINE_CNT 1)
            ∧ (isRoot s op.group = true → t = takeResult w op' b)
            ∧ (isRoot s op.group = false → ∀ d, s.lnk.topo.bind (fun t => t.parentDir (t.redMask op.group) (ownPos s)) = some d →
                t = sendBlock w op.group d op.tid op.step false b))
      ∧ (∀ hw, op.closed = true ∨ Int.ofNat s.tick < op.deadline - Int.ofNat (closeDepth s op.group * s.held RED_CFG.HOP_TICKS) →
        Answers (.reduceClose ⟨tid, hw⟩) s fun t => t = s)
      ∧ (∀ hw, op.closed = false → op.deadline - Int.ofNat (closeDepth s op.group * s.held RED_CFG.HOP_TICKS) ≤ Int.ofNat s.tick →
        (isCut s op.group = true → Answers (.reduceClose ⟨tid, hw⟩) s fun t => t = putRed s { op with closed := true })
        ∧ (isCut s op.group = false → (s.reduces.map (·.id)).Nodup → Answers (.reduceClose ⟨tid, hw⟩) s fun t =>
            ∃ op', redAt t tid.toNat = some op' ∧ op'.closed = true ∧ ∀ b, b < redBlocks s op → b ∈ op'.fired)))
  ∧ ((∀ (s : State) (n : Fin 16) (upset : Bool),
    (peekRx s n (isG16 s) = none → Answers (.g16 n upset) s fun t => t = s)
    ∧ ∀ x bs step down, peekRx s n (isG16 s) = some x → bs = packetBlocks x.pkt → step = bits x.pkt.hdr1 32 32 → down = bit x.pkt.hdr1 16 →
      x.pkt.typ = 11 ∧ mustWait s (bits x.pkt.hdr1 0 16) step = false
      ∧ (step ≠ s.step.number % 2 ^ 32 → (step + 1) % 2 ^ 32 ≠ s.step.number % 2 ^ 32 → Answers (.g16 n upset) s fun t =>
        t = (takeRx s n (isG16 s)).count RED_LATE_DROP_CNT (bits x.pkt.hdr1 17 5))
      ∧ (step = s.step.number % 2 ^ 32 ∨ (step + 1) % 2 ^ 32 = s.step.number % 2 ^ 32 →
        ∀ q, q = ({ s.port n with inbox := ((takeRx s n (isG16 s)).port n).inbox }).free (vcKey x.vc x.cls)
            (x.pkt.bytes.length - 136 * bs.length) → Answers (.g16 n upset) s fun t =>
          t = bs.foldl (fun u b => takeBlock u (x.vc - 2) n x.pkt.src (bits x.pkt.hdr1 0 16) step down upset b) (s.setPort n q)))
  ∧ (∀ (s f t : State) (g port src tid step : Nat) (down upset : Bool) (b : G16), t = takeBlock s g port src tid step down upset b →
    f = freeBlocks s g [{ who := 0, port := some port, blk := b }] →
    f = { s with lnk := f.lnk }
    ∧ (∀ op, redAt s tid = some op → op.step % 2 ^ 32 = step →
      (∀ who, down = false → who = ((s.lnk.topo.bind (fun t => t.posOf src)).map (· + 1)).getD 0 →
        (isCut s g = true ∨ (redChildren s g).any (fun c => c.1 == who) = false ∨ redBlocks s op ≤ b.block → t = f)
        ∧ (isCut s g = false → (redChildren s g).any (fun c => c.1 == who) = true → b.block < redBlocks s op →
          (op.fired.contains b.block = true → ∃ v, t = lateInput v op.id op.tid op.step op.late b ∧ v = { s with lnk := v.lnk })
          ∧ (op.fired.contains b.block = false → t = putRed s { op with
              inputs := FMap.put op.inputs b.block (((FMap.find op.inputs b.block).getD []).filter (fun y => y.who != who)
                ++ [{ who := who, port := some port, blk := b }]) })))
      ∧ (down = true →
        (hasResult op b.block = true ∨ redBlocks s op ≤ b.block → t = f.count RED_LATE_DROP_CNT 1)
        ∧ (hasResult op b.block = false → b.block < redBlocks s op →
          (residue b.q = b.res → ∃ v, t = takeResult v op b ∧ (upset = false → b.lost = false → v = f)
              ∧ v = { f with regs := v.regs } ∧ Counted RED_RES_FAIL_CNT (if upset then 1 else 0) s v
              ∧ Counted RED_MISSING_CNT (if b.lost then 1 else 0) s v)
          ∧ (residue b.q ≠ b.res → ∃ v, t = takeResult v op (G16.gone b.block) ∧ v = { f with regs := v.regs }
              ∧ Counted RED_RES_FAIL_CNT 2 s v ∧ Counted RED_MISSING_CNT 1 s v))))
    ∧ ((∀ op, redAt s tid = some op → op.step % 2 ^ 32 ≠ step) → t = takeLate f g tid step down b)
    ∧ (down = true ∨ (∀ e, FMap.find s.red.history tid = some e → e.2.1 % 2 ^ 32 ≠ step) →
      takeLate s g tid step down b = s.count RED_LATE_DROP_CNT 1)
    ∧ (∀ late st id, down = false → FMap.find s.red.history tid = some (late, st, id) → st % 2 ^ 32 = step →
      takeLate s g tid step down b = if isCut s g then s else lateInput s id tid st late b))
  ∧ (∀ (s t : State) (id tid step : Nat) (late : Bool) (b : G16), t = lateInput s id tid step late b →
    (late = true ∨ carryArea s = none → Counted RED_LATE_DROP_CNT 1 s t ∧ t.red = s.red ∧ t.mem = s.mem)
    ∧ (∀ tag n used, late = false → carryArea s = some (tag, n) → used = (s.red.carry.filter (fun e => e.half == step % 2)).map (·.place) →
      ((∀ i, i < n → i ∈ used) → Counted RED_LATE_DROP_CNT 1 s t ∧ t.red = s.red ∧ t.mem = s.mem)
      ∧ (∀ i, i < n → i ∉ used → (∀ j, j < i → j ∈ used) → Counted RED_LATE_CARRY_CNT 1 s t
        ∧ t.red = { s.red with carry := s.red.carry ++ [(⟨step % 2, i, tid, b.block, step⟩ : CarryEntry)] }))))

/-- REDUCE, RESULT_MISSING, REDUCE_COMPLETE and ADJ_REVIEW (R276, R278, R345, R346, R351, R352): a REDUCE that Table 9.6 does not refuse is launched, its result unspecified where it races; results that have not come are MISSING; a REDUCE all of
whose tiles are complete leaves, its step kept for what arrives late and its source blocks still formed; and the ringmaster of a group, or its deputy, raises the adjustment after a step with a PARTIAL result and lowers it after a run of calm
ones.
The model's own choices in it: log entries 76, 77, 87. -/
def Obligations.ReductionsBeginAndEnd : Prop :=
  ∀ (s : State),
    (∀ (q : Fin 4) (doff src dst group : Nat) (late : Bool) (tid deadline a b : Nat) (d e : Desc),
      AtInsn s q (.reduce doff src dst group late tid deadline) → a = effDesc s q doff 0 src → b = effDesc s q doff 1 dst →
      namedDesc s a = some d → namedDesc s b = some e → d.cls = Desc.clsLink → e.cls = Desc.clsResult →
      e.fmt = 0 ∨ e.fmt = 10 → e.layout = 1 ∨ e.layout = 2 → d.sizes = e.sizes → 16 * e.tiles ≤ 2 ^ 28 → redAt s tid = none →
      redMask s group ≠ 0 →
      (redLimit ≤ s.reduces.length → Answers (.reduce q) s fun t => t = { s with seqs := s.seqs.set q { s.seqr q with stall := .other } })
      ∧ (∀ (typ : Nat) (u v : State) (open_ : Bool), s.reduces.length < redLimit →
        gate s q (Work.ofDescs s { link := 16 * 136 * e.tiles } [a, b]) = (some typ, u) →
        raceWith u { seqr := q.val, reads := [a], writes := [b] } = (open_, v) → Answers (.reduce q) s fun t =>
          ∃ w, w = { v.newOp (2 ^ 20 + u.red.next) with
                reduces := v.reduces ++ [
                  { id := u.red.next, src := a, dst := b, group := group, late := late, tid := tid
                    deadline := Int.ofNat (u.step.sched + deadline) + adjOf u group, step := u.step.number, formed := 0
                    closed := false, inputs := [], fired := [], results := [], written := [], done := []
                    acq := Acq.none 8, acqW := Acq.none 8, partials := false, lastFire := 0
                    open_ := open_ || descsMeet u d e, energy := typ }]
                red := { u.red with next := u.red.next + 1 } }
            ∧ t = { w with
                regs := t.regs, seqs := w.seqs.set q ((w.seqr q).stepped (((w.seqr q).pc + 1) % 4096)) }
            ∧ RegsKept (counterFields SEQ_ISSUE_CNT) w t ∧ Counted SEQ_ISSUE_CNT 1 w t))
    ∧ (∀ tid : BitVec 16, redAt s tid.toNat = none → Answers (.resultMissing tid) s (fun t => t = s) ∧ Answers (.reduceComplete tid) s fun t => t = s)
    ∧ (∀ (tid : BitVec 16) (op : ReduceOp) (gone : List Nat), redAt s tid.toNat = some op →
      gone = (List.range (redBlocks s op)).filter (fun b => !hasResult op b) →
      (Int.ofNat s.tick < op.deadline + Int.ofNat (max 1 (s.held RED_CFG.RESULT_WAIT)) ∨ gone = [] →
        Answers (.resultMissing tid) s fun t => t = s)
      ∧ (op.deadline + Int.ofNat (max 1 (s.held RED_CFG.RESULT_WAIT)) ≤ Int.ofNat s.tick → gone ≠ [] →
        Answers (.resultMissing tid) s fun t =>
          ∃ v op', t = settleResults v op' ∧ op' = { op with results := gone.foldl (fun m b => FMap.put m b (G16.gone b)) op.results }
            ∧ Counted RED_MISSING_CNT gone.length s v ∧ v.get RED_LAST_ERR.CODE = 7 ∧ v.mem = s.mem ∧ v.slots = s.slots))
    ∧ (∀ (tid : BitVec 16) (op : ReduceOp), redAt s tid.toNat = some op →
      (16 * op.done.length < redBlocks s op → Answers (.reduceComplete tid) s fun t => t = s)
      ∧ (redBlocks s op ≤ 16 * op.done.length → Answers (.reduceComplete tid) s fun t =>
          t = { s with
              regs := t.regs, red := t.red, lnk := (freeInputs s op).lnk, reduces := s.reduces.filter (fun x => x.id != op.id)
              cad := { s.cad with done := s.cad.done + op.energy } }
          ∧ t.red = { s.red with
              history := FMap.put s.red.history op.tid (op.late, op.step, op.id), partials := t.red.partials, margins := t.red.margins
              forming := if op.formed < redBlocks s op then s.red.forming ++ [{ op with inputs := [], results := [], written := [] }]
                else s.red.forming }
          ∧ (op.partials = true → op.group ∈ t.red.partials)
          ∧ (∃ m, FMap.find t.red.margins op.group = some m ∧ m ≤ op.deadline - op.lastFire)
          ∧ RegsKept (counterFields RED_REDUCE_CNT) s t ∧ Counted RED_REDUCE_CNT 1 s t))
    ∧ (∀ g : Fin 4, s.red.review.find? (fun r => r.1 == g.val) = none → Answers (.adjReview g) s fun t => t = s)
    ∧ (∀ (g : Fin 4) (step : Nat) (part : Bool) (margin : Option Int) (u : State),
      s.red.review.find? (fun r => r.1 == g.val) = some (g.val, step, part, margin) →
      u = { s with red := { s.red with review := s.red.review.eraseP (fun r => r.1 == g.val) } } →
      (fwRuns s = false → Answers (.adjReview g) s fun t => t = s)
      ∧ (fwRuns s = true → s.held RED_ADJ_CFG.AUTO = 0 ∨ redRm s g ≠ some (ownPos s) → Answers (.adjReview g) s fun t => t = u)
      ∧ (s.held RED_ADJ_CFG.AUTO ≠ 0 → redRm s g = some (ownPos s) → fwRuns s = true →
        (part = true → Answers (.adjReview g) s fun t =>
          t = sendAdj { u with red := { u.red with calm := FMap.put u.red.calm g 0 } } g
            (adjLatest s g + Int.ofNat (s.held RED_ADJ_CFG.UP)) (step + 2))
        ∧ (∀ m, part = false → margin = some m → m ≤ Int.ofNat (s.held RED_ADJ_CFG.TARGET) → Answers (.adjReview g) s fun t =>
          t = { u with red := { u.red with calm := FMap.put u.red.calm g 0 } })
        ∧ (∀ c, part = false → (∀ m, margin = some m → Int.ofNat (s.held RED_ADJ_CFG.TARGET) < m) →
          c = (FMap.find s.red.calm g).getD 0 + 1 → Answers (.adjReview g) s fun t =>
            ∀ v, v = { u with red := { u.red with calm := FMap.put u.red.calm g c } } →
              t = if c < max 1 (s.held RED_ADJ_CFG.CALM) then v
                else sendAdj v g (adjLatest s g - Int.ofNat (s.held RED_ADJ_CFG.DOWN)) (step + 2))))

/-! Steps and the cadence (01, 14). -/

/-- STEP_START and STEP_COMPLETE (R29, R34, R37, R65, R168, R260): a step that can start does, every sequencer that stands still beginning it with its counters cleared and the step number in C15, and the registers that
take effect there latched; samples of its data step not yet sent are passed over. A step whose sequencers have all halted is complete, and the boundary follows. Otherwise nothing happens.
The model's own choices in it: log entries 15, 114, 148, 149. -/
def Obligations.StepsStartAndComplete : Prop :=
  ∀ (s : State),
    (∀ t0 per, s.step.next = some t0 → canStart s t0 = true → per = stepPeriod s → Answers .stepStart s fun t =>
      t.step.running = true ∧ t.step.sched = t0 ∧ t.step.number = t0 / per ∧ t.step.next = some (t0 + per)
      ∧ t.step.count = s.step.count + 1 ∧ t.latched = (passSamples s).regs ∧ t.ing = (passSamples s).ing ∧ t.mem = s.mem ∧ t.slots = s.slots
      ∧ t.unwaited = [] ∧ (∀ g, (∀ a ∈ s.lnk.adjNext, a.1 = g → t0 / per < a.2.2) → t.lnk.adj.getD g 0 = s.lnk.adj.getD g 0)
      ∧ (∀ r ∈ [regionDNS, regionDRV, regionRED, regionING],
          t.get (numSeed r) = stepSeed (imgField s 1 4 4) (t0 / per) ∧ FMap.find t.genLanes r = none)
      ∧ (∀ q : Fin 4, (s.seqr q).running = false → (s.seqr q).hooks = [] →
          t.seqr q = { s.seqr q with pc := 0, running := true, stall := .none, f := false, calls := [], issued := 0, startDue := false }
          ∧ (∀ n, n < 15 → counter t q n = 0) ∧ counter t q 15 = t0 / per % 2 ^ 32)
      ∧ (∀ q : Fin 4, (s.seqr q).running = true ∨ (s.seqr q).hooks ≠ [] → t.seqr q = { s.seqr q with startDue := true, issued := 0 })
      ∧ (∀ n, n < 64 → scalar t n = scalar s n)
      ∧ Counted SEQ_OVERRUN_CNT (b2n s.step.late) s t)
    ∧ ((∀ t0, s.step.next = some t0 → canStart s t0 = false) → Answers .stepStart s fun t => t = s)
    ∧ (s.step.running = true → s.seqs.toList.all SeqState.halted = true → Answers .stepComplete s fun t =>
      ∃ v, t = boundary v ∧ v.step = { s.step with running := false, lastDone := some s.step.number }
        ∧ v.get HST_STATUS.STEP = s.step.number % 2 ^ 39 ∧ v.get HST_STATUS.STEPV = 1
        ∧ (s.flag FLT_STATUS.YIELD_PENDING = true →
            v.get FLT_STATUS.YIELD_PENDING = 0 ∧ v.get FLT_STATUS.WITHDRAWN = 1)
        ∧ (∀ c ∈ v.cad.ckpts, s.step.number < c.1))
    ∧ (s.step.running = false ∨ s.seqs.toList.all SeqState.halted = false → Answers .stepComplete s fun t => t = s)

/-- TICK_EDGE, TICK_LOSS, FREEWHEEL_ADVANCE and TICK_SET (R406 to R409, R416, R557): an accepted edge advances the count by one or to the value set, one that comes too soon is counted alone; the loss of TICK begins
holdover with four advances, in which every tick period advances the count, and the 17th edge of a run ends it, an edge too far from the period beginning the run again. Before operation, TICK, its loss and tick periods do nothing.
TIMECODE, TIMECODE_SEND and SEND_TC (R411 to R415): the bellwether sends one that is due on every port that is up; one from another module is rejected and counted; one from the bellwether sets the count from its
tick, the delay and the phase, and the module is synchronised, a value to be set at the same edge discarded; one seen before changes nothing. No other module sends one, and with none due or none at the head of the channel nothing happens.
The model's own choices in it: log entry 79. -/
def Obligations.TheCountAdvancesAndTimecodesTakeEffect : Prop :=
  ((∀ (s : State) (catchUp : Bool),
    (advance catchUp s).tick = (s.cad.tickSet.getD (s.tick + 1)) % 2 ^ 64 ∧ (advance catchUp s).cad.tickSet = none
    ∧ (advance catchUp s).mem = s.mem ∧ (advance catchUp s).cad.cap = s.get CAD_BUDGET.CAP_MJ
    ∧ (advance catchUp s).cad.bucket ≤ bucketCap (advance catchUp s)
    ∧ (∀ e ∈ (advance catchUp s).cad.armed, (advance catchUp s).tick < e.2))
  ∧ (∀ (s : State) (gap : BitVec 32), s.cad.running = false →
    Answers (.tickEdge gap) s (fun t => t = s) ∧ Answers .tickLoss s (fun t => t = s) ∧ Answers .freewheelAdvance s fun t => t = s)
  ∧ (∀ (s : State) (gap : BitVec 32), s.cad.running = true →
    (s.cad.edge = false → Answers (.tickEdge gap) s fun t => t = advance false { s with cad := { s.cad with edge := true } })
    ∧ (s.cad.edge = true → edgeTooSoon s gap.toNat = true → Answers (.tickEdge gap) s fun t =>
        t = { s with regs := t.regs } ∧ RegsKept (counterFields CAD_TICK_GLITCH_CNT) s t ∧ Counted CAD_TICK_GLITCH_CNT 1 s t)
    ∧ (s.cad.edge = true → edgeTooSoon s gap.toNat = false → s.get CAD_STATUS.HOLDOVER = 0 → Answers (.tickEdge gap) s fun t =>
        ∃ v, t = advance false v ∧ v.cad = { s.cad with spacings := (gap.toNat :: s.cad.spacings).take 1024 } ∧ v.mem = s.mem
          ∧ RegsKept [CAD_TICK_RATE.PERIOD_PS, CAD_TICK_RATE.VALID] s v
          ∧ (v.get CAD_TICK_RATE.VALID = 1 ↔ 1023 ≤ s.cad.spacings.length))
    ∧ (s.cad.edge = true → edgeTooSoon s gap.toNat = false → s.flag CAD_STATUS.HOLDOVER = true → s.cad.regain = 16 →
        gap.toNat * 100000 ≤ 11 * tickPs s → 9 * tickPs s ≤ gap.toNat * 100000 → Answers (.tickEdge gap) s fun t =>
        t.get CAD_STATUS.HOLDOVER = 0 ∧ t.get CAD_TICK_RATE.VALID = 0 ∧ t.tick = (s.cad.tickSet.getD (s.tick + 1)) % 2 ^ 64
        ∧ t.cad.spacings = [])
    ∧ (∀ near n, s.cad.edge = true → edgeTooSoon s gap.toNat = false → s.flag CAD_STATUS.HOLDOVER = true →
        near = (decide (gap.toNat * 100000 ≤ 11 * tickPs s) && decide (9 * tickPs s ≤ gap.toNat * 100000)) →
        n = (if s.cad.regain = 0 ∨ near = false then 1 else s.cad.regain + 1) → n < 17 → Answers (.tickEdge gap) s fun t =>
        t = { s with cad := { s.cad with regain := n } })
    ∧ (s.cad.edge = false ∨ s.flag CAD_STATUS.HOLDOVER = true → Answers .tickLoss s fun t => t = s)
    ∧ (s.flag CAD_STATUS.HOLDOVER = false → Answers .freewheelAdvance s fun t => t = s)
    ∧ (s.cad.edge = true → s.flag CAD_STATUS.HOLDOVER = false → s.cad.tickSet = none → Answers .tickLoss s fun t =>
        t.get CAD_STATUS.HOLDOVER = 1 ∧ t.tick = (s.tick + 4) % 2 ^ 64 ∧ Counted CAD_TICK_LOSS_CNT 1 s t ∧ Counted FLT_ESC_CNT 1 s t
        ∧ t.mem = s.mem)
    ∧ (s.flag CAD_STATUS.HOLDOVER = true → Answers .freewheelAdvance s fun t => t = advance false s))
  ∧ (∀ (s : State) (v : BitVec 64), Answers (.tickSet v) s fun t =>
    t = { s with cad := { s.cad with tickSet := some v.toNat, sendTc := s.cad.sendTc || isBellwether s } }))
  ∧ ((∀ (a : Int) (b : Nat), 0 < b → 2 * (a - nearestAway a b * Int.ofNat b).natAbs ≤ b)
  ∧ (∀ (s : State) (delay : BitVec 32), (isBellwether s = false → Answers .sendTc s fun t => t = s)
    ∧ (isBellwether s = false ∨ s.cad.tcDue = 0 → Answers (.timecodeSend delay) s fun t => t = s))
  ∧ (∀ (s : State) (n : Fin 16) (phi residence : BitVec 32) (edges : TcEdges), peekRx s n (isType 2) = none →
    Answers (.timecode n phi residence edges) s fun t => t = s)
  ∧ (∀ (s : State), isBellwether s = true →
    (Answers .sendTc s fun t => t = { s with cad := { s.cad with sendTc := true } })
    ∧ (∀ delay : BitVec 32, s.cad.tcDue ≠ 0 → Answers (.timecodeSend delay) s fun t =>
        t = { s with
          lnk := t.lnk, cad := { s.cad with tcDue := s.cad.tcDue - 1, tseq := (s.cad.tseq + 1) % 2 ^ 32 } }
        ∧ ∀ n : Fin 16, t.port n = { s.port n with
            txq := (s.port n).txq ++ (if s.get (LNK_P_STATUS.STATE n) = 2 then
              [{ vc := 1, cls := 0, sent := 0, lastSeq := 0, xfer := none
                 pkt := timecode s.lnk.ownId ((s.cad.tseq + 1) % 2 ^ 32) 0 s.tick (s.get LNK_EPOCH.EPOCH) delay.toNat }] else []) }))
  ∧ (∀ (s : State) (n : Fin 16) (phi residence : BitVec 32) (edges : TcEdges) (x : RxPkt) (p : Packet) (u : State),
    peekRx s n (isType 2) = some x → p = x.pkt → u = takeRx s n (isType 2) →
    (fromBellwether u p.src = false → Answers (.timecode n phi residence edges) s fun t => t = u.count CAD_TC_REJECT_CNT 1)
    ∧ (fromBellwether u p.src = true → p.src = u.lnk.ownId ∨ u.cad.applied.contains (bits p.hdr1 0 32) = true →
        Answers (.timecode n phi residence edges) s fun t => t = u)
    ∧ (fromBellwether u p.src = true → p.src ≠ u.lnk.ownId → u.cad.applied.contains (bits p.hdr1 0 32) = false →
        Answers (.timecode n phi residence edges) s fun t =>
          Int.ofNat t.tick = (Int.ofNat (field p 0 8) + Int.ofNat edges.edges.toNat + nearestAway
            ((Int.ofNat (field p 12 4 + portDelay u n) - Int.ofNat phi.toNat) * 1000) (tickPs u)) % 2 ^ 64
          ∧ t.cad.tickSet = (if edges.same then none else s.cad.tickSet)
          ∧ t.get CAD_STATUS.SYNCED = 1 ∧ Counted CAD_TC_CNT 1 s t ∧ t.get CAD_TC_LAST.TSEQ = bits p.hdr1 0 32
          ∧ t.get CAD_TC_LAST.SRC = p.src ∧ t.cad.applied.head? = some (bits p.hdr1 0 32) ∧ t.mem = s.mem)))

/-- SCHED_INSTALL, POWER_ENTRY_FIRE and CHECKPOINT_ENTRY_FIRE (R39, R417 to R421): a write of word 1 arms its entry for the tick of word 0 or disarms it, fires it late when that tick has come, and is ignored for KIND 3. What is due acts in its
turn, after what has arrived for that tick, its step start and its tick waits: a POWER entry sets the budget and the cap, and a checkpoint takes effect when its step has run here and is complete, waits for it, or has none; with SNAPSHOT firmware is asked for one.
GOVERNOR_ADMIT, VETO_RELEASE, VETO_EXPIRE, PREDICTOR_SAMPLE and PRED_RESET (R424, R425, R427 to R429): which launch the governor lets go, that it is charged, that held ones go as they can be paid and the headroom allows, that one held for its
limit goes, and what a sample of the predictors and their reset leave. While the supply holds launches they wait and their cycles count. In another mode, with none held or before a sample is due, nothing happens.
The model's own choices in it: log entries 26, 81, 82, 83, 84. -/
def Obligations.ScheduleAndGovernorTakeEffect : Prop :=
  (∀ (s : State),
    (∀ (n : Fin 64) (w : BitVec 64) (tick : Nat), tick = s.get (CAD_SCHED0.TICK n) →
      (bits w.toNat 1 2 = 3 → Answers (.schedInstall n w) s fun t => t = s)
      ∧ (bits w.toNat 1 2 ≠ 3 → bit w.toNat 0 = true → s.tick < tick → (∀ e ∈ s.cad.armed, s.tick < e.2) →
          Answers (.schedInstall n w) s fun t =>
            t = { s with regs := t.regs, cad := { s.cad with armed := FMap.put s.cad.armed n tick } }
            ∧ t.get (CAD_SCHED1.VALID n) = 1 ∧ t.get (CAD_SCHED1.KIND n) = bits w.toNat 1 2
            ∧ t.get (CAD_SCHED1.BUDGET_W n) = bits w.toNat 8 16 ∧ t.get (CAD_SCHED1.ACLK n) = bits w.toNat 24 2
            ∧ RegsKept [CAD_SCHED1.VALID n, CAD_SCHED1.KIND n, CAD_SCHED1.BUDGET_W n, CAD_SCHED1.ACLK n, CAD_SCHED1.SNAPSHOT n] s t)
      ∧ (bits w.toNat 1 2 ≠ 3 → bit w.toNat 0 = false → (∀ e ∈ s.cad.armed, s.tick < e.2) → Answers (.schedInstall n w) s fun t =>
            t = { s with regs := t.regs, cad := { s.cad with armed := FMap.del s.cad.armed n } } ∧ t.get (CAD_SCHED1.VALID n) = 0
            ∧ RegsKept [CAD_SCHED1.VALID n, CAD_SCHED1.KIND n, CAD_SCHED1.BUDGET_W n, CAD_SCHED1.ACLK n, CAD_SCHED1.SNAPSHOT n] s t)
      ∧ (bits w.toNat 1 2 = 0 → bit w.toNat 0 = true → tick ≤ s.tick → s.cad.armed = [] → Answers (.schedInstall n w) s fun t =>
            t = { s with regs := t.regs } ∧ t.get (CAD_SCHED1.VALID n) = 0
            ∧ Counted CAD_SCHED_FIRE_CNT 1 s t ∧ Counted CAD_SCHED_LATE_CNT 1 s t)
      ∧ (bits w.toNat 1 2 = 1 ∨ bits w.toNat 1 2 = 2 → bit w.toNat 0 = true → tick ≤ s.tick → s.cad.armed = [] →
          Answers (.schedInstall n w) s fun t =>
            ∃ d, t.cad = { s.cad with due := s.cad.due ++ [d] } ∧ d.entry = n ∧ d.tick = tick ∧ d.late = true
              ∧ bits d.word 1 2 = bits w.toNat 1 2 ∧ bits d.word 8 16 = bits w.toNat 8 16 ∧ t.get (CAD_SCHED1.VALID n) = 0))
    ∧ (s.cad.due = [] → Answers .powerEntryFire s (fun t => t = s) ∧ Answers .checkpointEntryFire s fun t => t = s)
    ∧ (∀ d rest, s.cad.due = d :: rest →
      (d.waits s = true ↔ tickWaitDue s = true ∨ d.tick ≤ s.tick ∧ tickCome s d.tick = false)
      ∧ (bits d.word 1 2 ≠ 1 ∨ d.waits s = true → Answers .powerEntryFire s fun t => t = s)
      ∧ (bits d.word 1 2 ≠ 2 ∨ d.waits s = true → Answers .checkpointEntryFire s fun t => t = s))
    ∧ (∀ d rest, s.cad.due = d :: rest → bits d.word 1 2 = 1 → d.waits s = false → Answers .powerEntryFire s fun t =>
        t = { s with regs := t.regs, cad := { s.cad with due := rest } }
        ∧ t.get CAD_BUDGET.BUDGET_W = (if bits d.word 8 16 = 0 then s.get CAD_BUDGET.BUDGET_W else bits d.word 8 16)
        ∧ (bits d.word 24 2 = 1 → t.get CAD_STATUS.ACLK_CAP = 1) ∧ (bits d.word 24 2 = 2 → t.get CAD_STATUS.ACLK_CAP = 0)
        ∧ (bits d.word 24 2 ≠ 1 → bits d.word 24 2 ≠ 2 → t.get CAD_STATUS.ACLK_CAP = s.get CAD_STATUS.ACLK_CAP)
        ∧ Counted CAD_SCHED_FIRE_CNT 1 s t ∧ Counted CAD_SCHED_LATE_CNT (b2n d.late) s t
        ∧ RegsKept (CAD_BUDGET.BUDGET_W :: CAD_STATUS.ACLK_CAP :: counterFields CAD_SCHED_FIRE_CNT ++ counterFields CAD_SCHED_LATE_CNT) s t)
    ∧ (∀ d rest, s.cad.due = d :: rest → bits d.word 1 2 = 2 → d.waits s = false → Answers .checkpointEntryFire s fun t =>
        ∃ u, Counted CAD_SCHED_FIRE_CNT 1 s u ∧ Counted CAD_SCHED_LATE_CNT (b2n d.late) s u
          ∧ u = { s with regs := u.regs, cad := { s.cad with due := rest, ckpts := u.cad.ckpts } }
          ∧ (stepBelow s d.tick = none → u.cad.ckpts = s.cad.ckpts ∧ t = if bit d.word 26 then fwAsk u .snapshot else u)
          ∧ (∀ k, stepBelow s d.tick = some k →
            (stepDone s k = true → u.cad.ckpts = s.cad.ckpts ∧ u.get CAD_CKPT.STEP = k % 2 ^ 32
              ∧ u.get CAD_CKPT.VALID = 1 ∧ bit (u.get HST_ATTN.ATTN) 4 = true ∧ t = if bit d.word 26 then fwAsk u .snapshot else u)
            ∧ (stepDone s k = false →
              u.cad.ckpts = s.cad.ckpts ++ [(k, bit d.word 26)] ∧ t = u))))
  ∧ ((∀ (s : State) (l : HeldLaunch), choice s = some l → l ∈ s.cad.held
    ∧ (payable s l.energy = true ∨ headroom s ≤ Int.ofNat (s.get CAD_THERM_CFG.HR_LOW) ∧ governedRunning s = false)
    ∧ ((∀ x ∈ s.cad.held, x.cycles ≤ vetoMax s) → Int.ofNat (s.get CAD_THERM_CFG.HR_LOW) < headroom s →
        Int.ofNat (s.get CAD_THERM_CFG.HR_HIGH) ≤ headroom s → ∀ x ∈ s.cad.held, payable s x.energy = true → x.energy ≤ l.energy)
    ∧ ((∀ x ∈ s.cad.held, x.cycles ≤ vetoMax s) → headroom s ≤ Int.ofNat (s.get CAD_THERM_CFG.HR_LOW) →
        ∀ x ∈ s.cad.held, l.energy ≤ x.energy)
    ∧ ((∀ x ∈ s.cad.held, x.cycles ≤ vetoMax s) → Int.ofNat (s.get CAD_THERM_CFG.HR_LOW) < headroom s →
        headroom s < Int.ofNat (s.get CAD_THERM_CFG.HR_HIGH) → ∀ x ∈ s.cad.held, payable s x.energy = true → l.energy ≤ x.energy)
    ∧ (∀ x ∈ s.cad.held, vetoMax s < x.cycles → payable s x.energy = true → vetoMax s < l.cycles ∧ l.seqr ≤ x.seqr))
  ∧ (∀ (s : State), choice s = none → ∀ x ∈ s.cad.held, payable s x.energy = true →
    headroom s ≤ Int.ofNat (s.get CAD_THERM_CFG.HR_LOW) ∧ governedRunning s = true)
  ∧ (∀ (s : State) (l : HeldLaunch), letGo s l = { s with cad := { s.cad with
      held := s.cad.held.filter (fun x => x.seqr != l.seqr), admitted := s.cad.admitted ++ [l]
      bucket := s.cad.bucket - Int.ofNat l.energy } })
  ∧ (∀ (s : State) (cycles : BitVec 32) (q : Fin 4),
    (timingMode s ≠ 1 ∨ s.cad.held = [] → Answers (.governorAdmit cycles) s fun t => t = s)
    ∧ (timingMode s = 1 ∨ s.cad.held = [] → Answers (.vetoRelease cycles) s fun t => t = s)
    ∧ (timingMode s ≠ 2 ∨ s.cad.held = [] → Answers (.vetoExpire q cycles) s fun t => t = s)
    ∧ (supplyHolds s = true → s.cad.held ≠ [] →
      (timingMode s = 1 → Answers (.governorAdmit cycles) s fun t => t = (age s cycles.toNat).count CAD_GOV_WAIT_CNT cycles.toNat)
      ∧ (timingMode s = 0 → Answers (.vetoRelease cycles) s fun t => t = age s cycles.toNat)
      ∧ (timingMode s = 2 → Answers (.vetoRelease cycles) s (fun t => t = (age s cycles.toNat).count CAD_VETO_CYC_CNT cycles.toNat)
        ∧ Answers (.vetoExpire q cycles) s fun t => t = (age s cycles.toNat).count CAD_VETO_CYC_CNT cycles.toNat)))
  ∧ (∀ (s : State) (cycles : BitVec 32), supplyHolds s = false → s.cad.held ≠ [] →
    (timingMode s = 1 → Answers (.governorAdmit cycles) s fun t =>
      ∀ u, u = (age s cycles.toNat).count CAD_GOV_WAIT_CNT cycles.toNat → t = ((choice u).map (letGo u)).getD u)
    ∧ (timingMode s = 2 → Answers (.vetoRelease cycles) s fun t =>
      ∀ u, u = (age s cycles.toNat).count CAD_VETO_CYC_CNT cycles.toNat →
        t = u.cad.held.foldl (fun v l => if payable v l.energy = true ∧ headroomHolds v = false then letGo v l else v) u)
    ∧ (timingMode s = 0 → Answers (.vetoRelease cycles) s fun t =>
      ∀ aged, aged = (age s cycles.toNat).cad.held → t = { s with cad := { s.cad with
        held := [], admitted := s.cad.admitted ++ aged, bucket := s.cad.bucket - Int.ofNat (aged.map (·.energy)).sum } })
    ∧ (∀ (q : Fin 4) l, timingMode s = 2 → s.cad.held.find? (fun x => x.seqr == q.val) = some l →
      vetoMax s ≤ l.cycles + cycles.toNat → Answers (.vetoExpire q cycles) s fun t =>
        t = letGo (((age s cycles.toNat).count CAD_VETO_CYC_CNT cycles.toNat).count CAD_VETO_EXPIRE_CNT 1)
          { l with cycles := l.cycles + cycles.toNat })
    ∧ (∀ q : Fin 4, timingMode s = 2 → (∀ l ∈ s.cad.held, l.seqr = q.val → l.cycles + cycles.toNat < vetoMax s) →
      Answers (.vetoExpire q cycles) s fun t => t = (age s cycles.toNat).count CAD_VETO_CYC_CNT cycles.toNat))
  ∧ (∀ (s : State), s.cad.sinceSample < 1024 → Answers .predictorSample s fun t => t = s)
  ∧ (∀ (s : State), 1024 ≤ s.cad.sinceSample → Answers .predictorSample s fun t =>
    t.get CAD_PRED.E_SAMPLES = min 64 (s.cad.eSamples.length + 1) ∧ t.get CAD_PRED.T_SAMPLES = min 64 (s.cad.tSamples.length + 1)
    ∧ t.get CAD_PRED.T_DIE = s.get PWR_TEMP.DIE % 2 ^ 8 ∧ t.cad.sinceSample = 0 ∧ t.cad.done = 0
    ∧ t.cad.tSamples = (s.get PWR_TEMP.DIE :: s.cad.tSamples).take 64
    ∧ (63 ≤ s.cad.eSamples.length → 2048 ≤ t.get CAD_PRED.K ∧ t.get CAD_PRED.K ≤ 8192)
    ∧ (s.cad.eSamples.length < 63 → t.get CAD_PRED.K = s.get CAD_PRED.K)
    ∧ (s.cad.tSamples.length < 63 → t.get CAD_PRED.T_EST = s.get CAD_THERM_CFG.T_LIMIT % 2 ^ 8)
    ∧ t = { s with regs := t.regs, cad := t.cad }
    ∧ RegsKept [CAD_PRED.K, CAD_PRED.E_SAMPLES, CAD_PRED.T_SAMPLES, CAD_PRED.T_DIE, CAD_PRED.T_EST] s t)
  ∧ (∀ (s : State), Answers .predReset s fun t =>
    t = { s with regs := t.regs, cad := { s.cad with eSamples := [], tSamples := [] } }
    ∧ t.get CAD_PRED.E_SAMPLES = 0 ∧ t.get CAD_PRED.T_SAMPLES = 0 ∧ t.get CAD_PRED.K = 0x1000
    ∧ t.get CAD_PRED.T_EST = s.get CAD_THERM_CFG.T_LIMIT % 2 ^ 8
    ∧ RegsKept [CAD_PRED.E_SAMPLES, CAD_PRED.T_SAMPLES, CAD_PRED.K, CAD_PRED.T_EST] s t))

/-! Ingest (13) and the shuffle (05). -/

/-- The shuffle's permutation (R167): within a pass, every sample has one place below N, and that place's sample is it. -/
def Obligations.TheShuffleIsAPermutation : Prop :=
  ∀ (keys : List Nat) (n pass v : Nat), v < n →
    (shufPosition keys n pass v).1 < n ∧ (shufSample keys n pass (shufPosition keys n pass v).1).1 = v
    ∧ (shufPosition keys n pass (shufSample keys n pass v).1).1 = v

/-- ETH_PORT_TRAIN, ETH_FRAME_RECEIVE and PFC_FRAME (R374 to R377): a port is UP when all eight lanes have trained; it answers a request for its own address from its own MAC address, drops and counts what nobody
takes, and is paused and resumed at its priority alone; the resends that waited for it leave as it resumes. A port of an unlit fabric does not train, and another priority's
pause changes nothing.
SAMPLE_FETCH, READ_ISSUE, READ_RESPONSE, ACKNOWLEDGE, TRANSPORT_TIMEOUT, QP_RESET and QP_RESET_ALL (R378 to R384): the next sample is taken up with its manifest entry once an area is free, as failed where no queue pair serves it or it is too
long; a read takes the next PSNs; a response in order goes to the sample's fetch area and to the
demultiplexer, which counts the errors it finds, and answers its read; a marked one, expected or not, is notified of; an unanswered request is resent RETRY times, once its port is not paused, after which its queue pair is in error until it is reset. What
is for no queue pair of this module is dropped and counted. With nothing to
take up, ask for, acknowledge or repeat, nothing happens.
The model's own choices in it: log entries 88, 90, 91, 92, 166. -/
def Obligations.IngestPortsAndFetchesTakeEffect : Prop :=
  (∀ (s : State) (port : Fin 2),
    (∀ lanes : BitVec 8, s.pwr.fabric = false → Answers (.ethPortTrain port lanes) s fun t => t = s)
    ∧ (∀ lanes : BitVec 8, s.pwr.fabric = true → Answers (.ethPortTrain port lanes) s fun t =>
      t = { s with regs := t.regs } ∧ portUp t port = (lanes == 0xFF)
      ∧ t.get (if port = 0 then ING_E0_STATUS.LANES_OK else ING_E1_STATUS.LANES_OK) = lanes.toNat
      ∧ RegsKept (if port = 0 then [ING_E0_STATUS.LANES_OK, ING_E0_STATUS.UP, ING_E0_STATUS.AN_DONE, ING_E0_STATUS.FEC_LOCK]
          else [ING_E1_STATUS.LANES_OK, ING_E1_STATUS.UP, ING_E1_STATUS.AN_DONE, ING_E1_STATUS.FEC_LOCK]) s t)
    ∧ (∀ target mac ip len tags, len ≤ 9216 → tags ≤ 1 → ownIpv4 s port target.toNat = true →
      Answers (.ethFrameReceive port (.arp target mac ip) len tags) s fun t => t = { s with
        ing := { s.ing with tx := [(port.val, .arpReply (Config.portMac port.val).toNat target.toNat mac.toNat ip.toNat)] } })
    ∧ (∀ target mac ip len tags, len ≤ 9216 → tags ≤ 1 → ownIpv6 s port target.toNat = true →
      Answers (.ethFrameReceive port (.solicit target mac ip) len tags) s fun t => t = { s with
        ing := { s.ing with tx := [(port.val, .advertisement (Config.portMac port.val).toNat target.toNat mac.toNat ip.toNat)] } })
    ∧ (∀ frame len tags, 9216 < len ∨ 1 < tags ∨ frame = .damaged ∨ frame = .other
        ∨ (∃ a m i, frame = .arp a m i ∧ ownIpv4 s port a.toNat = false)
        ∨ (∃ a m i, frame = .solicit a m i ∧ ownIpv6 s port a.toNat = false) →
      Answers (.ethFrameReceive port frame len tags) s fun t =>
        t = { s with regs := t.regs } ∧ RegsKept (counterFields ING_RX_DROP_CNT) s t ∧ Counted ING_RX_DROP_CNT 1 s t)
    ∧ (∀ len tags, len ≤ 9216 → tags ≤ 1 → Answers (.ethFrameReceive port .requester len tags) s fun t => t = s)
    ∧ (∀ (prio : Fin 8) pause, (imgSection s 9).isEmpty = true → Answers (.pfcFrame port prio pause) s fun t => t = s)
    ∧ (∀ (prio : Fin 8) pause, (imgSection s 9).isEmpty = false →
      (ingField s 0x21 1 = prio.val → Answers (.pfcFrame port prio pause) s fun t =>
        t = { s with regs := t.regs, ing := t.ing } ∧ portPaused t port = pause
        ∧ (pause = true → t.ing = s.ing) ∧ (pause = false → t.ing = (resumePort s port.val).ing)
        ∧ (pause = false → ∀ due, due = s.ing.qps.filter (fun x => x.2.due && qpPort s x.1 == port.val) →
            t.ing.tx = if due = [] then s.ing.tx else due.flatMap (fun x => resendTx s x.1 x.2))
        ∧ RegsKept [if port = 0 then ING_E0_STATUS.PFC_PAUSED else ING_E1_STATUS.PFC_PAUSED] s t)
      ∧ (ingField s 0x21 1 ≠ prio.val → Answers (.pfcFrame port prio pause) s fun t => t = s)))
  ∧ (∀ (s : State) (qp : BitVec 12) (i ns : Nat) (q : QpState), i = qp.toNat → q = qpAt s i →
    (ingestOn s = false ∨ nextPlace s = none → Answers .sampleFetch s fun t => t = s)
    ∧ (∀ d p n extra per, ingestOn s = true → nextPlace s = some (d, p) → per = max 1 (shufN s / shufB s) →
      shufSample (shufKeys s) (shufN s) ((shufField s 0x14 4 + d / per) % 2 ^ 32) (d % per * shufB s + p) = (n, extra) →
      ∀ (r : List Byte × State) (w : Nat → Nat) (c : Option Nat) (bad : Bool) (u : State), u = s.newOp 5 →
        r = tagRead u (rawChan u (manifestTag s)) (Int.ofNat (32 * n)) 32 → (∀ k, w k = ofBytes ((r.1.drop (8 * k)).take 8)) →
        c = chooseQp s (bits (w 2) 0 12) (bits (w 2) 12 12) n → bad = (decide (areaSize s * 4096 < bits (w 1) 32 32) || c.isNone) →
        (bad = false → freeArea s = none → Answers .sampleFetch s fun t => t = s)
        ∧ (bad = true ∨ freeArea s ≠ none → Answers .sampleFetch s fun t =>
          t.ing = { s.ing with
            samples := s.ing.samples ++ [
              { id := s.ing.nextId, entry := n, pass := (shufField s 0x14 4 + d / per) % 2 ^ 32, istep := d % per, dstep := d, q := p
                qp := c.getD (bits (w 2) 0 12), area := if bad then none else freeArea s, addr := w 0, rkey := bits (w 1) 0 32
                length := bits (w 1) 32 32, container := bits (w 2) 24 2, select := bits (w 2) 32 32, recipe := bits (w 3) 32 4
                start := bits (w 3) 0 32, asked := 0, received := 0, stream := [], failed := bad, unsupported := false, pipe := none, info := none
                codec := none, stored := 0, half := none, bad := [], decided := [], dropped := [], tokens := [], pts := none, logged := false }]
            nextId := s.ing.nextId + 1, dstep := d, q := p + 1 }
          ∧ t.mem = r.2.mem ∧ Counted DRV_SHUF_WALK_CNT extra s t ∧ Counted ING_FETCH_FAIL_CNT (b2n bad) s t
          ∧ (bad = true → t.get ING_LAST_ERR.CODE = 3)))
    ∧ ((∀ x ∈ s.ing.samples, x.qp = i → x.failed = false → x.length ≤ x.asked) ∨ ingestOn s = false ∨ readsHeld s = true ∨ qpUsable s i = false
        ∨ q.resetDue = true ∨ max 1 (bits (qpWord s i 0) 3 4) ≤ q.reads.length ∨ 4096 ≤ readsOut s ∨ portUp s (qpPort s i) = false
        ∨ portPaused s (qpPort s i) = true → Answers (.readIssue qp) s fun t => t = s)
    ∧ (∀ x len, ingestOn s = true → readsHeld s = false → qpUsable s i = true → q.resetDue = false →
      q.reads.length < max 1 (bits (qpWord s i 0) 3 4) → readsOut s < 4096 → portUp s (qpPort s i) = true →
      portPaused s (qpPort s i) = false →
      s.ing.samples.find? (fun x => x.qp == i && !x.failed && decide (x.asked < x.length)) = some x →
      len = min (2 ^ (16 + min 4 (s.get ING_CFG.READ_SIZE))) (x.length - x.asked) → Answers (.readIssue qp) s fun t =>
        t = { s with ing := t.ing }
        ∧ qpAt t i = { q with
            psn := (q.psn + qpPackets s i len) % 2 ^ 24
            reads := q.reads ++ [{ sample := some x.id, addr := (x.addr + x.asked) % 2 ^ 64, rkey := x.rkey, off := x.asked, len := len
                                   mtu := qpMtu s i, psn := q.psn, got := 0, bytes := 0 }] }
        ∧ t.ing.samples = s.ing.samples.map (fun y => if y.id = x.id then { x with asked := x.asked + len } else y)
        ∧ t.ing.tx = [(qpPort s i, .read (roceHead s i q.psn) ((x.addr + x.asked) % 2 ^ 64) x.rkey len)])
    ∧ (∀ (qpn : BitVec 24) place ce since data kind c, localQp s qpn.toNat = none →
      c = .readResponse qpn place ce since data ∨ c = .acknowledge qpn kind → Answers c s fun t =>
        t = { s with regs := t.regs } ∧ RegsKept (counterFields ING_RX_DROP_CNT) s t ∧ Counted ING_RX_DROP_CNT 1 s t)
    ∧ (∀ (qpn : BitVec 24) (j : Nat) (p : QpState) place since data, localQp s qpn.toNat = some j → p = qpAt s j →
      (Answers (.readResponse qpn place false since data) s fun u => Answers (.readResponse qpn place true since data) s fun t =>
        (since = false → u.ing.notified.contains j = true → t = u)
        ∧ (since = true ∨ u.ing.notified.contains j = false → Counted ING_CNP_CNT 1 u t ∧ t = { u with
            regs := t.regs
            ing := { u.ing with notified := j :: u.ing.notified.filter (· != j), tx := [(qpPort u j, .notification (roceHead u j 0))] } }))
      ∧ ((∀ r rest, p.reads = r :: rest → place.psn.toNat ≠ (r.psn + r.got) % 2 ^ 24 ∨ place.part ≠ r.part ∨ data.length ≠ min r.mtu (r.len - r.bytes)) →
        Answers (.readResponse qpn place false since data) s fun t =>
          t = { s with regs := t.regs } ∧ RegsKept (counterFields ING_RX_DROP_CNT) s t ∧ Counted ING_RX_DROP_CNT 1 s t)
      ∧ (∀ r rest u, p.reads = r :: rest → place.psn.toNat = (r.psn + r.got) % 2 ^ 24 → place.part = r.part →
        data.length = min r.mtu (r.len - r.bytes) → u = (s.count ING_READ_BYTE_CNT data.length).newOp 5 →
        Answers (.readResponse qpn place false since data) s fun t =>
          ((∀ id x, r.sample = some id → sampleById s id = some x → x.area = none) → t.mem = s.mem ∧ t.ing.samples = s.ing.samples)
          ∧ (∀ id x a y, r.sample = some id → sampleById s id = some x → x.area = some a →
            y = { x with received := x.received + data.length, stream := x.stream ++ data } →
            t.mem = (tagWrite u (rawChan u (fetchTag s)) (Int.ofNat (a * areaSize s * 4096 + (r.off + r.bytes))) data).mem
            ∧ t.ing.samples = s.ing.samples.map (fun z => if z.id = x.id then y else z)
            ∧ Counted ING_PARSE_ERR_CNT (y.demux.errors - x.demux.errors) s t
            ∧ (x.demux.errors < y.demux.errors → t.get ING_LAST_ERR.CODE = 4 ∧ t.get ING_LAST_ERR.SAMPLE = x.entry % 2 ^ 32))
          ∧ t.ing.tx = s.ing.tx ∧ t.ing.notified = s.ing.notified ∧ Counted ING_READ_BYTE_CNT data.length s t
          ∧ Counted ING_READ_CNT (if r.got + 1 < ceilDiv r.len r.mtu then 0 else 1) s t
          ∧ (r.got + 1 < ceilDiv r.len r.mtu →
            qpAt t j = { p with reads := { r with got := r.got + 1, bytes := r.bytes + data.length } :: rest, tries := 0 })
          ∧ (ceilDiv r.len r.mtu ≤ r.got + 1 → rest ≠ [] ∨ p.resetDue = false → qpAt t j = { p with reads := rest, tries := 0 })
          ∧ (ceilDiv r.len r.mtu ≤ r.got + 1 → rest = [] → p.resetDue = true → qpErr t j = false ∧ FMap.find t.ing.qps j = none))
      ∧ (∀ kind, p.reads = [] → Answers (.acknowledge qpn kind) s fun t => t = s)
      ∧ (p.reads ≠ [] → Answers (.acknowledge qpn .ack) s fun t => qpAt t j = { p with tries := 0 } ∧ t = { s with ing := t.ing }))
    ∧ (ns < qpTimeout s i ∨ q.reads = [] → Answers (.transportTimeout ⟨qp, ns⟩) s fun t => t = s)
    ∧ (∀ (qpn : BitVec 24) (j : Nat) (p : QpState), p = qpAt s j → p.reads ≠ [] →
      (∀ c, c = .acknowledge qpn .sequenceNak ∧ localQp s qpn.toNat = some j ∨ c = .transportTimeout ⟨qp, ns⟩ ∧ j = i ∧ qpTimeout s i ≤ ns →
        p.tries < bits (qpWord s j 4) 21 3 → Answers c s fun t =>
          qpAt t j = { p with tries := p.tries + 1, due := portPaused s (qpPort s j) }
          ∧ t.ing.tx = (if portPaused s (qpPort s j) then s.ing.tx else resendTx s j p)
          ∧ Counted ING_RETRY_CNT 1 s t ∧ t = { s with regs := t.regs, ing := t.ing })
      ∧ (∀ c code, (c = .acknowledge qpn .sequenceNak ∧ localQp s qpn.toNat = some j ∨ c = .transportTimeout ⟨qp, ns⟩ ∧ j = i ∧ qpTimeout s i ≤ ns)
          ∧ bits (qpWord s j 4) 21 3 ≤ p.tries ∧ code = 1
          ∨ c = .acknowledge qpn .remoteNak ∧ localQp s qpn.toNat = some j ∧ code = 2 → Answers c s fun t =>
          (p.resetDue = false → qpErr t j = true ∧ qpAt t j = { p with reads := [], tries := 0, due := false })
          ∧ (p.resetDue = true → qpErr t j = false ∧ FMap.find t.ing.qps j = none)
          ∧ Counted ING_QP_ERR_CNT 1 s t ∧ t.get ING_LAST_ERR.CODE = code ∧ t.mem = s.mem))
    ∧ (q.reads ≠ [] → Answers (.qpReset qp) s fun t => qpAt t i = { q with resetDue := true } ∧ t = { s with ing := t.ing })
    ∧ (q.reads = [] → Answers (.qpReset qp) s fun t =>
        qpErr t i = false ∧ FMap.find t.ing.qps i = none ∧ t = { s with regs := t.regs, ing := t.ing })
    ∧ (Answers .qpResetAll s fun t => t = { s with regs := t.regs, ing := t.ing }
        ∧ ∀ j, j < 4096 → qpErr s j = true → (qpAt s j).reads = [] → qpErr t j = false))

/-- PIPE_ASSIGN, FRAME_DECODE, TOKENISE_FRAME, SAMPLE_DELIVER, SAMPLE_ABANDON and SHUFFLE_SEND (R30, R168, R169, R385 to R399): a sample gets the lowest free pipe once its video has been found; a good picture goes to the frame store and, if kept, waits
for the tokeniser, two fields being paired first, and one with an error, its own, of its coded units or inherited, is dropped; a sample of which nothing more comes is staged, and then sent once the running step does not read its place, its slot drained when every copy has been accepted, or abandoned once
its step has begun, when those not yet taken up are passed over. With nothing to do a command does
nothing.
The model's own choices in it: log entries 53, 89, 94, 96, 97, 102, 155, 164, 165, 167. -/
def Obligations.SamplesAreDecodedAndDelivered : Prop :=
  ∀ (s : State),
    (∀ (info : StreamInfo) (found : IngSample → Bool), (∀ x, found x = (x.pipe.isNone && !x.unsupported && !x.failed && decide (0 < x.received)
        && (x.demux.ready || decide (2 ≤ x.container) || x.received == x.length))) →
      (freePipe s = none ∨ (∀ x ∈ s.ing.samples, found x = false) → Answers (.pipeAssign info) s fun t => t = s)
      ∧ (∀ x p (put : IngSample → IngState), s.ing.samples.find? found = some x → freePipe s = some p →
        (∀ y, put y = { s.ing with samples := s.ing.samples.map (fun z => if z.id = x.id then y else z) }) → Answers (.pipeAssign info) s fun t =>
          (x.container < 2 → x.demux.ready = false → t = { s with ing := put { x with pipe := some p } })
          ∧ (2 ≤ x.container ∨ x.demux.ready = true → streamOk s x x.demux info = true →
              t = { s with ing := put { x with info := some info, codec := x.demux.codec, pipe := some p } })
          ∧ (2 ≤ x.container ∨ x.demux.ready = true → streamOk s x x.demux info = false →
              Counted ING_UNSUPPORTED_CNT 1 s t ∧ t.get ING_LAST_ERR.CODE = 5
              ∧ t = { s with regs := t.regs, logIn := t.logIn, free := t.free, ing := put { x with info := some info, unsupported := true } })))
    ∧ (∀ (pipe : Fin 48) (f : FrameResult) (pic : Picture),
      (∀ x ∈ s.ing.samples, x.pipe ≠ some pipe.val) → Answers (.frameDecode pipe f pic) s fun t => t = s)
    ∧ (∀ (pipe : Fin 48) (f : FrameResult) (pic : Picture) x (field : Bool), s.ing.samples.find? (fun x => x.pipe == some pipe.val) = some x →
      (field = true ↔ x.codec = some 2 ∧ ∃ i, x.info = some i ∧ i.fieldSeq = true) → Answers (.frameDecode pipe f pic) s fun t =>
        (x.info = none ∨ x.received < x.length ∧ (∃ k ∈ f.units, x.demux.units.length ≤ k) → t = s)
        ∧ (x.info ≠ none → x.length ≤ x.received ∨ (∀ k ∈ f.units, k < x.demux.units.length) →
          (field = false → t = finishFrame s x pipe.val f pic)
          ∧ (field = true → x.half = none → t = { s with
              ing := { s.ing with samples := s.ing.samples.map (fun y => if y.id = x.id then { x with half := some (f, pic) } else y) } })
          ∧ (∀ g p, field = true → x.half = some (g, p) →
            (g.number ≠ f.number ∨ g.second = f.second → t = finishFrame s { x with half := some (f, pic) } pipe.val { g with error := true } p)
            ∧ (g.number = f.number → g.second = false → f.second = true →
                t = finishFrame s { x with half := none } pipe.val (pairResults g f) (pairFields p pic))
            ∧ (g.number = f.number → g.second = true → f.second = false →
                t = finishFrame s { x with half := none } pipe.val (pairResults f g) (pairFields pic p)))))
    ∧ (∀ (pipe : Nat) (f : FrameResult) (pic : Picture) x r before place u t, r = recipeAt s x.recipe → before = (if f.random then [] else x.bad) →
      place = framePlace s pipe x (pictureSize pic) → u = (s.count ING_FRAME_CNT 1).newOp 5 → t = finishFrame s x pipe f pic →
      (skipsPicture r x f = true →
        t = { s with ing := { s.ing with samples := s.ing.samples.map (fun y => if y.id = x.id then x else y) } })
      ∧ (skipsPicture r x f = false → f.error = false → (∀ k ∈ f.units, ∃ c, x.demux.units[k]? = some c ∧ c.errored = false) →
          (∀ n ∈ f.predicted, n ∉ before) →
        ((∃ k ∈ s.ing.frames, k.place = place) → t = s)
        ∧ ((∀ k ∈ s.ing.frames, k.place ≠ place) →
          Counted ING_FRAME_CNT 1 s t ∧ t.mem = (tagWrite u (rawChan u (frameTag s)) (Int.ofNat place) (storePicture pic)).mem
          ∧ (∀ k, keptIndex r x.start f.number = some k → k ∉ x.decided →
            t.ing.frames = s.ing.frames ++ [{ sample := x.id, index := k, place := place, head := { pic with luma := [], cb := [], cr := [] } }]
            ∧ t.ing.samples = s.ing.samples.map (fun y => if y.id = x.id then { x with
                bad := before, decided := k :: x.decided, pts := if k = 0 then some (frameTime x.demux f) else x.pts
                stored := x.stored + 1 } else y))
          ∧ ((∀ k, keptIndex r x.start f.number = some k → k ∈ x.decided) →
            t.ing.frames = s.ing.frames
            ∧ t.ing.samples = s.ing.samples.map (fun y => if y.id = x.id then { x with bad := before, stored := x.stored + 1 } else y))))
      ∧ (skipsPicture r x f = false → f.error = true ∨ (∃ k ∈ f.units, ∀ c, x.demux.units[k]? = some c → c.errored = true)
          ∨ (∃ n ∈ f.predicted, n ∈ before) →
          t.ing.frames = s.ing.frames ∧ Counted ING_FRAME_CNT 1 s t ∧ Counted ING_FRAME_DROP_CNT 1 s t ∧ t.get ING_LAST_ERR.CODE = 6
          ∧ t.mem = s.mem
          ∧ ∀ y ∈ t.ing.samples, y.id = x.id → y.bad = f.number :: before
            ∧ ∀ k, keptIndex r x.start f.number = some k → k ∉ x.decided → k ∈ y.decided ∧ k ∈ y.dropped))
    ∧ (s.ing.frames = [] → Answers .tokeniseFrame s fun t => t = s)
    ∧ (∀ f rest, s.ing.frames = f :: rest → Answers .tokeniseFrame s fun t =>
        (sampleById s f.sample = none → t = { s with ing := { s.ing with frames := rest } })
        ∧ ∀ x (u : State) (m : List Byte × State) (r : List TokenElem × State), sampleById s f.sample = some x →
          u = { s with ing := { s.ing with frames := rest } }.newOp 5 →
          m = tagRead u (rawChan u (frameTag s)) (Int.ofNat f.place) (pictureSize f.head) →
          r = tokenise m.2 (recipeAt s x.recipe) (loadPicture f.head m.1) →
          t = { r.2 with
            ing := { r.2.ing with
              samples := r.2.ing.samples.map
                (fun y => if y.id = x.id then { x with tokens := FMap.put x.tokens f.index r.1 } else y) } })
    ∧ (∀ (which : Nat) ended (slot : Nat), ingestOn s = false ∨ (tagEntry s (stagingTag s)).slots ≤ slot ∨ (slotAt s (stagingTag s) slot).st ≠ .empty
        ∨ (∀ x, s.ing.samples[which]? = some x → sampleDone s x ended = false ∨ startPassed s x.dstep = true) →
      Answers (.sampleDeliver which ended slot) s fun t => t = s)
    ∧ (∀ (which : Nat) ended (slot : Nat) x r (audio : List Byte) (trunc : Bool) (u : State), s.ing.samples[which]? = some x →
      slot < (tagEntry s (stagingTag s)).slots → (slotAt s (stagingTag s) slot).st = .empty → ingestOn s = true → sampleDone s x ended = true →
      startPassed s x.dstep = false → r = recipeAt s x.recipe → audio = x.demux.audio → trunc = decide (1024 * r.audioMax < audio.length) →
      u = (if trunc then setIngErr (s.count ING_AUDIO_TRUNC_CNT 1) 8 0 x.entry else s) → Answers (.sampleDeliver which ended slot) s fun t =>
        t.mem = (stageSample u r x slot trunc (audio.take (1024 * r.audioMax))).mem
        ∧ t.slots = (stageSample u r x slot trunc (audio.take (1024 * r.audioMax))).slots
        ∧ Counted ING_SAMPLE_CNT 1 s t ∧ Counted ING_SAMPLE_MARK_CNT (b2n (sampleMarked r x)) s t ∧ Counted ING_AUDIO_TRUNC_CNT (b2n trunc) s t
        ∧ t.ing.samples = s.ing.samples.filter (fun y => y.id != x.id)
        ∧ t.ing.ready = s.ing.ready ++ [{ slot := slot, dstep := x.dstep, pass := x.pass, istep := x.istep, q := x.q
                                          recipe := x.recipe, audio := min (1024 * r.audioMax) audio.length }])
    ∧ ((∀ x ∈ s.ing.samples, startPassed s x.dstep = false) → Answers .sampleAbandon s fun t => t = s)
    ∧ (∀ x, s.ing.samples.find? (fun x => startPassed s x.dstep) = some x → Answers .sampleAbandon s fun t =>
        t.ing.samples = s.ing.samples.filter (fun y => y.id != x.id) ∧ Counted ING_ABANDON_CNT 1 s t
        ∧ Counted DRV_SHUF_LATE_CNT 1 s t ∧ t.get ING_LAST_ERR.CODE = 7 ∧ t = { s with regs := t.regs, ing := t.ing })
    ∧ (s.ing.ready = [] ∨ s.held DRV_SHUF_CFG.ENABLE = 0 ∨ s.get DRV_ROUTE_CFG.SHUF_SHARE = 0 ∧ routeSending s = true →
      Answers .shuffleSend s fun t => t = s)
    ∧ (∀ x rest u, s.ing.ready = x :: rest → s.held DRV_SHUF_CFG.ENABLE ≠ 0 → (s.get DRV_ROUTE_CFG.SHUF_SHARE ≠ 0 ∨ routeSending s = false) →
      u = { s with ing := { s.ing with ready := rest } } → Answers .shuffleSend s fun t =>
        (x.dstep < s.step.count → t = drainSlot (u.count DRV_SHUF_LATE_CNT 1) 0x0A (stagingTag s) x.slot)
        ∧ (s.step.count ≤ x.dstep → sampleHeld s x = true → t = s)
        ∧ (s.step.count ≤ x.dstep → sampleHeld s x = false →
            ∃ v, v = sendSample ((u.set DRV_SHUF_STATUS.PASS x.pass).set DRV_SHUF_STATUS.STEP x.istep) x
              ∧ t = afterSent (v.count DRV_SHUF_SENT_CNT 1) (.sample x.slot) (.drain 0x0A (stagingTag s) x.slot)))
    ∧ (ingestOn s = false ∨ shufN s < shufB s ∨ s.step.count < s.ing.dstep → passSamples s = s)
    ∧ (∀ rank r, ingestOn s = true → shufB s ≤ shufN s → s.ing.dstep ≤ s.step.count → r = max 1 (shufField s 0x10 2) → rank = shufField s 0x12 2 →
      passSamples s = { s with regs := (passSamples s).regs, ing := { s.ing with dstep := s.step.count + 1, q := 0 } }
      ∧ (∀ late, late = ((List.range (shufB s)).filter (fun p =>
          decide ((if s.ing.dstep = s.step.count then s.ing.q else 0) ≤ p) && p % r == rank)).length →
        Counted DRV_SHUF_LATE_CNT late s (passSamples s) ∧ Counted ING_ABANDON_CNT late s (passSamples s)
        ∧ (0 < late → (passSamples s).get ING_LAST_ERR.CODE = 7)))

/-! Faults, firmware and the event log (15); the control space (00). -/

/-- LOCKSTEP_MISMATCH, LOCKSTEP_INJ, WATCHDOG_RESET, FIRMWARE_RESUME, WDOG_KICK, SNAPSHOT, YIELD, KILL and LOG_ENTRY_WRITE (R437 to R440, R452 to R458, R528): a lock-up restarts the control domain alone, the second
within a second and the watchdog stop the step and clear the sequencers too, and where a reset of the chip is in progress they join it; firmware that resumes, from its copy or from flash, takes up its queue in order, and recovery boot begins where neither is to be had; a yield and a kill withdraw the module; and an entry goes to
the ring's next place. Cores that do not run, firmware that runs already, another key and an empty queue make a command do nothing.
The model's own choices in it: log entries 104, 105, 106, 107. -/
def Obligations.FaultsAreContained : Prop :=
  ∀ (s : State),
    (∀ within c, coresRun s = false → c = .lockstepMismatch within ∨ c = .lockstepInj within → Answers c s fun t => t = s)
    ∧ (fwRuns s = false → Answers .watchdogReset s fun t => t = s)
    ∧ (∀ copyOk fails, s.get FLT_STATUS.RESTARTING = 0 ∨ s.get CTL_STATUS.BOOT = 2 ∨ s.ctl.firmware = none →
      Answers (.firmwareResume copyOk fails) s fun t => t = s)
    ∧ (s.logIn.queue = [] → Answers .logEntryWrite s fun t => t = s)
    ∧ (∀ within c codes, coresRun s = true → c = .lockstepMismatch within ∨ c = .lockstepInj within → codes = sourcesLeft s ++ [9] →
      (within && s.flt.lockedUp) = false → Answers c s fun t => ∃ v, t = settle v
        ∧ (codes.any chipSource = false → v.get FLT_STATUS.RESTARTING = 1 ∧ v.flag FLT_FLAGS.LOCKUP = true ∧ v.flt.lockedUp = true
          ∧ Counted FLT_LOCKUP_CNT 1 s v)
        ∧ ((∀ d ∈ codes, d = 9) → v.mem = s.mem ∧ v.seqs = s.seqs ∧ v.step = s.step ∧ v.xfers = s.xfers))
    ∧ (∀ within c codes, coresRun s = true ∧ (within && s.flt.lockedUp) = true ∧ (c = .lockstepMismatch within ∨ c = .lockstepInj within)
        ∨ fwRuns s = true ∧ c = .watchdogReset → codes = sourcesLeft s ++ [4] → Answers c s fun t => ∃ v, t = settle v
        ∧ v.step.running = false ∧ v.seqs = Vector.replicate 4 .reset ∧ v.xfers = []
        ∧ (codes.any chipSource = true → v.image = none ∧ v.get FLT_STATUS.RESTARTING = 0
          ∧ v.get PWR_STATUS.RELEASE = (codes.map resumeStep).foldl min 7)
        ∧ (codes.any chipSource = false → v.get FLT_STATUS.RESTARTING = 1 ∧ Counted FLT_WDOG_CNT 1 s v ∧ v.get FLT_STATUS.WITHDRAWN = 1)
        ∧ ((∀ d ∈ codes, d = 4 ∨ d = 9) → v.mem = s.mem))
    ∧ (∀ f fails, s.get FLT_STATUS.RESTARTING ≠ 0 → s.get CTL_STATUS.BOOT ≠ 2 → s.ctl.firmware = some f →
      Answers (.firmwareResume true fails) s fun t =>
        ∃ v, t = settle v ∧ v.get FLT_STATUS.RESTARTING = 0 ∧ v.ctl.firmware = some f
          ∧ (s.get CTL_STATUS.BOOT = 1 ∨ s.get CTL_STATUS.BOOT = 3 → s.ctl.switching = false →
              ∀ pre e post, v.flt.fwq = pre ++ e :: post → e.own = true → ∃ d ∈ pre, d.stops = true)
          ∧ v.flt.wdog = max 1 (s.get FLT_WDOG.PERIOD) ∧ v.mem = s.mem)
    ∧ (∀ (f : Firmware) (fails : Fin 4), s.get FLT_STATUS.RESTARTING ≠ 0 → s.get CTL_STATUS.BOOT ≠ 2 → s.ctl.firmware = some f →
      Answers (.firmwareResume false fails) s fun t =>
        (∀ g, flashFirmware s = some g → fails.val < 3 → s.flag PWR_OPT.FLASH_BOOT = true →
          ∃ v, t = settle v ∧ v.get FLT_STATUS.RESTARTING = 0 ∧ v.get CTL_STATUS.BOOT = 1 ∧ v.ctl.firmware = some g
            ∧ (s.ctl.switching = false →
                ∀ pre e post, v.flt.fwq = pre ++ e :: post → e.own = true → ∃ d ∈ pre, d.stops = true) ∧ v.flt.wdog = max 1 (s.get FLT_WDOG.PERIOD) ∧ v.mem = s.mem)
        ∧ (flashFirmware s = none ∨ 3 ≤ fails.val ∨ s.flag PWR_OPT.FLASH_BOOT = false →
          t.get CTL_STATUS.BOOT = 2 ∧ t.ctl.firmware = none ∧ Counted FLT_ESC_CNT 1 s t ∧ t.mem = s.mem))
    ∧ (Answers .wdogKick s fun t => t = { s with flt := { s.flt with wdog := max 1 (s.get FLT_WDOG.PERIOD) } })
    ∧ ((fwRuns s = true → (∀ e ∈ s.flt.fwq, e.stops = false) → Answers .snapshot s fun t => t = snapshotLog s)
      ∧ (fwRuns s = true ∧ (∃ e ∈ s.flt.fwq, e.stops = true) ∨ fwRuns s = false ∧ s.flt.fwq.length < 256 → Answers .snapshot s fun t =>
          t = { s with flt := { s.flt with fwq := s.flt.fwq ++ [.snapshot] } })
      ∧ (fwRuns s = false → 256 ≤ s.flt.fwq.length → Answers .snapshot s fun t =>
          t = { s with regs := t.regs, logIn := t.logIn, free := t.free } ∧ Counted FLT_QUEUE_DROP_CNT 1 s t))
    ∧ ((s.step.running = true → Answers .yield s fun t => t = s.set FLT_STATUS.YIELD_PENDING 1)
      ∧ (s.step.running = false → Answers .yield s fun t =>
          ∃ v, t = settle v ∧ v.get FLT_STATUS.YIELD_PENDING = 0 ∧ v.get FLT_STATUS.WITHDRAWN = 1 ∧ v.mem = s.mem))
    ∧ ((Answers (.kill 0x5A) s fun t =>
          ∃ v, t = settle v ∧ Counted HST_KILL_CNT 1 s v ∧ v.step.running = false ∧ (∀ q : Fin 4, (v.seqr q).running = false)
            ∧ v.xfers = [] ∧ v.reduces = [] ∧ v.dense.op = none ∧ v.drv.run = none ∧ v.ing.samples = [] ∧ v.ing.stopped = true
            ∧ v.get FLT_STATUS.WITHDRAWN = 1 ∧ v.mem = s.mem
            ∧ (s.step.running = true → v.get FLT_LAST_STOP.CAUSE = 5 ∧ Counted FLT_STOP_CNT 1 s v))
      ∧ (∀ key : BitVec 8, key ≠ 0x5A → Answers (.kill key) s fun t => t = s))
    ∧ (∀ e rest n, s.logIn.queue = e :: rest → n = s.get FLT_LOG_HEAD.NEXT → n < 16384 → Answers .logEntryWrite s fun t =>
        t = { s with regs := t.regs, logIn := { s.logIn with queue := rest } }
        ∧ t.get (FLT_LOG.WORD (4 * n)) = e.tick % 2 ^ 64 ∧ t.get (FLT_LOG.WORD (4 * n + 1)) = e.word1
        ∧ t.get (FLT_LOG.WORD (4 * n + 2)) = e.word2 ∧ t.get (FLT_LOG.WORD (4 * n + 3)) = e.detail % 2 ^ 64
        ∧ bits e.word1 16 2 = e.level % 4 ∧ bits e.word1 18 4 = e.region % 16 ∧ bits e.word1 24 8 = e.event % 256
        ∧ bits e.word1 32 16 = e.block % 2 ^ 16 ∧ bits e.word2 16 16 = e.seq % 2 ^ 16 ∧ bits e.word2 32 3 = e.action % 8
        ∧ t.get FLT_LOG_HEAD.NEXT = (n + 1) % 16384
        ∧ RegsKept [FLT_LOG.WORD (4 * n), FLT_LOG.WORD (4 * n + 1), FLT_LOG.WORD (4 * n + 2), FLT_LOG.WORD (4 * n + 3),
            FLT_LOG_HEAD.NEXT, FLT_LOG_HEAD.TOTAL, FLT_LOG_HEAD.WRAPPED, FLT_FLAGS.LOG_WRAPPED, OBS_AON.COUNT 46] s t)

/-- REGISTER_WRITE, RC_READ, W1C_CLEAR and ADDRESS_ERROR (R8, R11 to R16, R195, Table 0.7): what a write of all or of half a register leaves in a field by its access code, what its write-only fields do, that descriptor words are ignored while one is committed,
that a read of all eight bytes returns the register, over a link that is up, and clears its counters and one of four clears nothing, and that an access outside the map is dropped, counted and read as zero. -/
def Obligations.RegisterAccessesTakeEffect : Prop :=
  ∀ (s : State) (reg : BitVec 21) (off : Nat), off = reg.toNat * 8 →
    (∀ (v : BitVec 64) (p : Span) (m : Nat), m = spanMask p → schedAt off = none → winAt off = none → off < 0xD0F000 ∨ 0xD0F010 ≤ off →
      off < 0x80 ∨ 0xA0 ≤ off ∨ s.flag CTL_ATT_STATUS.BUSY = false → off < 0x908000 ∨ 0x908040 ≤ off ∨ s.commitNow = none → off ≠ 0xB00008 →
      Answers (.registerWrite reg p v) s fun t =>
        ∃ u, u = { s with regs := u.regs } ∧ RegsKept (regFields groups off) s u ∧ t = noteFall (writeActs u off (v.toNat &&& m) p)
          ∧ (∀ f ∈ regFields groups off,
            (f.acc = .rw → u.get f = (s.get f &&& ((2 ^ f.width - 1) ^^^ bits m f.lsb f.width)) ||| (bits v.toNat f.lsb f.width &&& bits m f.lsb f.width))
            ∧ (f.acc = .w1c → u.get f = s.get f &&& ((2 ^ f.width - 1) ^^^ (bits v.toNat f.lsb f.width &&& bits m f.lsb f.width)))
            ∧ (f.acc = .ro ∨ f.acc = .wo ∨ f.acc = .rc → u.get f = s.get f))
          ∧ ((∀ w x q, writeActs w off x q = w) → t = { u with host := t.host }))
    ∧ (∀ (v : BitVec 64) (p : Span), 0x80 ≤ off ∧ off < 0xA0 ∧ s.flag CTL_ATT_STATUS.BUSY = true ∨ 0x908000 ≤ off ∧ off < 0x908040 ∧ s.commitNow.isSome = true
        ∨ p = .high ∧ (off = 0xB00008 ∨ (schedAt off).isSome = true) → Answers (.registerWrite reg p v) s fun t => t = s)
    ∧ (∀ (v : BitVec 64) n, schedAt off = some n → Answers (.registerWrite reg .whole v) s fun t => t = writeSched s n v.toNat)
    ∧ (∀ (v : BitVec 64) n, schedAt off = none → winAt off = some n → Answers (.registerWrite reg .whole v) s fun t => t = configWindow n v.toNat s)
    ∧ (∀ v : BitVec 64, off = 0xD0F000 → Answers (.registerWrite reg .whole v) s fun t => t.host.msgAddr = v.toNat ∧ t.mem = s.mem)
    ∧ (∀ v : BitVec 64, off = 0xD0F008 → Answers (.registerWrite reg .whole v) s fun t =>
      t.host.msgData = bits v.toNat 0 32 ∧ t.host.masked = bit v.toNat 32 ∧ t.mem = s.mem)
    ∧ (∀ p, Answers (.rcRead reg p) s fun t => t.mem = s.mem ∧ (s.get HST_LINK.RATE = 0 → t.host = s.host)
        ∧ (s.get HST_LINK.RATE ≠ 0 → t.host = { s.host with
            aborted := false
            reply := match p with
              | .whole => toBytes 8 (shown s off)
              | .low => toBytes 4 (shown s off)
              | .high => toBytes 4 (shown s off / 2 ^ 32) })
        ∧ (p ≠ .whole → t.regs = s.regs))
    ∧ (Answers (.rcRead reg .whole) s fun t => RegsKept ((regFields groups off).filter (fun f => f.acc = .rc)) s t
        ∧ ∀ f ∈ regFields groups off, f.acc = .rc → t.get f = 0)
    ∧ (∀ (ones : BitVec 64), (hasFlags off = false → Answers (.w1cClear reg ones) s fun t => t = s)
      ∧ (hasFlags off = true → Answers (.w1cClear reg ones) s fun t =>
        t = { s with regs := t.regs, host := t.host } ∧ RegsKept (regFields groups off) s t
        ∧ ∀ f ∈ regFields groups off, f.acc = .w1c → t.get f = s.get f &&& ((2 ^ f.width - 1) ^^^ bits ones.toNat f.lsb f.width)))
    ∧ (∀ (addr : BitVec 44) write, (inMap addr.toNat = true → Answers (.addressError addr write) s fun t => t = s)
      ∧ (inMap addr.toNat = false → Answers (.addressError addr write) s fun t =>
        Counted CTL_ADDR_ERR_CNT 1 s t ∧ t.mem = s.mem ∧ t.memory = s.memory ∧ t.step = s.step ∧ t.seqs = s.seqs
        ∧ (write = false → s.get HST_LINK.RATE ≠ 0 → t.host.reply = List.replicate 8 0)
        ∧ (s.logIn.queue.length < 64 → t.logIn.queue.length = s.logIn.queue.length + 1 ∧ RegsKept (counterFields CTL_ADDR_ERR_CNT) s t)))

/-! Images, firmware, the journal and attestation (16). -/

/-- OPEN, STORE, LOAD, STORE_LOAD, DELETE, DEFAULT, SWITCH, OWNER, NODEFAULT, IMG_OP_COMPLETE, IMAGE_INSTALL and IMAGE_WINDOW_WRITE (R470 to R475, R479, R517): an operation asked for begins and closes the
staging region; when it ends it has the effect and the code that Table 16.9 and Table 16.10 give it. A load that waits begins to be installed at a boundary, unless it is too new for the firmware: with the scrub where one is due, then with its tables, its
fills and what puts it in force. The window takes bytes in rising order, or, in recovery boot, firmware. With nothing to end or to install nothing happens.
The model's own choices in it: log entries 115, 116, 118, 119, 120, 122, 126. -/
def Obligations.ImageOperationsTakeEffect : Prop :=
  ∀ (s : State),
    (∀ (slot : Fin 64) (op : Nat) (c : Instr),
      (op, c) ∈ [(1, Instr.imgOpen slot), (2, .store slot), (3, .load slot), (4, .storeLoad slot), (5, .delete slot),
        (6, .default slot), (7, .switch slot), (8, .owner slot), (9, .nodefault slot)] →
      (s.flag CTL_IMG_STATUS.BUSY = false → Answers c s fun t =>
        t = { s with
          regs := t.regs
          ctl := { s.ctl with
            winLogged := false, op := some { op := op, slot := slot, opened := s.ctl.stageNext.isSome }, stageNext := none } }
        ∧ t.get CTL_IMG_STATUS.BUSY = 1 ∧ t.get CTL_FLASH_STATUS.STAGING_OPEN = 0
        ∧ RegsKept [CTL_IMG_STATUS.BUSY, CTL_FLASH_STATUS.STAGING_OPEN] s t)
      ∧ (s.flag CTL_IMG_STATUS.BUSY = true → Answers c s fun t =>
        t.get CTL_IMG_STATUS.CODE = 17 ∧ Counted CTL_IMG_REJECT_CNT 1 s t ∧ t.ctl = { s.ctl with winLogged := false } ∧ t.mem = s.mem))
    ∧ (∀ (readFails : Fin 4) (progFails : Nat), s.ctl.op = none ∨ fwRuns s = false → Answers (.imgOpComplete readFails progFails) s fun t => t = s)
    ∧ (∀ (readFails : Fin 4) (progFails : Nat) (o : ImgOp), s.ctl.op = some o → fwRuns s = true →
      Answers (.imgOpComplete readFails progFails) s fun t =>
        ∃ v, t = settle v ∧ v.ctl.op = none ∧ v.get CTL_IMG_STATUS.BUSY = 0 ∧ v.get CTL_IMG_STATUS.VALID = 1 ∧ v.mem = s.mem
          ∧ (v.get CTL_IMG_STATUS.CODE ≠ 0 → Counted CTL_IMG_REJECT_CNT 1 s v ∧ bit (v.get HST_ATTN.ATTN) 7 = true)
          ∧ (o.op = 1 → v.get CTL_IMG_STATUS.CODE = 0 ∧ v.ctl.staging = [] ∧ v.ctl.stageNext = some 0
              ∧ v.get CTL_FLASH_STATUS.STAGING_OPEN = 1 ∧ v.ctl.journal = s.ctl.journal)
          ∧ (o.op = 2 ∨ o.op = 4 ∨ o.op = 8 → o.opened = false → v.get CTL_IMG_STATUS.CODE = 19 ∧ v.ctl.journal = s.ctl.journal)
          ∧ (∀ b j, o.op = 2 ∨ o.op = 4 → o.opened = true → b = filledBytes s.ctl.staging → j = judgeImage s b → j.code ≠ 0 →
              v.get CTL_IMG_STATUS.CODE = j.code % 32 ∧ v.ctl.journal = s.ctl.journal)
          ∧ (∀ b, o.op = 2 → o.opened = true → b = (filledBytes s.ctl.staging).take (ImageFile.signedSize (filledBytes s.ctl.staging) + 64) →
              (judgeImage s (filledBytes s.ctl.staging)).code = 0 →
              journalFits (noteProgFails s progFails).ctl { typ := recIMAGE, key := o.slot, data := b } = true →
              v.get CTL_IMG_STATUS.CODE = 0 ∧ slotImage v o.slot = some b)
          ∧ (∀ b, o.op = 4 → o.opened = true → b = (filledBytes s.ctl.staging).take (ImageFile.signedSize (filledBytes s.ctl.staging) + 64) →
              (judgeImage s (filledBytes s.ctl.staging)).code = 0 →
              journalFits (noteProgFails s progFails).ctl { typ := recIMAGE, key := o.slot, data := b } = true → slotImage v o.slot = some b
              ∧ (readFails = 3 → v.get CTL_IMG_STATUS.CODE = 15))
          ∧ (∀ b, o.op = 2 ∨ o.op = 4 → o.opened = true → b = (filledBytes s.ctl.staging).take (ImageFile.signedSize (filledBytes s.ctl.staging) + 64) →
              (judgeImage s (filledBytes s.ctl.staging)).code = 0 →
              journalFits (noteProgFails s progFails).ctl { typ := recIMAGE, key := o.slot, data := b } = false →
              v.get CTL_IMG_STATUS.CODE = 16 ∧ v.ctl.journal = s.ctl.journal)
          ∧ (∀ b j, o.op = 3 → slotImage s o.slot = some b → readFails < 3 → j = judgeImage s b → j.code ≠ 0 →
              v.get CTL_IMG_STATUS.CODE = j.code % 32 ∧ v.ctl.load = s.ctl.load)
          ∧ (∀ b l, o.op = 3 → slotImage s o.slot = some b → readFails < 3 → (judgeImage s b).code = 0 → s.ctl.load = some l →
              (l.change = none → v.get CTL_IMG_STATUS.CODE = 0 ∧ v.ctl.load = some { op := 3, slot := o.slot, bytes := b, change := none })
              ∧ (l.change ≠ none → v.get CTL_IMG_STATUS.CODE = 17 ∧ v.ctl.load = some l))
          ∧ (o.op = 3 ∨ o.op = 6 ∨ o.op = 7 → readFails = 3 → v.get CTL_IMG_STATUS.CODE = 15 ∧ v.ctl.journal = s.ctl.journal)
          ∧ (∀ b, o.op = 7 → slotImage s o.slot = some b → readFails < 3 →
              (isSysRm s = false → v.get CTL_IMG_STATUS.CODE = 19)
              ∧ (isSysRm s = true → v.get CTL_IMG_STATUS.CODE = 0
                ∧ v.lnk = (sendChange s { epoch := nextEpoch s, base := secondStep s, digest := ImageFile.short b, amend := [] }).lnk))
          ∧ (∀ b, o.op = 3 → slotImage s o.slot = some b → readFails < 3 → (judgeImage s b).code = 0 → s.ctl.load = none →
              v.get CTL_IMG_STATUS.CODE = 0 ∧ v.get CTL_IMG_STATUS.PENDING = 1
              ∧ v.ctl.load = some { op := 3, slot := o.slot, bytes := b, change := none })
          ∧ (o.op = 3 ∨ o.op = 5 ∨ o.op = 6 ∨ o.op = 7 → slotImage s o.slot = none →
              v.get CTL_IMG_STATUS.CODE = 15 ∧ v.ctl.journal = s.ctl.journal)
          ∧ (o.op = 5 → slotImage s o.slot ≠ none → deleteFits s = true →
              v.get CTL_IMG_STATUS.CODE = 0 ∧ slotImage v o.slot = none)
          ∧ (∀ b, o.op = 6 → slotImage s o.slot = some b → readFails < 3 →
              journalFits s.ctl { typ := recDEFAULT, key := 0, data := toBytes 1 o.slot } = true →
              v.get CTL_IMG_STATUS.CODE = 0 ∧ journalGet v.ctl.journal recDEFAULT 0 = some (toBytes 1 o.slot))
          ∧ (∀ b, o.op = 8 → o.opened = true → b = (List.range 256).map (fun i => (FMap.find s.ctl.staging i).getD 0xFF) →
              (ownerRefused s b = true → v.get CTL_IMG_STATUS.CODE = 18 ∧ v.ctl.owners = s.ctl.owners)
              ∧ (ownerRefused s b = false → v.get CTL_IMG_STATUS.CODE = 0 ∧ v.ctl.owners = (applyOwner s b).ctl.owners
                ∧ v.ctl.debugLock = (applyOwner s b).ctl.debugLock))
          ∧ (o.op = 9 → deleteFits s = true → v.get CTL_IMG_STATUS.CODE = 0 ∧ journalGet v.ctl.journal recDEFAULT 0 = none))
    ∧ (s.step.running = true ∨ fwRuns s = false ∨ (s.ctl.installing = none ∧ (s.ctl.load = none ∨ s.flag CTL_FW_STATUS.SWITCH_PENDING = true)) →
      Answers .imageInstall s fun t => t = s)
    ∧ (s.step.running = false → fwRuns s = true → ∀ (x : Installation) (i : Image) (u w : State), i = parseImage x.load.bytes → w = installTables u i →
      ∀ tablesWritten, tablesWritten = (fun t : State =>
        (zeroDue w = true → t.ctl.installing = some { x with filling := true } ∧ t.get TAG_STATUS.ZEROING = 1 ∧ t.image = some i)
        ∧ (zeroDue w = false → ∃ v, t = settle v ∧ InForce v x i ∧ v.seqs = Vector.replicate 4 .reset)) →
      (s.ctl.installing = none → s.ctl.load = some x.load → s.flag CTL_FW_STATUS.SWITCH_PENDING = false →
        (fwVersion s < i.minFw → Answers .imageInstall s fun t => ∃ v, t = settle v ∧ v.ctl.load = none ∧ v.get CTL_IMG_STATUS.PENDING = 0
          ∧ (x.load.change = none → v.get CTL_IMG_STATUS.CODE = 5 ∧ Counted CTL_IMG_REJECT_CNT 1 s v ∧ v.image = s.image ∧ v.mem = s.mem))
        ∧ (i.minFw ≤ fwVersion s → u = takeLoad s → x.old = s.get LNK_DIGEST.DIGEST → x.scrubs = scrubDue u i.tenant → x.filling = false →
          u.ctl.load = none ∧ u.get CTL_IMG_STATUS.PENDING = 0 ∧ u.step = .reset ∧ u.xfers = [] ∧ u.reduces = []
          ∧ (scrubDue u i.tenant = true → Answers .imageInstall s fun t =>
              t.ctl.installing = some x ∧ t.get TAG_STATUS.SCRUBBING = 1 ∧ t.mem = u.mem ∧ t.image = s.image)
          ∧ (scrubDue u i.tenant = false → Answers .imageInstall s tablesWritten)))
      ∧ (s.ctl.installing = some x → x.filling = false → u = (scrub s i.tenant).set TAG_STATUS.SCRUBBING 0 →
          u.get PWR_LAST_TENANT.TENANT = i.tenant % 2 ^ 64 ∧ Counted TAG_SCRUB_CNT 1 s u
          ∧ (∀ a, (scratchBase ≤ a ∧ a < scratchBase + scratchBytes) ∨ (accBase ≤ a ∧ a < accBase + accBytes)
              ∨ (mergeBase ≤ a ∧ a < mergeBase + mergeBytes) → cellAt u.mem a = 0)
          ∧ Answers .imageInstall s fun t => tablesWritten t ∧ t = idle s)
      ∧ (s.ctl.installing = some x → x.filling = true → s.image = some i → Answers .imageInstall s fun t =>
          t = idle s ∧ ∃ v, t = settle v ∧ InForce v x i ∧ v.get TAG_STATUS.ZEROING = 0
            ∧ (x.load.change = none → v.mem = (zeroTags s).mem)))
    ∧ (∀ (offset : BitVec 22), Answers (.imageWindowWrite offset []) s fun t => t = s)
    ∧ (∀ (offset : BitVec 22) (data : List Byte), data ≠ [] →
      (s.get CTL_STATUS.BOOT = 2 → offset.toNat + data.length ≤ 393216 → Answers (.imageWindowWrite offset data) s fun t =>
        t = { s with ctl := { s.ctl with recovery := t.ctl.recovery } }
        ∧ (∀ i, i < data.length → FMap.find t.ctl.recovery (offset.toNat + i) = data[i]?)
        ∧ (∀ a, a < offset.toNat ∨ offset.toNat + data.length ≤ a → FMap.find t.ctl.recovery a = FMap.find s.ctl.recovery a))
      ∧ (s.get CTL_STATUS.BOOT = 2 ∧ 393216 < offset.toNat + data.length ∨ s.get CTL_STATUS.BOOT ≠ 2 ∧ s.ctl.stageNext = none →
        Answers (.imageWindowWrite offset data) s fun t =>
          t.ctl = { s.ctl with winLogged := true } ∧ Counted HST_WIN_ERR_CNT 1 s t ∧ t.mem = s.mem))
    ∧ (∀ (offset : BitVec 22) (data : List Byte) n, data ≠ [] → s.get CTL_STATUS.BOOT ≠ 2 → s.ctl.stageNext = some n →
      (n ≤ offset.toNat → offset.toNat + data.length ≤ 2 ^ 22 → Answers (.imageWindowWrite offset data) s fun t =>
        t = { s with ctl := { s.ctl with staging := t.ctl.staging, stageNext := some (offset.toNat + data.length) } }
        ∧ (∀ i, i < data.length → FMap.find t.ctl.staging (offset.toNat + i) = data[i]?)
        ∧ (∀ a, a < offset.toNat ∨ offset.toNat + data.length ≤ a → FMap.find t.ctl.staging a = FMap.find s.ctl.staging a))
      ∧ (offset.toNat < n ∨ 2 ^ 22 < offset.toNat + data.length → Answers (.imageWindowWrite offset data) s fun t =>
        t.ctl = { s.ctl with winLogged := true } ∧ Counted HST_WIN_ERR_CNT 1 s t ∧ t.mem = s.mem))

/-- FW_STAGE, FW_STORE, FW_SWITCH, FW_SWITCH_EXEC, FW_OP_COMPLETE, JOURNAL_COMPACT, LIFETIME_WRITE, QUOTE and QUOTE_SIGNED (R477 to R483, Tables 16.12 and 16.13): firmware is staged, stored, and switched from a
boundary on, and in recovery boot runs once it verifies; an operation that cannot be done ends with its code; the copies of a compaction, their COMMIT and the erasure of what they replace each keep what the journal holds; and a quote holds the tenant, the count and the step, and is shown when it is
signed. With nothing to end, to switch or to write nothing happens.
The model's own choices in it: log entries 117, 121, 123, 124, 125, 127, 128, 159. -/
def Obligations.FirmwareJournalAndQuotesTakeEffect : Prop :=
  (∀ (rs : List JournalRec) (typ key : Nat), typ ≠ recDELETE → typ ≠ recCOMMIT →
    journalGet (compacted rs) typ key = journalGet rs typ key ∧ journalGet (rs ++ copies rs) typ key = journalGet rs typ key
    ∧ (∀ all, all = rs ++ copies rs ++ [commitRec (rs ++ copies rs) 1] →
      all.filter (fun r => decide (nextSeq rs ≤ r.seq)) = compacted rs
      ∧ (counted rs = rs → journalGet all typ key = journalGet rs typ key)))
  ∧ (∀ (s : State),
    (s.flag CTL_FW_STATUS.BUSY = false →
      (Answers .fwStage s fun t =>
        t = { s with regs := t.regs, ctl := { s.ctl with winLogged := false, fwOp := some true } } ∧ t.get CTL_FW_STATUS.BUSY = 1
        ∧ RegsKept [CTL_FW_STATUS.BUSY] s t)
      ∧ (∀ f, s.ctl.staged = some f →
        (Answers .fwStore s fun t =>
          t = { s with regs := t.regs, ctl := { s.ctl with winLogged := false, fwOp := some false } } ∧ t.get CTL_FW_STATUS.BUSY = 1
          ∧ RegsKept [CTL_FW_STATUS.BUSY] s t)
        ∧ (Answers .fwSwitch s fun t =>
          t = { s with regs := t.regs, ctl := { s.ctl with winLogged := false } } ∧ t.get CTL_FW_STATUS.SWITCH_PENDING = 1
          ∧ t.get CTL_FW_STATUS.CODE = 0 ∧ RegsKept [CTL_FW_STATUS.SWITCH_PENDING, CTL_FW_STATUS.CODE] s t))
      ∧ (∀ c, s.ctl.staged = none → c = .fwStore ∨ c = .fwSwitch → Answers c s fun t =>
          t.get CTL_FW_STATUS.CODE = 8 ∧ bit (t.get HST_ATTN.ATTN) 8 = true ∧ t.ctl = { s.ctl with winLogged := false, fwOp := none } ∧ t.mem = s.mem))
    ∧ (s.flag CTL_FW_STATUS.BUSY = true → ∀ c, c = .fwStage ∨ c = .fwStore ∨ c = .fwSwitch → Answers c s fun t =>
          t.get CTL_FW_STATUS.CODE = 7 ∧ bit (t.get HST_ATTN.ATTN) 8 = true ∧ t = { s with regs := t.regs, ctl := { s.ctl with winLogged := false } })
    ∧ (s.ctl.staged = none ∨ s.ctl.switching = false
        ∧ (s.step.running = true ∨ s.ctl.installing ≠ none ∨ s.get CTL_FW_STATUS.SWITCH_PENDING = 0 ∨ fwRuns s = false) →
        Answers .fwSwitchExec s fun t => t = s)
    ∧ (∀ (readFails : Fin 4) (progFails : Nat), s.ctl.fwOp = none ∨ fwRuns s = false ∧ (s.ctl.fwOp = some true → s.get CTL_STATUS.BOOT ≠ 2) →
        Answers (.fwOpComplete readFails progFails) s fun t => t = s)
    ∧ (∀ (readFails : Fin 4) (progFails : Nat) (b : List Byte), s.ctl.fwOp = some true →
      (s.get CTL_STATUS.BOOT ≠ 2 → fwRuns s = true → readFails = 3 → Answers (.fwOpComplete readFails progFails) s fun t =>
          t.get CTL_FW_STATUS.CODE = 6 ∧ t.get CTL_FW_STATUS.BUSY = 0 ∧ t.ctl = { s.ctl with fwOp := none } ∧ t.mem = s.mem)
      ∧ (s.get CTL_STATUS.BOOT ≠ 2 → fwRuns s = true → readFails ≠ 3 → b = filledBytes s.ctl.staging ++ List.replicate 64 0xFF →
          Answers (.fwOpComplete readFails progFails) s fun t =>
            t.get CTL_FW_STATUS.CODE = judgeFirmware s b ∧ t.get CTL_FW_STATUS.BUSY = 0 ∧ t.mem = s.mem
            ∧ t.ctl = { s.ctl with fwOp := none, staged := if judgeFirmware s b = 0 then some (parseFirmware b) else s.ctl.staged })
      ∧ (s.get CTL_STATUS.BOOT = 2 → b = filledBytes s.ctl.recovery →
          (judgeFirmware s b ≠ 0 → Answers (.fwOpComplete readFails progFails) s fun t =>
            t.get CTL_FW_STATUS.CODE = judgeFirmware s b ∧ t.get CTL_STATUS.BOOT = 2 ∧ t.ctl = { s.ctl with fwOp := none })
          ∧ (judgeFirmware s b = 0 → Answers (.fwOpComplete readFails progFails) s fun t =>
            ∃ v, t = settle v ∧ v.get CTL_STATUS.BOOT = 3 ∧ v.get FLT_STATUS.RESTARTING = 0 ∧ v.ctl.firmware = some (parseFirmware b)
              ∧ v.mem = s.mem)))
    ∧ (s.ctl.staged ≠ none → s.step.running = false → s.ctl.installing = none → s.flag CTL_FW_STATUS.SWITCH_PENDING = true → fwRuns s = true →
      Answers .fwSwitchExec s fun t => t = { s with ctl := { s.ctl with switching := true } })
    ∧ (∀ f, s.ctl.staged = some f → s.ctl.switching = true → Answers .fwSwitchExec s fun t =>
        ∃ v, t = settle v ∧ v.ctl.firmware = some f ∧ v.ctl.staged = s.ctl.firmware ∧ v.ctl.switching = false ∧ v.get CTL_FW_STATUS.SWITCH_PENDING = 0
          ∧ v.get CTL_FW_STATUS.VERSION = f.version % 2 ^ 32 ∧ Counted CTL_FW_SWITCH_CNT 1 s v ∧ v.mem = s.mem)
    ∧ (∀ (readFails : Fin 4) (progFails : Nat) f, s.ctl.fwOp = some false → fwRuns s = true → s.ctl.staged = some f →
      journalFits (noteProgFails s progFails).ctl { typ := recFIRMWARE, key := 0, data := f.file } = true →
      Answers (.fwOpComplete readFails progFails) s fun t =>
        journalGet t.ctl.journal recFIRMWARE 0 = some f.file ∧ t.ctl.fwOp = none ∧ t.get CTL_FW_STATUS.BUSY = 0
        ∧ t.get CTL_FW_STATUS.CODE = 0 ∧ t.mem = s.mem)
    ∧ (∀ (readFails : Fin 4) (progFails : Nat) code (u : State), s.ctl.fwOp = some false → fwRuns s = true →
      s.ctl.staged = none ∧ code = 8 ∧ u = s ∨ (∃ f, s.ctl.staged = some f ∧ code = 6 ∧ u = noteProgFails s progFails
        ∧ journalFits u.ctl { typ := recFIRMWARE, key := 0, data := f.file } = false) → Answers (.fwOpComplete readFails progFails) s fun t =>
        t.get CTL_FW_STATUS.CODE = code ∧ t.get CTL_FW_STATUS.BUSY = 0 ∧ t.ctl = { u.ctl with fwOp := none } ∧ t.mem = s.mem)
    ∧ (fwRuns s = false ∨ s.ctl.compacting = none ∧ s.ctl.journalHigh = false → Answers .journalCompact s fun t => t = s)
    ∧ (fwRuns s = false → Answers .lifetimeWrite s fun t => t = s)
    ∧ (s.flag CTL_ATT_STATUS.BUSY = true → Answers .quote s fun t => t = s)
    ∧ (s.get CTL_ATT_STATUS.BUSY = 0 → Answers .quoteSigned s fun t => t = s)
    ∧ (fwRuns s = true →
      (s.ctl.compacting = none → s.ctl.journalHigh = true → Answers .journalCompact s fun t =>
        t = { s with
          regs := t.regs
          ctl := { s.ctl with
            journal := s.ctl.journal ++ copies s.ctl.journal, compacting := some { first := nextSeq s.ctl.journal, done := false } } }
        ∧ t.get CTL_FLASH_STATUS.COMPACTING = 1 ∧ RegsKept [CTL_FLASH_STATUS.COMPACTING] s t)
      ∧ (∀ c, s.ctl.compacting = some c → c.done = false → Answers .journalCompact s fun t => t = { s with
          ctl := { s.ctl with journal := s.ctl.journal ++ [commitRec s.ctl.journal 1], compacting := some { c with done := true } } })
      ∧ (∀ c, s.ctl.compacting = some c → c.done = true → Answers .journalCompact s fun t =>
        t.ctl.journal = s.ctl.journal.filter (fun r => decide (c.first ≤ r.seq)) ∧ t.ctl.compacting = none
        ∧ t.get CTL_FLASH_STATUS.COMPACTING = 0 ∧ Counted CTL_FLASH_COMPACT_CNT 1 s t ∧ t.mem = s.mem))
    ∧ (fwRuns s = true → (∀ d, d.length = 96 + 8 * s.ctl.life.bad.length → journalFits s.ctl { typ := recLIFETIME, key := 0, data := d } = true) →
      Answers .lifetimeWrite s fun t =>
        t.ctl.life.hours = s.ctl.life.hours + 1 ∧ t.mem = s.mem
        ∧ (∃ b, journalGet t.ctl.journal recLIFETIME 0 = some b ∧ fieldAt b 0 8 = (s.ctl.life.hours + 1) % 2 ^ 64))
    ∧ (s.flag CTL_ATT_STATUS.BUSY = false → Answers .quote s fun t =>
        t = { s with regs := t.regs, ctl := { s.ctl with quote := t.ctl.quote } } ∧ t.get CTL_ATT_STATUS.BUSY = 1
        ∧ t.get CTL_ATT_STATUS.DONE = 0 ∧ t.ctl.quote.length = 144
        ∧ fieldAt t.ctl.quote 112 8 = s.get CTL_TENANT.TENANT % 2 ^ 64 ∧ fieldAt t.ctl.quote 120 8 = s.tick % 2 ^ 64
        ∧ fieldAt t.ctl.quote 128 8 = stepShown s % 2 ^ 64 ∧ fieldAt t.ctl.quote 136 2 = s.get LNK_ID.ID % 2 ^ 16)
    ∧ (s.get CTL_ATT_STATUS.BUSY ≠ 0 → s.ctl.quote.length = 144 → Answers .quoteSigned s fun t =>
        t = { s with regs := t.regs } ∧ t.get CTL_ATT_STATUS.BUSY = 0 ∧ t.get CTL_ATT_STATUS.DONE = 1
        ∧ Counted CTL_QUOTE_CNT 1 s t
        ∧ (∀ k, k < 18 → t.get ⟨0x1000 + 8 * k, 0, 64, 0, .ro⟩ = fieldAt s.ctl.quote (8 * k) 8)))

/-! Supply, resets and release (17). -/

/-- SUPPLY_SAMPLE, PWR_FAIL, STAGE4_COMMIT_DONE, THERMAL_TRIP and ALERT_JUDGEMENT (R490 to R494, R504, R505, Table 17.2): the stage judged is the one whose band holds the mean of four samples, with 1 V of hysteresis;
PWR_FAIL_L calls for stage 4; every stage entered is counted; the commit of an entry to stage 4 completes the retained record and ends what it has cut, and its other records follow; and the thermal flags and the alert flags, with THERM_L and ALERT_L, follow the readings. Without power, before the sensors run and with no
commit that waits, nothing happens.
The model's own choices in it: log entries 111, 112, 158. -/
def Obligations.SupplyAndTemperatureAreJudged : Prop :=
  (∀ sum v, v ≤ 4 → judgeStage sum 4 v ≤ 4
    ∧ (judgeStage sum 4 v < 4 → 4 * enterBelow (judgeStage sum 4 v + 1) ≤ sum)
    ∧ (0 < judgeStage sum 4 v → sum ≤ 4 * (enterBelow (judgeStage sum 4 v) + 1000)))
  ∧ (∀ (s : State), s.pwr.on = false → ∀ (mv vin iin pin mj : BitVec 16) (low : Bool) (die stack stageT : BitVec 8) c,
    c ∈ [Instr.supplySample mv, .pwrFail low, .thermalTrip die stack, .alertJudgement vin iin pin die stack stageT mj] → Answers c s fun t => t = s)
  ∧ (∀ (s : State) (w : Stage4Write), fwRuns s = false ∨ firstOf FwEvent.supply s.flt.fwq = none → Answers (.stage4CommitDone w) s fun t => t = s)
  ∧ (∀ (s : State) (die stack : BitVec 8), s.get PWR_STATUS.RELEASE = 1 → Answers (.thermalTrip die stack) s fun t => t = s)
  ∧ (∀ (s : State), s.pwr.on = true → s.pwr.vstage ≤ 4 →
    (∀ (mv : BitVec 16) v vins, vins = (mv.toNat :: s.pwr.vins).take 4 →
      v = (if vins.length < 4 then s.pwr.vstage else judgeStage vins.sum 4 s.pwr.vstage) → Answers (.supplySample mv) s fun t =>
        t.pwr = { s.pwr with vins := vins, vstage := v }
        ∧ t.get PWR_STATUS.STAGE = (if s.flag PWR_STATUS.PFAIL then 4 else v)
        ∧ (∀ k, s.get PWR_STATUS.STAGE < k → k ≤ t.get PWR_STATUS.STAGE → Counted (stageCounter k) 1 s t)
        ∧ (s.get PWR_STATUS.STAGE ≤ t.get PWR_STATUS.STAGE → t.mem = s.mem ∧ t.slots = s.slots ∧ t.seqs = s.seqs))
    ∧ (Answers (.pwrFail true) s fun t =>
        t.get PWR_STATUS.STAGE = 4 ∧ t.get PWR_STATUS.PFAIL = 1 ∧ t.pwr = s.pwr
        ∧ Counted PWR_PFAIL_CNT (b2n (!s.flag PWR_STATUS.PFAIL)) s t)
    ∧ (Answers (.pwrFail false) s fun t =>
        t.get PWR_STATUS.STAGE = s.pwr.vstage ∧ t.get PWR_STATUS.PFAIL = 0 ∧ t.pwr = s.pwr)
    ∧ (∀ (w : Stage4Write) rest fits, fwRuns s = true → firstOf FwEvent.supply s.flt.fwq = some (true, rest) →
      (fits = true ↔ w.complete = true ∧ w.left ≤ 262144) → Answers (.stage4CommitDone w) s fun t =>
        t.flt.fwq = .stage4Log :: rest ∧ t.get (PWR_RETAINED.WORD 7) = 1 ∧ t.mem = s.mem
        ∧ (∃ c, t.ctl.journal.getLast? = some c ∧ c.typ = recCOMMIT) ∧ (∀ c, t.ctl.compacting = some c → c.done = true)
        ∧ (∀ o, s.ctl.op = some o → o.op = 2 ∨ o.op = 4 → t.ctl.op = none ∧ (fits = false → t.get CTL_IMG_STATUS.CODE = 20))
        ∧ ((∀ o, s.ctl.op = some o → o.op ≠ 2 ∧ o.op ≠ 4) → t.ctl.op = s.ctl.op
          ∧ (∀ f, s.ctl.fwOp = some false → s.ctl.staged = some f → t.ctl.fwOp = none
            ∧ (t.get CTL_FW_STATUS.CODE = 0 ∧ journalGet t.ctl.journal recFIRMWARE 0 = some f.file ∨ t.get CTL_FW_STATUS.CODE = 6)
            ∧ (fits = false → t.get CTL_FW_STATUS.CODE = 6))
          ∧ (s.ctl.fwOp ≠ some false → t.ctl.fwOp = s.ctl.fwOp)))
    ∧ (∀ (w : Stage4Write) rest, fwRuns s = true → firstOf FwEvent.supply s.flt.fwq = some (false, rest) → Answers (.stage4CommitDone w) s fun t =>
        t = drainFwq (snapshotLog (recordLifetime { s with flt := { s.flt with fwq := rest } })))
    ∧ (∀ (die stack : BitVec 8) temp, temp = max die.toNat stack.toNat → s.get PWR_STATUS.RELEASE ≠ 1 →
      Answers (.thermalTrip die stack) s fun t =>
        (105 ≤ temp → s.get PWR_STATUS.THERM = 0 → t.get PWR_STATUS.THERM = 1 ∧ Pin.thermL.drivenLow t = true ∧ Counted PWR_THERM_CNT 1 s t ∧ t.mem = s.mem)
        ∧ (temp < 100 → t.get PWR_STATUS.THERM = 0 ∧ Pin.thermL.drivenLow t = false)
        ∧ (100 ≤ temp → temp < 105 → t.get PWR_STATUS.THERM = s.get PWR_STATUS.THERM)
        ∧ (115 ≤ temp → t.get PWR_STATUS.HOT = 1)
        ∧ (105 ≤ temp → temp < 115 → t.get PWR_STATUS.HOT = s.get PWR_STATUS.HOT)
        ∧ (temp < 105 → s.flag PWR_STATUS.HOT = true → t.get PWR_STATUS.HOT = 0))
    ∧ (∀ (vin iin pin : BitVec 16) (die stack stageT : BitVec 8) (mj : BitVec 16),
      Answers (.alertJudgement vin iin pin die stack stageT mj) s fun t =>
        t = { s with regs := t.regs } ∧ t.get PWR_TELEM.VIN = vin.toNat ∧ t.get PWR_TELEM.IIN = iin.toNat
        ∧ t.get PWR_TELEM.PIN = pin.toNat ∧ t.get PWR_TEMP.DIE = die.toNat ∧ t.get PWR_TEMP.STACK = stack.toNat
        ∧ t.get PWR_TEMP.STAGE_T = stageT.toNat ∧ t.get PWR_ENERGY.MJ = (s.get PWR_ENERGY.MJ + mj.toNat) % 2 ^ 64
        ∧ t.get PWR_ALERT_FLAGS.VIN_LOW = (if vin.toNat < s.get PWR_ALERT_CFG.VIN_LOW then 1 else s.get PWR_ALERT_FLAGS.VIN_LOW)
        ∧ t.get PWR_ALERT_FLAGS.PIN_HIGH = (if s.get PWR_ALERT_CFG.PIN_HIGH < pin.toNat then 1 else s.get PWR_ALERT_FLAGS.PIN_HIGH)
        ∧ t.get PWR_ALERT_FLAGS.TEMP_HIGH = (if s.get PWR_ALERT_CFG.TEMP_HIGH ≤ max die.toNat stack.toNat then 1
            else s.get PWR_ALERT_FLAGS.TEMP_HIGH)
        ∧ (configured s = true → s.flag PWR_ALERT_CFG.ENABLE = true → vin.toNat < s.get PWR_ALERT_CFG.VIN_LOW → Pin.alertL.drivenLow t = true)
        ∧ RegsKept [PWR_TELEM.VIN, PWR_TELEM.IIN, PWR_TELEM.PIN, PWR_TEMP.DIE, PWR_TEMP.STACK, PWR_TEMP.STAGE_T, PWR_ENERGY.MJ,
            PWR_ALERT_FLAGS.VIN_LOW, PWR_ALERT_FLAGS.PIN_HIGH, PWR_ALERT_FLAGS.TEMP_HIGH] s t))

/-- BROWN_OUT, OVERVOLTAGE, PIN_RESET, CLOCK_FAILURE, CHIP_RESET, DEBUG_RESET, ENGINE_RESET, POWER_ON, POWER_LOSS, the releases of the four holds, and RELEASE_STEP_COMPLETE (R489 to R501, Table 17.5): what a reset
clears and keeps, with the resets that are in progress, the cause that it records and the step at which release resumes; and each release step leads to the next, with what firmware, the retirement table and the default image it finds. A source that acts already, a wrong key, a port that is not enabled, a hold that
stands and a release that is complete make a command do nothing.
The model's own choices in it: log entries 29, 108, 109, 110. -/
def Obligations.ResetsAndReleaseTakeEffect : Prop :=
  ∀ (s : State),
    (∀ c, (s.pwr.on = false ∨ s.pwr.holdBrown = true) ∧ c = .brownOut ∨ (s.pwr.on = false ∨ s.pwr.holdOver = true) ∧ c = .overvoltage
        ∨ (∃ low, (s.pwr.on = false ∨ s.pwr.holdPin = low) ∧ c = .pinReset low) ∨ (s.pwr.on = false ∨ s.pwr.holdClock = true) ∧ c = .clockFailure
        ∨ (∃ key, (s.pwr.on = false ∨ key ≠ 0xA5) ∧ (c = .chipReset key ∨ c = .engineReset key))
        ∨ (s.pwr.on = false ∨ s.flag PWR_OPT.DEBUG_EN = false) ∧ c = .debugReset ∨ s.pwr.on = true ∧ c = .powerOn ∨ s.pwr.on = false ∧ c = .powerLoss
        ∨ (∃ pins fails, (s.pwr.on = false ∨ s.get PWR_STATUS.RELEASE = 0
            ∨ s.get PWR_STATUS.RELEASE = 2 ∧ (s.pwr.holdBrown || s.pwr.holdOver || s.pwr.holdPin || s.pwr.holdClock) = true
            ∨ s.get PWR_STATUS.RELEASE = 4 ∧ fwRuns s = false ∧ s.get CTL_STATUS.BOOT ≠ 0
            ∨ s.get PWR_STATUS.RELEASE = 7 ∧ fwRuns s = false) ∧ c = .releaseStepComplete pins fails) →
      Answers c s fun t => t = s)
    ∧ (∀ c code, s.pwr.on = true →
      (c = .brownOut ∧ s.pwr.holdBrown = false ∧ code = 2 ∨ c = .overvoltage ∧ s.pwr.holdOver = false ∧ code = 2
        ∨ c = .pinReset true ∧ s.pwr.holdPin = false ∧ code = 3 ∨ c = .chipReset 0xA5 ∧ code = 6
        ∨ c = .debugReset ∧ s.flag PWR_OPT.DEBUG_EN = true ∧ code = 7 ∨ c = .clockFailure ∧ s.pwr.holdClock = false ∧ code = 8) →
      Answers c s fun t =>
        t.image = none ∧ t.seqs = Vector.replicate 4 .reset ∧ t.lnk = .reset ∧ t.xfers = [] ∧ t.reduces = [] ∧ t.step = .reset
        ∧ t.dense = .reset ∧ t.drv = .reset ∧ t.ing = .reset ∧ t.host = .reset ∧ t.descs = [] ∧ t.slots = []
        ∧ t.ctl.journal = s.ctl.journal ∧ t.ctl.staging = s.ctl.staging ∧ t.ctl.owners = s.ctl.owners ∧ t.ctl.firmware = none
        ∧ t.get PWR_STATUS.RELEASE = ((sourcesLeft s ++ [code]).map resumeStep).foldl min 7
        ∧ ((∀ d ∈ sourcesLeft s ++ [code], 2 < d) → t.flt.fwq = s.flt.fwq)
        ∧ bit (t.get PWR_RESET_CAUSE.CAUSE) (code - 1) = true ∧ t.get PWR_ALERT_FLAGS.RESET = 1
        ∧ (s.logIn.queue.length < 63 → ∀ f : Field, keptKey true f.key = false → f.key ≠ PWR_ALERT_FLAGS.RESET.key →
            f.key ≠ PWR_STATUS.RELEASE.key → t.get f = f.reset))
    ∧ (s.pwr.on = true → Answers (.engineReset 0xA5) s fun t =>
        t.image = none ∧ t.seqs = Vector.replicate 4 .reset ∧ t.dense = .reset ∧ t.drv = .reset ∧ t.xfers = [] ∧ t.reduces = []
        ∧ t.step = .reset ∧ t.memory = .reset ∧ t.ctl.journal = s.ctl.journal ∧ t.pwr.on = true
        ∧ bit (t.get PWR_RESET_CAUSE.CAUSE) 4 = true ∧ t.get PWR_STATUS.RELEASE = resumeAt s (sourcesLeft s ++ [5])
        ∧ ((sourcesLeft s).any chipSource = true → t.ctl.firmware = none)
        ∧ ((sourcesLeft s).any chipSource = false → t.ctl.firmware = s.ctl.firmware ∧ t.get FLT_STATUS.WITHDRAWN = 1
          ∧ ∀ n, n < 512 → t.get (MEM_RETIRE_TABLE.PAGE n) = s.get (MEM_RETIRE_TABLE.PAGE n)))
    ∧ (s.pwr.on = false → Answers .powerOn s fun t =>
        t.pwr.on = true ∧ t.get PWR_STATUS.RELEASE = 1 ∧ t.get PWR_RESET_CAUSE.CAUSE = 1 ∧ t.ctl.journal = s.ctl.journal
        ∧ t.ctl.owners = s.ctl.owners ∧ t.lnk = .reset ∧ t.seqs = Vector.replicate 4 .reset ∧ t.image = none
        ∧ ∀ f : Field, f.key ∉ [PWR_STATUS.RELEASE.key, PWR_RESET_CAUSE.CAUSE.key, PWR_ALERT_FLAGS.RESET.key] → t.get f = f.reset)
    ∧ (s.pwr.on = true → Answers .powerLoss s fun t =>
        t.pwr = .reset ∧ t.regs = [] ∧ t.mem = [] ∧ t.ctl.journal = s.ctl.journal ∧ t.ctl.owners = s.ctl.owners)
    ∧ (Answers .brownOutRelease s fun t => t = { s with pwr := { s.pwr with holdBrown := false } })
    ∧ (Answers .overvoltageRelease s fun t =>
        t = { s with regs := t.regs, pwr := { s.pwr with holdOver := false } } ∧ t.get PWR_STATUS.OV = 0 ∧ RegsKept [PWR_STATUS.OV] s t)
    ∧ (Answers .clockRecover s fun t =>
        t = { s with regs := t.regs, pwr := { s.pwr with holdClock := false } } ∧ t.get PWR_STATUS.OSC = 0
        ∧ RegsKept [PWR_STATUS.OSC] s t)
    ∧ (s.pwr.on = true → s.pwr.holdPin = true → Answers (.pinReset false) s fun t =>
        t = { s with pwr := { s.pwr with holdPin := false } })
    ∧ (∀ (pins : BitVec 8) (fails : Nat), s.pwr.on = true →
      (s.get PWR_STATUS.RELEASE = 1 → Answers (.releaseStepComplete pins fails) s fun t => t = s.set PWR_STATUS.RELEASE 2)
      ∧ (s.get PWR_STATUS.RELEASE = 2 → s.pwr.holdBrown = false → s.pwr.holdOver = false → s.pwr.holdPin = false →
          s.pwr.holdClock = false → Answers (.releaseStepComplete pins fails) s fun t =>
            t = { s.set PWR_STATUS.RELEASE 3 with cad := { s.cad with running := true } })
      ∧ (s.get PWR_STATUS.RELEASE = 3 → Answers (.releaseStepComplete pins fails) s fun t =>
          t.get PWR_STATUS.RELEASE = 4 ∧ t.get PWR_OPT.PINS = pins.toNat ∧ t.lnk.ownId = t.get LNK_ID.ID ∧ t.mem = s.mem)
      ∧ (s.get PWR_STATUS.RELEASE = 4 → fwRuns s = true → Answers (.releaseStepComplete pins fails) s fun t =>
          t = s.set PWR_STATUS.RELEASE 5)
      ∧ (s.get PWR_STATUS.RELEASE = 4 → fwRuns s = false → s.get CTL_STATUS.BOOT = 0 →
          (∀ f, flashFirmware s = some f → s.flag PWR_OPT.FLASH_BOOT = true → fails < 3 → Answers (.releaseStepComplete pins fails) s fun t =>
            t.get PWR_STATUS.RELEASE = 5 ∧ t.get CTL_STATUS.BOOT = 1 ∧ t.ctl.firmware = some f)
          ∧ (flashFirmware s = none ∨ s.flag PWR_OPT.FLASH_BOOT = false ∨ 3 ≤ fails → Answers (.releaseStepComplete pins fails) s fun t =>
            t.get PWR_STATUS.RELEASE = 4 ∧ t.get CTL_STATUS.BOOT = 2 ∧ t.ctl.firmware = none ∧ t.mem = s.mem))
      ∧ (s.get PWR_STATUS.RELEASE = 5 → journalGet s.ctl.journal recRETIRE 0 = none →
          Answers (.releaseStepComplete pins fails) s fun t =>
            t = { s.set PWR_STATUS.RELEASE 6 with pwr := { s.pwr with fabric := true } })
      ∧ (∀ b, s.get PWR_STATUS.RELEASE = 5 → journalGet s.ctl.journal recRETIRE 0 = some b → Answers (.releaseStepComplete pins fails) s fun t =>
          t.get PWR_STATUS.RELEASE = 6 ∧ t.pwr = { s.pwr with fabric := true } ∧ t.mem = s.mem
          ∧ ∀ n w, (wordsOf 8 b)[n]? = some w → n < 512 →
            t.get (MEM_RETIRE_TABLE.PAGE n) = (if fails < 3 then bits w 0 24 else s.get (MEM_RETIRE_TABLE.PAGE n))
            ∧ t.get (MEM_RETIRE_TABLE.VALID n) = (if fails < 3 then bits w 24 1 else s.get (MEM_RETIRE_TABLE.VALID n)))
      ∧ (s.get PWR_STATUS.RELEASE = 6 → Answers (.releaseStepComplete pins fails) s fun t => t = s.set PWR_STATUS.RELEASE 7)
      ∧ (s.get PWR_STATUS.RELEASE = 7 → fwRuns s = true → s.ctl.installing = none → defaultSlot s = none ∨ s.flag PWR_OPT.DEFAULT_EN = false →
          (∀ e, Upset.record recDEFAULT 0 e ∉ s.upsets) →
          Answers (.releaseStepComplete pins fails) s fun t =>
            t = settle { s.set PWR_STATUS.RELEASE 0 with pwr := { s.pwr with sources := [] } })
      ∧ (s.get PWR_STATUS.RELEASE = 7 → fwRuns s = true → s.ctl.installing = none → defaultSlot s ≠ none →
          s.upsets = [.record recDEFAULT 0 .persistent] → Answers (.releaseStepComplete pins fails) s fun t =>
            ∃ v, t = settle v ∧ v.get PWR_STATUS.RELEASE = 0 ∧ v.image = s.image ∧ v.upsets = [])
      ∧ (∀ n, s.get PWR_STATUS.RELEASE = 7 → fwRuns s = true → s.ctl.installing = none → defaultSlot s = some n → s.flag PWR_OPT.DEFAULT_EN = true →
          (∀ e, Upset.record recDEFAULT 0 e ∉ s.upsets) →
          (slotImage s n = none ∨ 3 ≤ fails → Answers (.releaseStepComplete pins fails) s fun t =>
            ∃ v, t = settle v ∧ v.get PWR_STATUS.RELEASE = 0 ∧ v.get CTL_STATUS.DEF_FAILED = 1 ∧ v.get CTL_IMG_STATUS.CODE = 15 ∧ v.image = s.image)
          ∧ (∀ b u, slotImage s n = some b → fails < 3 → u = takeLoad s →
            ((judgeImage s b).code ≠ 0 → Answers (.releaseStepComplete pins fails) s fun t =>
              ∃ v, t = settle v ∧ v.get PWR_STATUS.RELEASE = 0 ∧ v.get CTL_STATUS.DEF_FAILED = 1
                ∧ v.get CTL_IMG_STATUS.CODE = (judgeImage s b).code % 32 ∧ v.image = s.image)
            ∧ ((judgeImage s b).code = 0 → scrubDue u (parseImage b).tenant = true → Answers (.releaseStepComplete pins fails) s fun t =>
              t.get PWR_STATUS.RELEASE = 7 ∧ t.get TAG_STATUS.SCRUBBING = 1
              ∧ ∃ x, t.ctl.installing = some x ∧ x.load = { op := 3, slot := n, bytes := b, change := none } ∧ x.filling = false)))
      ∧ (∀ x i, s.get PWR_STATUS.RELEASE = 7 → fwRuns s = true → s.ctl.installing = some x → x.filling = true → s.image = some i →
          i = parseImage x.load.bytes → Answers (.releaseStepComplete pins fails) s fun t =>
            ∃ v, t = settle v ∧ InForce v x i ∧ v.get PWR_STATUS.RELEASE = 0 ∧ v.pwr.sources = []))

/-! The host port (18) and observation (19). -/

/-- BAR0_BAD_ACCESS, WINDOW_READ, WINDOW_WRITE, WINDOW_CONFIG, FUNCTION_RESET, PCIE_LINK_DOWN and PCIE_LINK_UP (R514 to R520, Table 18.11): an open window gives access to its tag, a closed one reads zero, writes nothing
and is counted, as is a write of one that is read-only; the image window reads zero; a refusal is logged once per write of the window's register; and what resets and the link's states leave of the function.
MIRROR_WRITE, MSIX_MESSAGE, VECTOR_UNMASK, HOLDOFF_EXPIRE and BUS_MASTER_ENABLE (R513, R523 to R525, R527): the status word
shows what the module does; the mirror takes it; a rise of the summary sends one message, keeps one back while the holdoff runs, or
leaves one pending while the vector is masked; and what was kept goes out when it may.
The model's own choices in it: log entries 13, 129, 157, 161, 162. -/
def Obligations.TheHostPortTakesEffect : Prop :=
  (∀ (s : State),
    (Answers .bar0BadAccess s fun t => Counted HST_BAR_ERR_CNT 1 s t ∧ t.mem = s.mem ∧ t.host = { s.host with aborted := t.host.aborted }
      ∧ (s.logIn.queue.length < 64 → t.logIn.queue.length = s.logIn.queue.length + 1))
    ∧ (∀ (n : Fin 64) (w : State), w = meetLink (s.inOp (windowCtx n)) →
      w = { s with ctx := windowCtx n, upsets := w.upsets, host := { s.host with corrected := w.host.corrected } }
      ∧ (Upset.hostLink ∉ s.upsets → w.upsets = s.upsets ∧ w.host = s.host) ∧ (Upset.hostLink ∈ s.upsets → w.host.corrected = true))
    ∧ (∀ (n : Fin 64) (off : BitVec 22) (w : State), n.val ≠ 0 → w = meetLink (s.inOp (windowCtx n)) →
      (windowOpen s n = true →
        (∀ len : BitVec 13, Answers (.windowRead n off len) s fun t =>
          ∀ r : List Byte × State, r = tagRead w (streamChan w (s.get (HST_WIN.TAG n)))
              (Int.ofNat (s.get (HST_WIN.BASE n) * 4096 + off.toNat)) len.toNat →
            t = if r.2.get HST_LINK.RATE = 0 then r.2 else { r.2 with host := { r.2.host with reply := r.1, aborted := false } })
        ∧ (∀ data, s.get (HST_WIN.WR n) ≠ 0 → Answers (.windowWrite n off data) s fun t =>
          t = tagWrite w (streamChan w (s.get (HST_WIN.TAG n))) (Int.ofNat (s.get (HST_WIN.BASE n) * 4096 + off.toNat)) data))
      ∧ (∀ c, (∃ len, windowOpen s n = false ∧ c = .windowRead n off len)
          ∨ (∃ data, (windowOpen s n = false ∨ s.get (HST_WIN.WR n) = 0) ∧ c = .windowWrite n off data) → Answers c s fun t =>
        Counted HST_WIN_ERR_CNT 1 s t ∧ t.mem = s.mem ∧ t.memory = s.memory
        ∧ (∀ len, c = .windowRead n off len → s.get HST_LINK.RATE ≠ 0 → t.host.reply = List.replicate len.toNat 0 ∧ t.host.aborted = false)
        ∧ (n.val ∈ s.host.winArmed → n.val ∉ t.host.winArmed
          ∧ (s.logIn.queue.length < 64 → t.logIn.queue.length = s.logIn.queue.length + 1))
        ∧ (n.val ∉ s.host.winArmed → t.host.winArmed = s.host.winArmed ∧ t.logIn = s.logIn)))
    ∧ (∀ (off : BitVec 22) (len : BitVec 13) data v (w : State), w = meetLink (s.inOp (windowCtx 0)) →
      (Answers (.windowRead 0 off len) s fun t => t = if s.get HST_LINK.RATE = 0 then w
        else { w with host := { w.host with reply := List.replicate len.toNat 0, aborted := false } })
      ∧ (Answers (.windowWrite 0 off data) s fun t => t = w) ∧ Answers (.windowConfig 0 v) s fun t => t = s)
    ∧ (∀ (n : Fin 64) (v : BitVec 64), n.val ≠ 0 → Answers (.windowConfig n v) s fun t =>
        t = { s with regs := t.regs, ctx := 2 ^ 62 + n.val, once := t.once, opCount := t.opCount,
                      host := { s.host with winArmed := n.val :: s.host.winArmed.filter (· != n.val) } } ∧ RegsKept (regFields groups (0xD01000 + 8 * n.val)) s t
        ∧ ∀ f ∈ regFields groups (0xD01000 + 8 * n.val), f.acc = .rw → t.get f = bits v.toNat f.lsb f.width)
    ∧ (configured s = false → Answers (.functionReset .perst) s fun t => t = s.set HST_LINK.PERST 1)
    ∧ (∀ kind, kind ≠ .perst ∨ configured s = true → Answers (.functionReset kind) s fun t =>
        pciConfig t (.bar 0) = 4 ∧ pciConfig t (.bar 2) = 12 ∧ pciConfig t .msixEnable = 0 ∧ pciConfig t .correctable = 0 ∧
        Counted HST_PERST_CNT 1 s t ∧ t.get HST_LINK.BME = 0 ∧ t.get HST_ATTN_EN.EN = 0 ∧ t.get HST_MIRROR.ENABLE = 0
        ∧ (∀ n, 1 ≤ n → n < 64 → t.get (HST_WIN.VALID n) = 0) ∧ t.host.masked = true ∧ t.host.msgPending = false
        ∧ (kind ≠ .flr → t.get HST_LINK.RATE = 0) ∧ (kind = .flr → t.get HST_LINK.RATE = s.get HST_LINK.RATE)
        ∧ (kind = .perst → t.get HST_LINK.PERST = 1) ∧ t.mem = s.mem ∧ t.image = s.image)
    ∧ (s.get HST_LINK.RATE = 0 → Answers .pcieLinkDown s fun t => t = s)
    ∧ (∀ (rate width : BitVec 3) flit, configured s = false ∨ linkMode rate.toNat width.toNat flit = false → Answers (.pcieLinkUp rate width flit) s fun t => t = s.set HST_LINK.PERST 0)
    ∧ (s.get HST_LINK.RATE ≠ 0 → Answers .pcieLinkDown s fun t =>
        t.get HST_LINK.RATE = 0 ∧ t.get HST_LINK.WIDTH = 0 ∧ Counted HST_LINKDOWN_CNT 1 s t ∧ t.host.msgPending = false ∧ t.mem = s.mem)
    ∧ (∀ (rate width : BitVec 3) flit, configured s = true → linkMode rate.toNat width.toNat flit = true → Answers (.pcieLinkUp rate width flit) s fun t =>
        t.get HST_LINK.PERST = 0 ∧ t.get HST_LINK.RATE = rate.toNat ∧ t.get HST_LINK.WIDTH = width.toNat ∧ t.mem = s.mem))
  ∧ (∀ (s : State),
    (s.get CTL_STATUS.BOOT ≠ 0 → s.get CTL_STATUS.BOOT ≠ 2 →
      (∀ x, s.ctl.installing = some x → hostState s = 2 ∧ progress s = installProgress s x)
      ∧ (s.ctl.installing = none → s.ctl.switching = true → hostState s = 2 ∧ progress s = 0)
      ∧ (s.ctl.installing = none → s.ctl.switching = false →
        (s.flag FLT_STATUS.WITHDRAWN = true → hostState s = 3 ∧ progress s = 0)
        ∧ (s.flag FLT_STATUS.WITHDRAWN = false → s.flag FLT_STATUS.ADOPTING = true →
          hostState s = 4 ∧ progress s = 255 * fetchDone s / max 1 (fetchTotal s))
        ∧ (s.flag FLT_STATUS.WITHDRAWN = false → s.flag FLT_STATUS.ADOPTING = false →
          (supplyHolds s = true → hostState s = 5 ∧ progress s = 0)
          ∧ (supplyHolds s = false → s.image = none → hostState s = 6 ∧ progress s = 0)
          ∧ (supplyHolds s = false → s.image.isSome = true → s.step.running = true →
            hostState s = 8 ∧ progress s = min 255 (256 * (s.tick - s.step.sched) / stepPeriod s))
          ∧ (supplyHolds s = false → s.image.isSome = true → s.step.running = false →
            hostState s = (if waiting s then 7 else 9) ∧ progress s = 0))))
    ∧ (s.flag HST_MIRROR.ENABLE = false ∨ mayRequest s = false → Answers .mirrorWrite s fun t => t = { s with host := { s.host with sent := [] } })
    ∧ (s.flag HST_MIRROR.ENABLE = true → mayRequest s = true → Answers .mirrorWrite s fun t =>
        t = { s with
          regs := t.regs
          host := { s.host with mirrored := some (hostWord s), sent := [.mirror (s.get HST_MIRROR.ADDR * 8) (hostWord s)] } }
        ∧ Counted HST_MIRROR_CNT 1 s t ∧ RegsKept (counterFields HST_MIRROR_CNT) s t)
    ∧ (∀ (c : Instr) (h : HostState),
      (c = .msixMessage ∧ h = { s.host with
          summary := s.host.summary || summary s, msgDue := s.host.msgDue || (summary s && !s.host.summary), sent := [] }
        ∨ c = .vectorUnmask ∧ h = { s.host with
          masked := false, msgPending := false, msgDue := s.host.msgDue || (s.host.msgPending && summary s), sent := [] }
        ∨ c = .holdoffExpire ∧ h = { s.host with holdoff := false, msgDue := s.host.msgDue && summary s, sent := [] }) →
      (h.msgDue = false → Answers c s fun t => t = { s with host := h })
      ∧ (h.msgDue = true → h.masked = true → Answers c s fun t => t = { s with host := { h with msgDue := false, msgPending := true } })
      ∧ (h.msgDue = true → h.masked = false → h.holdoff = true ∨ mayRequest s = false → Answers c s fun t => t = { s with host := h })
      ∧ (h.msgDue = true → h.masked = false → h.holdoff = false → mayRequest s = true → Answers c s fun t =>
        t = { s with
          regs := t.regs
          host := { h with msgDue := false, holdoff := true, sent := [.message s.host.msgAddr s.host.msgData] } }
        ∧ Counted HST_MSG_CNT 1 s t ∧ RegsKept (counterFields HST_MSG_CNT) s t))
    ∧ (∀ (c : FnConfig) d3hot, Answers (.busMasterEnable c d3hot) s fun t =>
        t.get HST_LINK.BME = b2n c.bme ∧ t.get HST_LINK.D3HOT = b2n d3hot ∧ t.mem = s.mem
        ∧ t.host.bar0 = c.bar0.toNat / 2 ^ 24 * 2 ^ 24 ∧ t.host.bar2 = c.bar2.toNat / 2 ^ 28 * 2 ^ 28 ∧ t.host.msix = c.msix
        ∧ (c.bme = false ∨ d3hot = true → t.host.sent = [])
        ∧ (∀ u, u = (s.setFlag HST_LINK.BME c.bme).setFlag HST_LINK.D3HOT d3hot → mayRequest u = true → s.host.msgDue = false →
          s.flag HST_MIRROR.ENABLE = true → s.host.mirrored ≠ some (hostWord u) →
          t.host.sent = [.mirror (s.get HST_MIRROR.ADDR * 8) (hostWord u)] ∧ t.host.mirrored = some (hostWord u) ∧ Counted HST_MIRROR_CNT 1 s t)))

/-- The management commands and common command codes of the I3C target and its in-band interrupts (R529 to R531, Table 18.5): a read returns its registers up to the maximum read length, data of the wrong form, an unknown command and a parity error
are counted alone, and addresses, limits and interrupt requests follow their commands. Before the target is configured no transfer is answered, and one to another address, or that does not concern it, changes nothing.
The model's own choices in it: log entries 130, 131, 163. -/
def Obligations.I3cTransfersAreAnswered : Prop :=
  (∀ (s : State) (x : MgmtAccess) data c, configured s = false ∨ answersAt s x.addr.toNat = false →
    c ∈ [Instr.ident x data, .status x data, .telem x data, .temp x data, .energy x data, .stages x data, .position x data, .alert x data,
      .cause x data, .reset x data] → Answers c s fun t => t = s)
  ∧ (∀ (s : State), configured s = false → ∀ parity (a b : BitVec 7) won (e : BitVec 8) (limit : BitVec 16) c,
    c ∈ [Instr.setdasa parity a b, .entdaa parity won a, .rstdaa parity,
      .enec parity e, .disec parity e, .getpid parity, .getbcr parity, .getdcr parity, .getstatus parity, .setmwl parity limit, .getmwl parity,
      .setmrl parity limit, .getmrl parity] → Answers c s fun t => t = s)
  ∧ (∀ (s : State) accepted, (alertCond s = false ∨ s.host.alert = true → Answers (.inBandInterrupt accepted) s fun t => t = s)
    ∧ (alertCond s = true → s.host.alert = false → mayInterrupt s = false → Answers (.inBandInterrupt accepted) s fun t =>
      t = { s with host := { s.host with alert := true } })
    ∧ (s.host.ibi = none → Answers (.ibiRetry accepted) s fun t => t = s)
    ∧ (∀ left, s.host.ibi = some left → mayInterrupt s = false → Answers (.ibiRetry accepted) s fun t =>
      t = { s with host := { s.host with ibi := none } }))
  ∧ ∀ (s : State), configured s = true →
    (∀ (x : MgmtAccess), answersAt s x.addr.toNat = true → x.parity = false → x.unknown = false →
      (∀ c bs, (c, bs) ∈ [(Instr.ident x [], toBytes 8 Config.serial.toNat ++ toBytes 4 (s.get CTL_FW_STATUS.VERSION)
            ++ toBytes 1 (s.get CTL_FW_STATUS.SVN) ++ toBytes 3 0),
          (.status x [], toBytes 8 (hostWord s)), (.telem x [], toBytes 8 (regValue s 0xC00008)),
          (.temp x [], toBytes 8 (regValue s 0xC00018)), (.energy x [], toBytes 8 (regValue s 0xC00010)),
          (.stages x [], toBytes 8 (regValue s 0xC00090)), (.position x [], toBytes 8 (regValue s 0x500008)),
          (.alert x [], toBytes 8 (regValue s 0xC00040)), (.cause x [], toBytes 8 (regValue s 0xC00028))] →
        Answers c s fun t => t = { s with host := { s.host with reply := bs.take s.host.mrl } })
      ∧ (∀ data c off, data.length = 8 → (c = .alert x data ∧ off = 0xC00040 ∨ c = .cause x data ∧ off = 0xC00028) →
        Answers c s fun t =>
          t = { s with regs := t.regs, host := t.host } ∧ RegsKept (regFields groups off) s t
          ∧ ∀ f ∈ regFields groups off, f.acc = .w1c → t.get f = s.get f &&& (2 ^ f.width - 1 - bits (ofBytes data) f.lsb f.width))
      ∧ (Answers (.reset x [0xA5]) s fun t =>
          t.image = none ∧ t.seqs = Vector.replicate 4 .reset ∧ t.ctl.journal = s.ctl.journal
          ∧ bit (t.get PWR_RESET_CAUSE.CAUSE) 5 = true)
      ∧ (∀ data : List Byte, data.length ≤ 1 → data ≠ [0xA5] → Answers (.reset x data) s fun t => t = { s with host := { s.host with reply := [] } }))
    ∧ (∀ (x : MgmtAccess) (data : List Byte) c,
      answersAt s x.addr.toNat = true ∧ (x.parity = true ∨ x.unknown = true) ∧ c ∈ [Instr.status x data, .ident x data, .telem x data, .temp x data,
          .energy x data, .stages x data, .position x data, .alert x data, .cause x data, .reset x data]
        ∨ answersAt s x.addr.toNat = true ∧ data ≠ [] ∧ c ∈ [Instr.status x data, .ident x data, .telem x data, .temp x data, .energy x data,
          .stages x data, .position x data]
        ∨ answersAt s x.addr.toNat = true ∧ data ≠ [] ∧ data.length ≠ 8 ∧ c ∈ [Instr.alert x data, .cause x data]
        ∨ answersAt s x.addr.toNat = true ∧ 2 ≤ data.length ∧ c = .reset x data
        ∨ c ∈ [Instr.rstdaa true, .getpid true, .getbcr true, .getdcr true, .getstatus true, .getmwl true, .getmrl true]
        ∨ (∃ a b won e limit, c ∈ [Instr.setdasa true a b, .entdaa true won a, .enec true e, .disec true e, .setmwl true limit, .setmrl true limit]) →
      Answers c s fun t =>
        t = { s with regs := t.regs, host := { s.host with reply := [] } } ∧ Counted HST_I3C_ERR_CNT 1 s t
        ∧ RegsKept (counterFields HST_I3C_ERR_CNT) s t)
    ∧ (∀ (addr dyn : BitVec 7) won, (addr.toNat ≠ s.get HST_I3C.SADDR ∨ s.get HST_I3C.DVALID ≠ 0 → Answers (.setdasa false addr dyn) s fun t => t = s)
      ∧ (s.flag HST_I3C.DVALID = true → Answers (.entdaa false won dyn) s fun t => t = s)
      ∧ (s.flag HST_I3C.DVALID = false → Answers (.entdaa false false dyn) s fun t =>
        t = { s with host := { s.host with reply := provisioned ++ [bcr, Config.i3cDcr] } }))
    ∧ (∀ events : BitVec 8, bit events.toNat 0 = false →
      Answers (.enec false events) s (fun t => t = s) ∧ Answers (.disec false events) s fun t => t = s)
    ∧ (∀ (addr dyn : BitVec 7),
      (addr.toNat = s.get HST_I3C.SADDR → s.get HST_I3C.DVALID = 0 → Answers (.setdasa false addr dyn) s fun t =>
        t = { s with regs := t.regs } ∧ t.get HST_I3C.DADDR = dyn.toNat ∧ t.get HST_I3C.DVALID = 1
        ∧ RegsKept [HST_I3C.DADDR, HST_I3C.DVALID] s t)
      ∧ (s.get HST_I3C.DVALID = 0 → Answers (.entdaa false true dyn) s fun t =>
        t.get HST_I3C.DADDR = dyn.toNat ∧ t.get HST_I3C.DVALID = 1 ∧ t.host.reply = provisioned ++ [bcr, Config.i3cDcr]
        ∧ t.mem = s.mem))
    ∧ (Answers (.rstdaa false) s fun t =>
        t = { s with regs := t.regs } ∧ t.get HST_I3C.DVALID = 0 ∧ RegsKept [HST_I3C.DADDR, HST_I3C.DVALID] s t)
    ∧ (∀ events : BitVec 8, bit events.toNat 0 = true →
      (Answers (.enec false events) s fun t => t = s.set HST_I3C.IBI_EN 1)
      ∧ (Answers (.disec false events) s fun t => t = s.set HST_I3C.IBI_EN 0))
    ∧ (∀ c bs, (c, bs) ∈ [(Instr.getpid false, provisioned), (.getbcr false, [bcr]), (.getdcr false, [Config.i3cDcr]),
        (.getmwl false, (toBytes 2 s.host.mwl).reverse), (.getmrl false, (toBytes 2 s.host.mrl).reverse ++ [1])] →
      Answers c s fun t => t = { s with host := { s.host with reply := bs } })
    ∧ (Answers (.getstatus false) s fun t => t.host.reply.length = 2 ∧ t = { s with host := t.host, free := s.free + 1 })
    ∧ (∀ limit : BitVec 16,
      (Answers (.setmwl false limit) s fun t => t = { s with host := { s.host with mwl := limit.toNat } })
      ∧ (Answers (.setmrl false limit) s fun t => t = { s with host := { s.host with mrl := limit.toNat } }))
    ∧ (alertCond s = true → s.host.alert = false → mayInterrupt s = true →
      (Answers (.inBandInterrupt true) s fun t =>
        t = { s with host := { s.host with alert := true, ibi := none, reply := toBytes 1 (regValue s 0xC00040) } })
      ∧ (Answers (.inBandInterrupt false) s fun t => t = { s with host := { s.host with alert := true, ibi := some 3 } }))
    ∧ (∀ left, s.host.ibi = some left → mayInterrupt s = true →
      (Answers (.ibiRetry true) s fun t =>
        t = { s with host := { s.host with ibi := none, reply := toBytes 1 (regValue s 0xC00040) } })
      ∧ (Answers (.ibiRetry false) s fun t =>
        t = { s with host := { s.host with ibi := if left ≤ 1 then none else some (left - 1) } }))

/-- RUN_ARM, RUN_STOP, SAMPLE_TAKE, RING_BURST_WRITE and RING_BURST_ACCEPT (R535 to R545): a start that R539 does not refuse arms the sampler, ending what ran; a stop writes and accepts what is left; a sample that falls due takes one record, of 64 or 512 bytes, or is dropped and counted;
2 KiB of records are written at the ring's next place, and at its end writing goes on from its start or stops; and an accepted burst is counted and moves the head. A sampler that does not run, or that need not sample, takes nothing.
The model's own choices in it: log entries 132, 133. -/
def Obligations.TheSamplerTakesEffect : Prop :=
  (∀ (s : State) (p : Probe), (record s p).length = if s.obs.full then 512 else 64)
  ∧ (∀ (s : State),
    (∀ u, u = stopSampler (s.set OBS_STATUS.CODE (runCode s)) →
      (runCode s = 0 → Answers .runArm s fun t =>
        t.get OBS_CTL.RUN = 1 ∧ t.get OBS_STATUS.ARMED = 1 ∧ t.get OBS_STATUS.FULL = 0 ∧ t.get OBS_STATUS.CODE = 0
        ∧ t.get OBS_RING_HEAD.NEXT = 0 ∧ t.get OBS_RING_HEAD.WRAPPED = 0 ∧ t.mem = u.mem
        ∧ t.obs = {
          period := max 1 (s.get OBS_CFG.PERIOD), full := s.flag OBS_CFG.KIND, align := s.flag OBS_CFG.ALIGN, wrap := s.flag OBS_CFG.WRAP
          tag := s.get OBS_RING.TAG, base := s.get OBS_RING.BASE, size := s.get OBS_RING.SIZE, seqnum := 0, staging := [], bursts := []
          next := 0, armTick := s.tick, phase := 0 })
      ∧ (runCode s ≠ 0 → Answers .runArm s fun t =>
        t.get OBS_CTL.RUN = 0 ∧ t.get OBS_STATUS.CODE = runCode s ∧ Counted OBS_REFUSED_CNT 1 s t ∧ t.mem = u.mem ∧ t.obs = u.obs))
    ∧ (s.get OBS_CTL.RUN = 0 → Answers .runStop s fun t => t = s)
    ∧ (s.get OBS_CTL.RUN ≠ 0 → Answers .runStop s fun t =>
      t.get OBS_CTL.RUN = 0 ∧ t.get OBS_STATUS.ARMED = 0 ∧ t.get OBS_STATUS.SAMPLING = 0 ∧ t.obs.bursts = []
      ∧ (s.obs.staging.length ≤ (if s.obs.full then 8 else 64) → t.obs.staging = [])
      ∧ (s.obs.staging = [] → t.mem = s.mem)
      ∧ (s.obs.staging = [] → s.obs.bursts = [] → t = { s with regs := t.regs }
        ∧ RegsKept [OBS_CTL.RUN, OBS_STATUS.ARMED, OBS_STATUS.SAMPLING] s t))
    ∧ (∀ (cycles : BitVec 32) (p : Probe) size, size = (if s.obs.full then 512 else 64) → Answers (.sampleTake cycles p) s fun t =>
        Counted (OBS_AON.COUNT 0) cycles.toNat s t ∧ t.mem = s.mem
        ∧ t.obs.phase = (if s.flag OBS_STATUS.ARMED then 0 else (s.obs.phase + cycles.toNat) % s.obs.period)
        ∧ (s.get OBS_CTL.RUN = 0 ∨ 1 ≤ s.get PWR_STATUS.STAGE
            ∨ (if s.flag OBS_STATUS.ARMED then mayBegin s = false else s.obs.phase + cycles.toNat < s.obs.period) →
          t = { s with regs := t.regs, obs := { s.obs with phase := t.obs.phase } } ∧ RegsKept [OBS_AON.COUNT 0] s t)
        ∧ (s.get OBS_CTL.RUN ≠ 0 → s.get PWR_STATUS.STAGE = 0 →
            (if s.flag OBS_STATUS.ARMED then mayBegin s = true else s.obs.period ≤ s.obs.phase + cycles.toNat) →
          t.obs.seqnum = s.obs.seqnum + 1 ∧ t.get OBS_STATUS.ARMED = 0 ∧ t.get OBS_STATUS.SAMPLING = 1
          ∧ ((s.obs.staging.length + 1) * size ≤ 4096 → ∃ r, t.obs.staging = s.obs.staging ++ [r] ∧ r.length = size
              ∧ ofBytes (r.take 8) = s.tick % 2 ^ 64)
          ∧ (4096 < (s.obs.staging.length + 1) * size → t.obs.staging = s.obs.staging ∧ Counted OBS_DROP_CNT 1 s t)))
    ∧ (s.get OBS_CTL.RUN = 0 ∨ (stagedBurst s).1.flatten.length < 2048 → Answers .ringBurstWrite s fun t => t = s)
    ∧ (∀ (u w : State) (b : List (List Byte) × List (List Byte)) next, s.get OBS_CTL.RUN ≠ 0 → b = stagedBurst s →
      2048 ≤ b.1.flatten.length → u = { s with obs := { s.obs with staging := b.2 } }.inOp 6 →
      w = tagWrite u (streamChan u s.obs.tag) (Int.ofNat (s.obs.base * 4096 + s.obs.next * 64)) b.1.flatten →
      next = s.obs.next + b.1.flatten.length / 64 →
      ((tagEntry s s.obs.tag).allows true (Int.ofNat (s.obs.base * 4096 + s.obs.next * 64)) b.1.flatten.length = false →
        s.obs.wrap = true ∨ s.obs.next < s.obs.size * 64 → Answers .ringBurstWrite s fun t => t = w ∧ t.mem = s.mem)
      ∧ ((tagEntry s s.obs.tag).allows true (Int.ofNat (s.obs.base * 4096 + s.obs.next * 64)) b.1.flatten.length = true →
      (next < s.obs.size * 64 → Answers .ringBurstWrite s fun t =>
        t = { w with obs := { w.obs with next := next, bursts := s.obs.bursts ++ [(b.1.length, next, false)] } })
      ∧ (s.obs.size * 64 ≤ next → s.obs.wrap = true → Answers .ringBurstWrite s fun t =>
        t = { w with obs := { w.obs with next := 0, bursts := s.obs.bursts ++ [(b.1.length, 0, true)] } })
      ∧ (s.obs.size * 64 ≤ next → s.obs.wrap = false → Answers .ringBurstWrite s fun t =>
        t.get OBS_STATUS.FULL = 1 ∧ t.get OBS_CTL.RUN = 0 ∧ t.get OBS_STATUS.ARMED = 0 ∧ t.obs.bursts = [] ∧ t.mem = w.mem)))
    ∧ (s.obs.bursts = [] → Answers .ringBurstAccept s fun t => t = s)
    ∧ (∀ n place wrapped rest, s.obs.bursts = (n, place, wrapped) :: rest → Answers .ringBurstAccept s fun t =>
      t = { s with regs := t.regs, obs := { s.obs with bursts := rest } } ∧ Counted OBS_SAMPLE_CNT n s t
      ∧ t.get OBS_RING_HEAD.NEXT = place % 2 ^ OBS_RING_HEAD.NEXT.width
      ∧ t.get OBS_RING_HEAD.WRAPPED = (if wrapped then 1 else s.get OBS_RING_HEAD.WRAPPED)
      ∧ RegsKept (OBS_RING_HEAD.NEXT :: OBS_RING_HEAD.WRAPPED :: counterFields OBS_SAMPLE_CNT) s t))

/-! Values of their own: formats, rounding, reset (02, the register tables). -/

/-- The number formats (R42 to R44, R52): the value of a bit pattern goes back into the same pattern, whatever the rounding; of W48, which has no subnormal values, a pattern with a
zero exponent field has to have a zero fraction.
Rounding to a multiple of a power of two (R62, R63): nearest is within half of it and even at a tie, toward zero is the largest multiple that the magnitude reaches, and
stochastic is one of the two neighbours, rounds up for as many of the 65536 random numbers as the discarded bits say, and leaves an exact value alone.
The model's own choices in it: log entry 30. -/
def Obligations.FormatsAndRoundingsAreCorrect : Prop :=
  (∀ (f : FpFmt) (c : Cvt) (r w : Nat),
    f ∈ [FpFmt.binary32, .binary16, .bf16, .e4m3, .e5m2, .e2m3, .e3m2, .e2m1, .w48] → w < 2 ^ (1 + f.eb + f.mb) →
    (f.decode w).isNan = false → (f.subnormals = true ∨ bits w f.mb f.eb ≠ 0 ∨ bits w 0 f.mb = 0) →
    (f.encode c r (f.decode w)).1 = w)
  ∧ (∀ (m : Nat) (e : Int) (d : Nat),
    (∀ (rm : RMode) (r : Nat), roundMag rm r m e (e - d) = m * 2 ^ d)
    ∧ (∀ r n, n = roundMag .nearest r m e (e + d) → 0 < d →
        2 * m ≤ (2 * n + 1) * 2 ^ d ∧ 2 * n * 2 ^ d ≤ 2 * m + 2 ^ d
        ∧ (2 * m = (2 * n + 1) * 2 ^ d ∨ 2 * n * 2 ^ d = 2 * m + 2 ^ d → n % 2 = 0))
    ∧ (∀ r n, n = roundMag .zero r m e (e + d) → n * 2 ^ d ≤ m ∧ m < (n + 1) * 2 ^ d)
    ∧ (∀ r n, n = roundMag .stochastic r m e (e + d) → r < 65536 →
        (n = m / 2 ^ d ∨ n = m / 2 ^ d + 1) ∧ (m % 2 ^ d = 0 → n * 2 ^ d = m))
    ∧ (0 < d → d ≤ 16 →
        ((List.range 65536).filter fun r => decide (m / 2 ^ d < roundMag .stochastic r m e (e + d))).length * 2 ^ d
          = (m % 2 ^ d) * 65536))

/-- The fields for which the register tables state a value at reset that is not zero hold it; no register holds anything else, no command waits, memory reads zero
(log entry 1), no slot is in use, and nothing runs.
The model's own choices in it: log entry 29. -/
def Obligations.ResetHoldsTheStatedValues : Prop :=
  (∀ p ∈ [
      (CTL_STATUS.SLOT, 0xFF), (DNS_STATUS.IN_SERVICE, 4), (DNS_CHECK_CFG.TOL_SHIFT, 0x1A), (DNS_CHECK_CFG.SUSPECT_CLEAR, 0x14),
      (DRV_ROUTE_CFG.ALLOC_WAIT, 0x10), (DRV_ROUTE_CFG.SHUF_SHARE, 1), (TAG_SLOT_TIMEOUT.DEFAULT, 0x1000), (MEM_PF_CFG.DEPTH, 0x10),
      (MEM_PF_CFG.MAX_STRIDE, 0x400), (MEM_PF_CFG.IDLE, 0x40), (LNK_ID.ID, 0xFFFF), (LNK_ID.POSITION, 0xFFFF), (LNK_CFG.GRACE, 8),
      (LNK_CFG.CENSUS_WAIT, 0x32), (LNK_CFG.WIN_TIMEOUT, 0x3E8), (LNK_CENSUS_STATUS.FIRST_BAD, 0xFFFF), (RED_CFG.MARGIN, 1),
      (RED_CFG.HOP_TICKS, 0x14), (RED_CFG.RESULT_WAIT, 0x1388), (RED_ADJ_CFG.UP, 0x200), (RED_ADJ_CFG.DOWN, 0x40),
      (RED_ADJ_CFG.TARGET, 0x2710), (RED_ADJ_CFG.CALM, 8), (ING_CFG.AHEAD, 1), (ING_CFG.READ_SIZE, 4), (ING_CFG.PIPES, 0x30),
      (CAD_CFG.TC_PERIOD, 0x10000), (CAD_CFG.VETO_MAX, 0x400), (CAD_BUDGET.BUDGET_W, 0x514), (CAD_BUDGET.CAP_MJ, 0x7D0),
      (CAD_THERM_CFG.T_LIMIT, 0x5F), (CAD_THERM_CFG.HR_HIGH, 0xA), (CAD_THERM_CFG.HR_LOW, 3), (CAD_PRED.K, 0x1000), (FLT_ATTN_EN.LOCKUP, 1),
      (FLT_ATTN_EN.LOST, 1), (FLT_ATTN_EN.STOPPED, 1), (FLT_ATTN_EN.STANDDOWN, 1), (FLT_ATTN_EN.ADOPTED, 1), (FLT_ATTN_EN.DATA_LOST, 1),
      (FLT_ATTN_EN.PANEL_RETIRED, 1), (FLT_ATTN_EN.RETIRE_FULL, 1), (FLT_ATTN_EN.LOG_DROP, 1), (FLT_ATTN_EN.QUEUE_DROP, 1),
      (FLT_WDOG.PERIOD, 0x64), (OBS_CFG.PERIOD, 0x400), (OBS_CFG.WRAP, 1), (PWR_OPT.ID, 0xFFFF), (PWR_OPT.I3C_ADDR, 0x5F),
      (PWR_OPT.DEFAULT_EN, 1), (PWR_OPT.FLASH_BOOT, 1), (PWR_OPT.PINS, 0xFF), (PWR_RESET_CAUSE.CAUSE, 1), (PWR_ALERT_CFG.VIN_LOW, 0xC738),
      (PWR_ALERT_CFG.PIN_HIGH, 0x546), (PWR_ALERT_CFG.TEMP_HIGH, 0x64), (PWR_ALERT_CFG.ENABLE, 1), (PWR_ALERT_FLAGS.RESET, 1),
      (HST_CFG.HOLDOFF, 0x64), (HST_CFG.MIRROR_GAP, 0x64), (HST_I3C.SADDR, 0x5F)],
    State.reset.get p.1 = p.2)
  ∧ (∀ n : Fin 16, State.reset.get (LNK_P_STATUS.NEIGHBOUR n) = 0xFFFF)
  ∧ (∀ f : Field, State.reset.get f = f.reset)
  ∧ (∀ a, byteAt State.reset a = 0)
  ∧ (∀ q, (State.reset.seqr q).running = false) ∧ State.reset.pending = [] ∧ State.reset.slots = []
end

