-- ==== Sys2Proof/Laws/State.lean ====
section
/-!
SUPPORT. Laws/State.lean: what the named updates of State leave as it was, one lemma for each field, so that no proof unfolds a record update; and
what a register field reads after one is set.
-/

namespace Sys2Proof.Machine

/-! `State.set`. -/

@[simp] theorem State.set_pending (s : State) (f : Field) (v : Nat) : (s.set f v).pending = s.pending := rfl
@[simp] theorem State.set_latched (s : State) (f : Field) (v : Nat) : (s.set f v).latched = s.latched := rfl
@[simp] theorem State.set_mem (s : State) (f : Field) (v : Nat) : (s.set f v).mem = s.mem := rfl
@[simp] theorem State.set_slots (s : State) (f : Field) (v : Nat) : (s.set f v).slots = s.slots := rfl
@[simp] theorem State.set_descs (s : State) (f : Field) (v : Nat) : (s.set f v).descs = s.descs := rfl
@[simp] theorem State.set_commits (s : State) (f : Field) (v : Nat) : (s.set f v).commits = s.commits := rfl
@[simp] theorem State.set_commitNow (s : State) (f : Field) (v : Nat) : (s.set f v).commitNow = s.commitNow := rfl
@[simp] theorem State.set_hookTable (s : State) (f : Field) (v : Nat) : (s.set f v).hookTable = s.hookTable := rfl
@[simp] theorem State.set_memory (s : State) (f : Field) (v : Nat) : (s.set f v).memory = s.memory := rfl
@[simp] theorem State.set_seqs (s : State) (f : Field) (v : Nat) : (s.set f v).seqs = s.seqs := rfl
@[simp] theorem State.set_dense (s : State) (f : Field) (v : Nat) : (s.set f v).dense = s.dense := rfl
@[simp] theorem State.set_drv (s : State) (f : Field) (v : Nat) : (s.set f v).drv = s.drv := rfl
@[simp] theorem State.set_lnk (s : State) (f : Field) (v : Nat) : (s.set f v).lnk = s.lnk := rfl
@[simp] theorem State.set_cad (s : State) (f : Field) (v : Nat) : (s.set f v).cad = s.cad := rfl
@[simp] theorem State.set_xfers (s : State) (f : Field) (v : Nat) : (s.set f v).xfers = s.xfers := rfl
@[simp] theorem State.set_unwaited (s : State) (f : Field) (v : Nat) : (s.set f v).unwaited = s.unwaited := rfl
@[simp] theorem State.set_reduces (s : State) (f : Field) (v : Nat) : (s.set f v).reduces = s.reduces := rfl
@[simp] theorem State.set_red (s : State) (f : Field) (v : Nat) : (s.set f v).red = s.red := rfl
@[simp] theorem State.set_image (s : State) (f : Field) (v : Nat) : (s.set f v).image = s.image := rfl
@[simp] theorem State.set_step (s : State) (f : Field) (v : Nat) : (s.set f v).step = s.step := rfl
@[simp] theorem State.set_logIn (s : State) (f : Field) (v : Nat) : (s.set f v).logIn = s.logIn := rfl
@[simp] theorem State.set_flt (s : State) (f : Field) (v : Nat) : (s.set f v).flt = s.flt := rfl
@[simp] theorem State.set_ctl (s : State) (f : Field) (v : Nat) : (s.set f v).ctl = s.ctl := rfl
@[simp] theorem State.set_pwr (s : State) (f : Field) (v : Nat) : (s.set f v).pwr = s.pwr := rfl
@[simp] theorem State.set_ing (s : State) (f : Field) (v : Nat) : (s.set f v).ing = s.ing := rfl
@[simp] theorem State.set_host (s : State) (f : Field) (v : Nat) : (s.set f v).host = s.host := rfl
@[simp] theorem State.set_obs (s : State) (f : Field) (v : Nat) : (s.set f v).obs = s.obs := rfl
@[simp] theorem State.set_genLanes (s : State) (f : Field) (v : Nat) : (s.set f v).genLanes = s.genLanes := rfl
@[simp] theorem State.set_ctx (s : State) (f : Field) (v : Nat) : (s.set f v).ctx = s.ctx := rfl
@[simp] theorem State.set_opCount (s : State) (f : Field) (v : Nat) : (s.set f v).opCount = s.opCount := rfl
@[simp] theorem State.set_once (s : State) (f : Field) (v : Nat) : (s.set f v).once = s.once := rfl
@[simp] theorem State.set_patrol (s : State) (f : Field) (v : Nat) : (s.set f v).patrol = s.patrol := rfl
@[simp] theorem State.set_upsets (s : State) (f : Field) (v : Nat) : (s.set f v).upsets = s.upsets := rfl
@[simp] theorem State.set_free (s : State) (f : Field) (v : Nat) : (s.set f v).free = s.free := rfl

/-! `State.setFlag`. -/

@[simp] theorem State.setFlag_pending (s : State) (f : Field) (b : Bool) : (s.setFlag f b).pending = s.pending := rfl
@[simp] theorem State.setFlag_latched (s : State) (f : Field) (b : Bool) : (s.setFlag f b).latched = s.latched := rfl
@[simp] theorem State.setFlag_mem (s : State) (f : Field) (b : Bool) : (s.setFlag f b).mem = s.mem := rfl
@[simp] theorem State.setFlag_slots (s : State) (f : Field) (b : Bool) : (s.setFlag f b).slots = s.slots := rfl
@[simp] theorem State.setFlag_descs (s : State) (f : Field) (b : Bool) : (s.setFlag f b).descs = s.descs := rfl
@[simp] theorem State.setFlag_commits (s : State) (f : Field) (b : Bool) : (s.setFlag f b).commits = s.commits := rfl
@[simp] theorem State.setFlag_commitNow (s : State) (f : Field) (b : Bool) : (s.setFlag f b).commitNow = s.commitNow := rfl
@[simp] theorem State.setFlag_hookTable (s : State) (f : Field) (b : Bool) : (s.setFlag f b).hookTable = s.hookTable := rfl
@[simp] theorem State.setFlag_memory (s : State) (f : Field) (b : Bool) : (s.setFlag f b).memory = s.memory := rfl
@[simp] theorem State.setFlag_seqs (s : State) (f : Field) (b : Bool) : (s.setFlag f b).seqs = s.seqs := rfl
@[simp] theorem State.setFlag_dense (s : State) (f : Field) (b : Bool) : (s.setFlag f b).dense = s.dense := rfl
@[simp] theorem State.setFlag_drv (s : State) (f : Field) (b : Bool) : (s.setFlag f b).drv = s.drv := rfl
@[simp] theorem State.setFlag_lnk (s : State) (f : Field) (b : Bool) : (s.setFlag f b).lnk = s.lnk := rfl
@[simp] theorem State.setFlag_cad (s : State) (f : Field) (b : Bool) : (s.setFlag f b).cad = s.cad := rfl
@[simp] theorem State.setFlag_xfers (s : State) (f : Field) (b : Bool) : (s.setFlag f b).xfers = s.xfers := rfl
@[simp] theorem State.setFlag_unwaited (s : State) (f : Field) (b : Bool) : (s.setFlag f b).unwaited = s.unwaited := rfl
@[simp] theorem State.setFlag_reduces (s : State) (f : Field) (b : Bool) : (s.setFlag f b).reduces = s.reduces := rfl
@[simp] theorem State.setFlag_red (s : State) (f : Field) (b : Bool) : (s.setFlag f b).red = s.red := rfl
@[simp] theorem State.setFlag_image (s : State) (f : Field) (b : Bool) : (s.setFlag f b).image = s.image := rfl
@[simp] theorem State.setFlag_step (s : State) (f : Field) (b : Bool) : (s.setFlag f b).step = s.step := rfl
@[simp] theorem State.setFlag_logIn (s : State) (f : Field) (b : Bool) : (s.setFlag f b).logIn = s.logIn := rfl
@[simp] theorem State.setFlag_flt (s : State) (f : Field) (b : Bool) : (s.setFlag f b).flt = s.flt := rfl
@[simp] theorem State.setFlag_ctl (s : State) (f : Field) (b : Bool) : (s.setFlag f b).ctl = s.ctl := rfl
@[simp] theorem State.setFlag_pwr (s : State) (f : Field) (b : Bool) : (s.setFlag f b).pwr = s.pwr := rfl
@[simp] theorem State.setFlag_ing (s : State) (f : Field) (b : Bool) : (s.setFlag f b).ing = s.ing := rfl
@[simp] theorem State.setFlag_host (s : State) (f : Field) (b : Bool) : (s.setFlag f b).host = s.host := rfl
@[simp] theorem State.setFlag_obs (s : State) (f : Field) (b : Bool) : (s.setFlag f b).obs = s.obs := rfl
@[simp] theorem State.setFlag_genLanes (s : State) (f : Field) (b : Bool) : (s.setFlag f b).genLanes = s.genLanes := rfl
@[simp] theorem State.setFlag_ctx (s : State) (f : Field) (b : Bool) : (s.setFlag f b).ctx = s.ctx := rfl
@[simp] theorem State.setFlag_opCount (s : State) (f : Field) (b : Bool) : (s.setFlag f b).opCount = s.opCount := rfl
@[simp] theorem State.setFlag_once (s : State) (f : Field) (b : Bool) : (s.setFlag f b).once = s.once := rfl
@[simp] theorem State.setFlag_patrol (s : State) (f : Field) (b : Bool) : (s.setFlag f b).patrol = s.patrol := rfl
@[simp] theorem State.setFlag_upsets (s : State) (f : Field) (b : Bool) : (s.setFlag f b).upsets = s.upsets := rfl
@[simp] theorem State.setFlag_free (s : State) (f : Field) (b : Bool) : (s.setFlag f b).free = s.free := rfl

/-! `State.attend`. -/

@[simp] theorem State.attend_pending (s : State) (b : Nat) : (s.attend b).pending = s.pending := rfl
@[simp] theorem State.attend_latched (s : State) (b : Nat) : (s.attend b).latched = s.latched := rfl
@[simp] theorem State.attend_mem (s : State) (b : Nat) : (s.attend b).mem = s.mem := rfl
@[simp] theorem State.attend_slots (s : State) (b : Nat) : (s.attend b).slots = s.slots := rfl
@[simp] theorem State.attend_descs (s : State) (b : Nat) : (s.attend b).descs = s.descs := rfl
@[simp] theorem State.attend_commits (s : State) (b : Nat) : (s.attend b).commits = s.commits := rfl
@[simp] theorem State.attend_commitNow (s : State) (b : Nat) : (s.attend b).commitNow = s.commitNow := rfl
@[simp] theorem State.attend_hookTable (s : State) (b : Nat) : (s.attend b).hookTable = s.hookTable := rfl
@[simp] theorem State.attend_memory (s : State) (b : Nat) : (s.attend b).memory = s.memory := rfl
@[simp] theorem State.attend_seqs (s : State) (b : Nat) : (s.attend b).seqs = s.seqs := rfl
@[simp] theorem State.attend_dense (s : State) (b : Nat) : (s.attend b).dense = s.dense := rfl
@[simp] theorem State.attend_drv (s : State) (b : Nat) : (s.attend b).drv = s.drv := rfl
@[simp] theorem State.attend_lnk (s : State) (b : Nat) : (s.attend b).lnk = s.lnk := rfl
@[simp] theorem State.attend_cad (s : State) (b : Nat) : (s.attend b).cad = s.cad := rfl
@[simp] theorem State.attend_xfers (s : State) (b : Nat) : (s.attend b).xfers = s.xfers := rfl
@[simp] theorem State.attend_unwaited (s : State) (b : Nat) : (s.attend b).unwaited = s.unwaited := rfl
@[simp] theorem State.attend_reduces (s : State) (b : Nat) : (s.attend b).reduces = s.reduces := rfl
@[simp] theorem State.attend_red (s : State) (b : Nat) : (s.attend b).red = s.red := rfl
@[simp] theorem State.attend_image (s : State) (b : Nat) : (s.attend b).image = s.image := rfl
@[simp] theorem State.attend_step (s : State) (b : Nat) : (s.attend b).step = s.step := rfl
@[simp] theorem State.attend_logIn (s : State) (b : Nat) : (s.attend b).logIn = s.logIn := rfl
@[simp] theorem State.attend_flt (s : State) (b : Nat) : (s.attend b).flt = s.flt := rfl
@[simp] theorem State.attend_ctl (s : State) (b : Nat) : (s.attend b).ctl = s.ctl := rfl
@[simp] theorem State.attend_pwr (s : State) (b : Nat) : (s.attend b).pwr = s.pwr := rfl
@[simp] theorem State.attend_ing (s : State) (b : Nat) : (s.attend b).ing = s.ing := rfl
@[simp] theorem State.attend_host (s : State) (b : Nat) : (s.attend b).host = s.host := rfl
@[simp] theorem State.attend_obs (s : State) (b : Nat) : (s.attend b).obs = s.obs := rfl
@[simp] theorem State.attend_genLanes (s : State) (b : Nat) : (s.attend b).genLanes = s.genLanes := rfl
@[simp] theorem State.attend_ctx (s : State) (b : Nat) : (s.attend b).ctx = s.ctx := rfl
@[simp] theorem State.attend_opCount (s : State) (b : Nat) : (s.attend b).opCount = s.opCount := rfl
@[simp] theorem State.attend_once (s : State) (b : Nat) : (s.attend b).once = s.once := rfl
@[simp] theorem State.attend_patrol (s : State) (b : Nat) : (s.attend b).patrol = s.patrol := rfl
@[simp] theorem State.attend_upsets (s : State) (b : Nat) : (s.attend b).upsets = s.upsets := rfl
@[simp] theorem State.attend_free (s : State) (b : Nat) : (s.attend b).free = s.free := rfl

/-! `State.inOp`. -/

@[simp] theorem State.inOp_pending (s : State) (c : Nat) : (s.inOp c).pending = s.pending := rfl
@[simp] theorem State.inOp_regs (s : State) (c : Nat) : (s.inOp c).regs = s.regs := rfl
@[simp] theorem State.inOp_latched (s : State) (c : Nat) : (s.inOp c).latched = s.latched := rfl
@[simp] theorem State.inOp_mem (s : State) (c : Nat) : (s.inOp c).mem = s.mem := rfl
@[simp] theorem State.inOp_slots (s : State) (c : Nat) : (s.inOp c).slots = s.slots := rfl
@[simp] theorem State.inOp_descs (s : State) (c : Nat) : (s.inOp c).descs = s.descs := rfl
@[simp] theorem State.inOp_commits (s : State) (c : Nat) : (s.inOp c).commits = s.commits := rfl
@[simp] theorem State.inOp_commitNow (s : State) (c : Nat) : (s.inOp c).commitNow = s.commitNow := rfl
@[simp] theorem State.inOp_hookTable (s : State) (c : Nat) : (s.inOp c).hookTable = s.hookTable := rfl
@[simp] theorem State.inOp_memory (s : State) (c : Nat) : (s.inOp c).memory = s.memory := rfl
@[simp] theorem State.inOp_seqs (s : State) (c : Nat) : (s.inOp c).seqs = s.seqs := rfl
@[simp] theorem State.inOp_dense (s : State) (c : Nat) : (s.inOp c).dense = s.dense := rfl
@[simp] theorem State.inOp_drv (s : State) (c : Nat) : (s.inOp c).drv = s.drv := rfl
@[simp] theorem State.inOp_lnk (s : State) (c : Nat) : (s.inOp c).lnk = s.lnk := rfl
@[simp] theorem State.inOp_cad (s : State) (c : Nat) : (s.inOp c).cad = s.cad := rfl
@[simp] theorem State.inOp_xfers (s : State) (c : Nat) : (s.inOp c).xfers = s.xfers := rfl
@[simp] theorem State.inOp_unwaited (s : State) (c : Nat) : (s.inOp c).unwaited = s.unwaited := rfl
@[simp] theorem State.inOp_reduces (s : State) (c : Nat) : (s.inOp c).reduces = s.reduces := rfl
@[simp] theorem State.inOp_red (s : State) (c : Nat) : (s.inOp c).red = s.red := rfl
@[simp] theorem State.inOp_image (s : State) (c : Nat) : (s.inOp c).image = s.image := rfl
@[simp] theorem State.inOp_step (s : State) (c : Nat) : (s.inOp c).step = s.step := rfl
@[simp] theorem State.inOp_logIn (s : State) (c : Nat) : (s.inOp c).logIn = s.logIn := rfl
@[simp] theorem State.inOp_flt (s : State) (c : Nat) : (s.inOp c).flt = s.flt := rfl
@[simp] theorem State.inOp_ctl (s : State) (c : Nat) : (s.inOp c).ctl = s.ctl := rfl
@[simp] theorem State.inOp_pwr (s : State) (c : Nat) : (s.inOp c).pwr = s.pwr := rfl
@[simp] theorem State.inOp_ing (s : State) (c : Nat) : (s.inOp c).ing = s.ing := rfl
@[simp] theorem State.inOp_host (s : State) (c : Nat) : (s.inOp c).host = s.host := rfl
@[simp] theorem State.inOp_obs (s : State) (c : Nat) : (s.inOp c).obs = s.obs := rfl
@[simp] theorem State.inOp_genLanes (s : State) (c : Nat) : (s.inOp c).genLanes = s.genLanes := rfl
@[simp] theorem State.inOp_opCount (s : State) (c : Nat) : (s.inOp c).opCount = s.opCount := rfl
@[simp] theorem State.inOp_once (s : State) (c : Nat) : (s.inOp c).once = s.once := rfl
@[simp] theorem State.inOp_patrol (s : State) (c : Nat) : (s.inOp c).patrol = s.patrol := rfl
@[simp] theorem State.inOp_upsets (s : State) (c : Nat) : (s.inOp c).upsets = s.upsets := rfl
@[simp] theorem State.inOp_free (s : State) (c : Nat) : (s.inOp c).free = s.free := rfl

/-! `State.newOp`. -/

@[simp] theorem State.newOp_pending (s : State) (c : Nat) : (s.newOp c).pending = s.pending := rfl
@[simp] theorem State.newOp_regs (s : State) (c : Nat) : (s.newOp c).regs = s.regs := rfl
@[simp] theorem State.newOp_latched (s : State) (c : Nat) : (s.newOp c).latched = s.latched := rfl
@[simp] theorem State.newOp_mem (s : State) (c : Nat) : (s.newOp c).mem = s.mem := rfl
@[simp] theorem State.newOp_slots (s : State) (c : Nat) : (s.newOp c).slots = s.slots := rfl
@[simp] theorem State.newOp_descs (s : State) (c : Nat) : (s.newOp c).descs = s.descs := rfl
@[simp] theorem State.newOp_commits (s : State) (c : Nat) : (s.newOp c).commits = s.commits := rfl
@[simp] theorem State.newOp_commitNow (s : State) (c : Nat) : (s.newOp c).commitNow = s.commitNow := rfl
@[simp] theorem State.newOp_hookTable (s : State) (c : Nat) : (s.newOp c).hookTable = s.hookTable := rfl
@[simp] theorem State.newOp_memory (s : State) (c : Nat) : (s.newOp c).memory = s.memory := rfl
@[simp] theorem State.newOp_seqs (s : State) (c : Nat) : (s.newOp c).seqs = s.seqs := rfl
@[simp] theorem State.newOp_dense (s : State) (c : Nat) : (s.newOp c).dense = s.dense := rfl
@[simp] theorem State.newOp_drv (s : State) (c : Nat) : (s.newOp c).drv = s.drv := rfl
@[simp] theorem State.newOp_lnk (s : State) (c : Nat) : (s.newOp c).lnk = s.lnk := rfl
@[simp] theorem State.newOp_cad (s : State) (c : Nat) : (s.newOp c).cad = s.cad := rfl
@[simp] theorem State.newOp_xfers (s : State) (c : Nat) : (s.newOp c).xfers = s.xfers := rfl
@[simp] theorem State.newOp_unwaited (s : State) (c : Nat) : (s.newOp c).unwaited = s.unwaited := rfl
@[simp] theorem State.newOp_reduces (s : State) (c : Nat) : (s.newOp c).reduces = s.reduces := rfl
@[simp] theorem State.newOp_red (s : State) (c : Nat) : (s.newOp c).red = s.red := rfl
@[simp] theorem State.newOp_image (s : State) (c : Nat) : (s.newOp c).image = s.image := rfl
@[simp] theorem State.newOp_step (s : State) (c : Nat) : (s.newOp c).step = s.step := rfl
@[simp] theorem State.newOp_logIn (s : State) (c : Nat) : (s.newOp c).logIn = s.logIn := rfl
@[simp] theorem State.newOp_flt (s : State) (c : Nat) : (s.newOp c).flt = s.flt := rfl
@[simp] theorem State.newOp_ctl (s : State) (c : Nat) : (s.newOp c).ctl = s.ctl := rfl
@[simp] theorem State.newOp_pwr (s : State) (c : Nat) : (s.newOp c).pwr = s.pwr := rfl
@[simp] theorem State.newOp_ing (s : State) (c : Nat) : (s.newOp c).ing = s.ing := rfl
@[simp] theorem State.newOp_host (s : State) (c : Nat) : (s.newOp c).host = s.host := rfl
@[simp] theorem State.newOp_obs (s : State) (c : Nat) : (s.newOp c).obs = s.obs := rfl
@[simp] theorem State.newOp_genLanes (s : State) (c : Nat) : (s.newOp c).genLanes = s.genLanes := rfl
@[simp] theorem State.newOp_patrol (s : State) (c : Nat) : (s.newOp c).patrol = s.patrol := rfl
@[simp] theorem State.newOp_upsets (s : State) (c : Nat) : (s.newOp c).upsets = s.upsets := rfl
@[simp] theorem State.newOp_free (s : State) (c : Nat) : (s.newOp c).free = s.free := rfl

/-! `State.fresh`. -/

@[simp] theorem State.fresh_pending (s : State) : s.fresh.2.pending = s.pending := rfl
@[simp] theorem State.fresh_regs (s : State) : s.fresh.2.regs = s.regs := rfl
@[simp] theorem State.fresh_latched (s : State) : s.fresh.2.latched = s.latched := rfl
@[simp] theorem State.fresh_mem (s : State) : s.fresh.2.mem = s.mem := rfl
@[simp] theorem State.fresh_slots (s : State) : s.fresh.2.slots = s.slots := rfl
@[simp] theorem State.fresh_descs (s : State) : s.fresh.2.descs = s.descs := rfl
@[simp] theorem State.fresh_commits (s : State) : s.fresh.2.commits = s.commits := rfl
@[simp] theorem State.fresh_commitNow (s : State) : s.fresh.2.commitNow = s.commitNow := rfl
@[simp] theorem State.fresh_hookTable (s : State) : s.fresh.2.hookTable = s.hookTable := rfl
@[simp] theorem State.fresh_memory (s : State) : s.fresh.2.memory = s.memory := rfl
@[simp] theorem State.fresh_seqs (s : State) : s.fresh.2.seqs = s.seqs := rfl
@[simp] theorem State.fresh_dense (s : State) : s.fresh.2.dense = s.dense := rfl
@[simp] theorem State.fresh_drv (s : State) : s.fresh.2.drv = s.drv := rfl
@[simp] theorem State.fresh_lnk (s : State) : s.fresh.2.lnk = s.lnk := rfl
@[simp] theorem State.fresh_cad (s : State) : s.fresh.2.cad = s.cad := rfl
@[simp] theorem State.fresh_xfers (s : State) : s.fresh.2.xfers = s.xfers := rfl
@[simp] theorem State.fresh_unwaited (s : State) : s.fresh.2.unwaited = s.unwaited := rfl
@[simp] theorem State.fresh_reduces (s : State) : s.fresh.2.reduces = s.reduces := rfl
@[simp] theorem State.fresh_red (s : State) : s.fresh.2.red = s.red := rfl
@[simp] theorem State.fresh_image (s : State) : s.fresh.2.image = s.image := rfl
@[simp] theorem State.fresh_step (s : State) : s.fresh.2.step = s.step := rfl
@[simp] theorem State.fresh_logIn (s : State) : s.fresh.2.logIn = s.logIn := rfl
@[simp] theorem State.fresh_flt (s : State) : s.fresh.2.flt = s.flt := rfl
@[simp] theorem State.fresh_ctl (s : State) : s.fresh.2.ctl = s.ctl := rfl
@[simp] theorem State.fresh_pwr (s : State) : s.fresh.2.pwr = s.pwr := rfl
@[simp] theorem State.fresh_ing (s : State) : s.fresh.2.ing = s.ing := rfl
@[simp] theorem State.fresh_host (s : State) : s.fresh.2.host = s.host := rfl
@[simp] theorem State.fresh_obs (s : State) : s.fresh.2.obs = s.obs := rfl
@[simp] theorem State.fresh_genLanes (s : State) : s.fresh.2.genLanes = s.genLanes := rfl
@[simp] theorem State.fresh_ctx (s : State) : s.fresh.2.ctx = s.ctx := rfl
@[simp] theorem State.fresh_opCount (s : State) : s.fresh.2.opCount = s.opCount := rfl
@[simp] theorem State.fresh_once (s : State) : s.fresh.2.once = s.once := rfl
@[simp] theorem State.fresh_patrol (s : State) : s.fresh.2.patrol = s.patrol := rfl
@[simp] theorem State.fresh_upsets (s : State) : s.fresh.2.upsets = s.upsets := rfl

/-! `putSlot`. -/

@[simp] theorem putSlot_pending (s : State) (tag slot : Nat) (x : Slot) : (putSlot s tag slot x).pending = s.pending := rfl
@[simp] theorem putSlot_regs (s : State) (tag slot : Nat) (x : Slot) : (putSlot s tag slot x).regs = s.regs := rfl
@[simp] theorem putSlot_latched (s : State) (tag slot : Nat) (x : Slot) : (putSlot s tag slot x).latched = s.latched := rfl
@[simp] theorem putSlot_mem (s : State) (tag slot : Nat) (x : Slot) : (putSlot s tag slot x).mem = s.mem := rfl
@[simp] theorem putSlot_descs (s : State) (tag slot : Nat) (x : Slot) : (putSlot s tag slot x).descs = s.descs := rfl
@[simp] theorem putSlot_commits (s : State) (tag slot : Nat) (x : Slot) : (putSlot s tag slot x).commits = s.commits := rfl
@[simp] theorem putSlot_commitNow (s : State) (tag slot : Nat) (x : Slot) : (putSlot s tag slot x).commitNow = s.commitNow := rfl
@[simp] theorem putSlot_hookTable (s : State) (tag slot : Nat) (x : Slot) : (putSlot s tag slot x).hookTable = s.hookTable := rfl
@[simp] theorem putSlot_memory (s : State) (tag slot : Nat) (x : Slot) : (putSlot s tag slot x).memory = s.memory := rfl
@[simp] theorem putSlot_seqs (s : State) (tag slot : Nat) (x : Slot) : (putSlot s tag slot x).seqs = s.seqs := rfl
@[simp] theorem putSlot_dense (s : State) (tag slot : Nat) (x : Slot) : (putSlot s tag slot x).dense = s.dense := rfl
@[simp] theorem putSlot_drv (s : State) (tag slot : Nat) (x : Slot) : (putSlot s tag slot x).drv = s.drv := rfl
@[simp] theorem putSlot_lnk (s : State) (tag slot : Nat) (x : Slot) : (putSlot s tag slot x).lnk = s.lnk := rfl
@[simp] theorem putSlot_cad (s : State) (tag slot : Nat) (x : Slot) : (putSlot s tag slot x).cad = s.cad := rfl
@[simp] theorem putSlot_xfers (s : State) (tag slot : Nat) (x : Slot) : (putSlot s tag slot x).xfers = s.xfers := rfl
@[simp] theorem putSlot_unwaited (s : State) (tag slot : Nat) (x : Slot) : (putSlot s tag slot x).unwaited = s.unwaited := rfl
@[simp] theorem putSlot_reduces (s : State) (tag slot : Nat) (x : Slot) : (putSlot s tag slot x).reduces = s.reduces := rfl
@[simp] theorem putSlot_red (s : State) (tag slot : Nat) (x : Slot) : (putSlot s tag slot x).red = s.red := rfl
@[simp] theorem putSlot_image (s : State) (tag slot : Nat) (x : Slot) : (putSlot s tag slot x).image = s.image := rfl
@[simp] theorem putSlot_step (s : State) (tag slot : Nat) (x : Slot) : (putSlot s tag slot x).step = s.step := rfl
@[simp] theorem putSlot_logIn (s : State) (tag slot : Nat) (x : Slot) : (putSlot s tag slot x).logIn = s.logIn := rfl
@[simp] theorem putSlot_flt (s : State) (tag slot : Nat) (x : Slot) : (putSlot s tag slot x).flt = s.flt := rfl
@[simp] theorem putSlot_ctl (s : State) (tag slot : Nat) (x : Slot) : (putSlot s tag slot x).ctl = s.ctl := rfl
@[simp] theorem putSlot_pwr (s : State) (tag slot : Nat) (x : Slot) : (putSlot s tag slot x).pwr = s.pwr := rfl
@[simp] theorem putSlot_ing (s : State) (tag slot : Nat) (x : Slot) : (putSlot s tag slot x).ing = s.ing := rfl
@[simp] theorem putSlot_host (s : State) (tag slot : Nat) (x : Slot) : (putSlot s tag slot x).host = s.host := rfl
@[simp] theorem putSlot_obs (s : State) (tag slot : Nat) (x : Slot) : (putSlot s tag slot x).obs = s.obs := rfl
@[simp] theorem putSlot_genLanes (s : State) (tag slot : Nat) (x : Slot) : (putSlot s tag slot x).genLanes = s.genLanes := rfl
@[simp] theorem putSlot_ctx (s : State) (tag slot : Nat) (x : Slot) : (putSlot s tag slot x).ctx = s.ctx := rfl
@[simp] theorem putSlot_opCount (s : State) (tag slot : Nat) (x : Slot) : (putSlot s tag slot x).opCount = s.opCount := rfl
@[simp] theorem putSlot_once (s : State) (tag slot : Nat) (x : Slot) : (putSlot s tag slot x).once = s.once := rfl
@[simp] theorem putSlot_patrol (s : State) (tag slot : Nat) (x : Slot) : (putSlot s tag slot x).patrol = s.patrol := rfl
@[simp] theorem putSlot_upsets (s : State) (tag slot : Nat) (x : Slot) : (putSlot s tag slot x).upsets = s.upsets := rfl
@[simp] theorem putSlot_free (s : State) (tag slot : Nat) (x : Slot) : (putSlot s tag slot x).free = s.free := rfl

/-! `setDense`. -/

@[simp] theorem setDense_pending (s : State) (d : DenseState) : (setDense s d).pending = s.pending := rfl
@[simp] theorem setDense_regs (s : State) (d : DenseState) : (setDense s d).regs = s.regs := rfl
@[simp] theorem setDense_latched (s : State) (d : DenseState) : (setDense s d).latched = s.latched := rfl
@[simp] theorem setDense_mem (s : State) (d : DenseState) : (setDense s d).mem = s.mem := rfl
@[simp] theorem setDense_slots (s : State) (d : DenseState) : (setDense s d).slots = s.slots := rfl
@[simp] theorem setDense_descs (s : State) (d : DenseState) : (setDense s d).descs = s.descs := rfl
@[simp] theorem setDense_commits (s : State) (d : DenseState) : (setDense s d).commits = s.commits := rfl
@[simp] theorem setDense_commitNow (s : State) (d : DenseState) : (setDense s d).commitNow = s.commitNow := rfl
@[simp] theorem setDense_hookTable (s : State) (d : DenseState) : (setDense s d).hookTable = s.hookTable := rfl
@[simp] theorem setDense_memory (s : State) (d : DenseState) : (setDense s d).memory = s.memory := rfl
@[simp] theorem setDense_seqs (s : State) (d : DenseState) : (setDense s d).seqs = s.seqs := rfl
@[simp] theorem setDense_drv (s : State) (d : DenseState) : (setDense s d).drv = s.drv := rfl
@[simp] theorem setDense_lnk (s : State) (d : DenseState) : (setDense s d).lnk = s.lnk := rfl
@[simp] theorem setDense_cad (s : State) (d : DenseState) : (setDense s d).cad = s.cad := rfl
@[simp] theorem setDense_xfers (s : State) (d : DenseState) : (setDense s d).xfers = s.xfers := rfl
@[simp] theorem setDense_unwaited (s : State) (d : DenseState) : (setDense s d).unwaited = s.unwaited := rfl
@[simp] theorem setDense_reduces (s : State) (d : DenseState) : (setDense s d).reduces = s.reduces := rfl
@[simp] theorem setDense_red (s : State) (d : DenseState) : (setDense s d).red = s.red := rfl
@[simp] theorem setDense_image (s : State) (d : DenseState) : (setDense s d).image = s.image := rfl
@[simp] theorem setDense_step (s : State) (d : DenseState) : (setDense s d).step = s.step := rfl
@[simp] theorem setDense_logIn (s : State) (d : DenseState) : (setDense s d).logIn = s.logIn := rfl
@[simp] theorem setDense_flt (s : State) (d : DenseState) : (setDense s d).flt = s.flt := rfl
@[simp] theorem setDense_ctl (s : State) (d : DenseState) : (setDense s d).ctl = s.ctl := rfl
@[simp] theorem setDense_pwr (s : State) (d : DenseState) : (setDense s d).pwr = s.pwr := rfl
@[simp] theorem setDense_ing (s : State) (d : DenseState) : (setDense s d).ing = s.ing := rfl
@[simp] theorem setDense_host (s : State) (d : DenseState) : (setDense s d).host = s.host := rfl
@[simp] theorem setDense_obs (s : State) (d : DenseState) : (setDense s d).obs = s.obs := rfl
@[simp] theorem setDense_genLanes (s : State) (d : DenseState) : (setDense s d).genLanes = s.genLanes := rfl
@[simp] theorem setDense_ctx (s : State) (d : DenseState) : (setDense s d).ctx = s.ctx := rfl
@[simp] theorem setDense_opCount (s : State) (d : DenseState) : (setDense s d).opCount = s.opCount := rfl
@[simp] theorem setDense_once (s : State) (d : DenseState) : (setDense s d).once = s.once := rfl
@[simp] theorem setDense_patrol (s : State) (d : DenseState) : (setDense s d).patrol = s.patrol := rfl
@[simp] theorem setDense_upsets (s : State) (d : DenseState) : (setDense s d).upsets = s.upsets := rfl
@[simp] theorem setDense_free (s : State) (d : DenseState) : (setDense s d).free = s.free := rfl

/-! `setDrv`. -/

@[simp] theorem setDrv_pending (s : State) (d : DrvState) : (setDrv s d).pending = s.pending := rfl
@[simp] theorem setDrv_regs (s : State) (d : DrvState) : (setDrv s d).regs = s.regs := rfl
@[simp] theorem setDrv_latched (s : State) (d : DrvState) : (setDrv s d).latched = s.latched := rfl
@[simp] theorem setDrv_mem (s : State) (d : DrvState) : (setDrv s d).mem = s.mem := rfl
@[simp] theorem setDrv_slots (s : State) (d : DrvState) : (setDrv s d).slots = s.slots := rfl
@[simp] theorem setDrv_descs (s : State) (d : DrvState) : (setDrv s d).descs = s.descs := rfl
@[simp] theorem setDrv_commits (s : State) (d : DrvState) : (setDrv s d).commits = s.commits := rfl
@[simp] theorem setDrv_commitNow (s : State) (d : DrvState) : (setDrv s d).commitNow = s.commitNow := rfl
@[simp] theorem setDrv_hookTable (s : State) (d : DrvState) : (setDrv s d).hookTable = s.hookTable := rfl
@[simp] theorem setDrv_memory (s : State) (d : DrvState) : (setDrv s d).memory = s.memory := rfl
@[simp] theorem setDrv_seqs (s : State) (d : DrvState) : (setDrv s d).seqs = s.seqs := rfl
@[simp] theorem setDrv_dense (s : State) (d : DrvState) : (setDrv s d).dense = s.dense := rfl
@[simp] theorem setDrv_lnk (s : State) (d : DrvState) : (setDrv s d).lnk = s.lnk := rfl
@[simp] theorem setDrv_cad (s : State) (d : DrvState) : (setDrv s d).cad = s.cad := rfl
@[simp] theorem setDrv_xfers (s : State) (d : DrvState) : (setDrv s d).xfers = s.xfers := rfl
@[simp] theorem setDrv_unwaited (s : State) (d : DrvState) : (setDrv s d).unwaited = s.unwaited := rfl
@[simp] theorem setDrv_reduces (s : State) (d : DrvState) : (setDrv s d).reduces = s.reduces := rfl
@[simp] theorem setDrv_red (s : State) (d : DrvState) : (setDrv s d).red = s.red := rfl
@[simp] theorem setDrv_image (s : State) (d : DrvState) : (setDrv s d).image = s.image := rfl
@[simp] theorem setDrv_step (s : State) (d : DrvState) : (setDrv s d).step = s.step := rfl
@[simp] theorem setDrv_logIn (s : State) (d : DrvState) : (setDrv s d).logIn = s.logIn := rfl
@[simp] theorem setDrv_flt (s : State) (d : DrvState) : (setDrv s d).flt = s.flt := rfl
@[simp] theorem setDrv_ctl (s : State) (d : DrvState) : (setDrv s d).ctl = s.ctl := rfl
@[simp] theorem setDrv_pwr (s : State) (d : DrvState) : (setDrv s d).pwr = s.pwr := rfl
@[simp] theorem setDrv_ing (s : State) (d : DrvState) : (setDrv s d).ing = s.ing := rfl
@[simp] theorem setDrv_host (s : State) (d : DrvState) : (setDrv s d).host = s.host := rfl
@[simp] theorem setDrv_obs (s : State) (d : DrvState) : (setDrv s d).obs = s.obs := rfl
@[simp] theorem setDrv_genLanes (s : State) (d : DrvState) : (setDrv s d).genLanes = s.genLanes := rfl
@[simp] theorem setDrv_ctx (s : State) (d : DrvState) : (setDrv s d).ctx = s.ctx := rfl
@[simp] theorem setDrv_opCount (s : State) (d : DrvState) : (setDrv s d).opCount = s.opCount := rfl
@[simp] theorem setDrv_once (s : State) (d : DrvState) : (setDrv s d).once = s.once := rfl
@[simp] theorem setDrv_patrol (s : State) (d : DrvState) : (setDrv s d).patrol = s.patrol := rfl
@[simp] theorem setDrv_upsets (s : State) (d : DrvState) : (setDrv s d).upsets = s.upsets := rfl
@[simp] theorem setDrv_free (s : State) (d : DrvState) : (setDrv s d).free = s.free := rfl

/-! `setHost`. -/

@[simp] theorem setHost_pending (s : State) (h : HostState) : (setHost s h).pending = s.pending := rfl
@[simp] theorem setHost_regs (s : State) (h : HostState) : (setHost s h).regs = s.regs := rfl
@[simp] theorem setHost_latched (s : State) (h : HostState) : (setHost s h).latched = s.latched := rfl
@[simp] theorem setHost_mem (s : State) (h : HostState) : (setHost s h).mem = s.mem := rfl
@[simp] theorem setHost_slots (s : State) (h : HostState) : (setHost s h).slots = s.slots := rfl
@[simp] theorem setHost_descs (s : State) (h : HostState) : (setHost s h).descs = s.descs := rfl
@[simp] theorem setHost_commits (s : State) (h : HostState) : (setHost s h).commits = s.commits := rfl
@[simp] theorem setHost_commitNow (s : State) (h : HostState) : (setHost s h).commitNow = s.commitNow := rfl
@[simp] theorem setHost_hookTable (s : State) (h : HostState) : (setHost s h).hookTable = s.hookTable := rfl
@[simp] theorem setHost_memory (s : State) (h : HostState) : (setHost s h).memory = s.memory := rfl
@[simp] theorem setHost_seqs (s : State) (h : HostState) : (setHost s h).seqs = s.seqs := rfl
@[simp] theorem setHost_dense (s : State) (h : HostState) : (setHost s h).dense = s.dense := rfl
@[simp] theorem setHost_drv (s : State) (h : HostState) : (setHost s h).drv = s.drv := rfl
@[simp] theorem setHost_lnk (s : State) (h : HostState) : (setHost s h).lnk = s.lnk := rfl
@[simp] theorem setHost_cad (s : State) (h : HostState) : (setHost s h).cad = s.cad := rfl
@[simp] theorem setHost_xfers (s : State) (h : HostState) : (setHost s h).xfers = s.xfers := rfl
@[simp] theorem setHost_unwaited (s : State) (h : HostState) : (setHost s h).unwaited = s.unwaited := rfl
@[simp] theorem setHost_reduces (s : State) (h : HostState) : (setHost s h).reduces = s.reduces := rfl
@[simp] theorem setHost_red (s : State) (h : HostState) : (setHost s h).red = s.red := rfl
@[simp] theorem setHost_image (s : State) (h : HostState) : (setHost s h).image = s.image := rfl
@[simp] theorem setHost_step (s : State) (h : HostState) : (setHost s h).step = s.step := rfl
@[simp] theorem setHost_logIn (s : State) (h : HostState) : (setHost s h).logIn = s.logIn := rfl
@[simp] theorem setHost_flt (s : State) (h : HostState) : (setHost s h).flt = s.flt := rfl
@[simp] theorem setHost_ctl (s : State) (h : HostState) : (setHost s h).ctl = s.ctl := rfl
@[simp] theorem setHost_pwr (s : State) (h : HostState) : (setHost s h).pwr = s.pwr := rfl
@[simp] theorem setHost_ing (s : State) (h : HostState) : (setHost s h).ing = s.ing := rfl
@[simp] theorem setHost_obs (s : State) (h : HostState) : (setHost s h).obs = s.obs := rfl
@[simp] theorem setHost_genLanes (s : State) (h : HostState) : (setHost s h).genLanes = s.genLanes := rfl
@[simp] theorem setHost_ctx (s : State) (h : HostState) : (setHost s h).ctx = s.ctx := rfl
@[simp] theorem setHost_opCount (s : State) (h : HostState) : (setHost s h).opCount = s.opCount := rfl
@[simp] theorem setHost_once (s : State) (h : HostState) : (setHost s h).once = s.once := rfl
@[simp] theorem setHost_patrol (s : State) (h : HostState) : (setHost s h).patrol = s.patrol := rfl
@[simp] theorem setHost_upsets (s : State) (h : HostState) : (setHost s h).upsets = s.upsets := rfl
@[simp] theorem setHost_free (s : State) (h : HostState) : (setHost s h).free = s.free := rfl

/-! `setIng`. -/

@[simp] theorem setIng_pending (s : State) (g : IngState) : (setIng s g).pending = s.pending := rfl
@[simp] theorem setIng_regs (s : State) (g : IngState) : (setIng s g).regs = s.regs := rfl
@[simp] theorem setIng_latched (s : State) (g : IngState) : (setIng s g).latched = s.latched := rfl
@[simp] theorem setIng_mem (s : State) (g : IngState) : (setIng s g).mem = s.mem := rfl
@[simp] theorem setIng_slots (s : State) (g : IngState) : (setIng s g).slots = s.slots := rfl
@[simp] theorem setIng_descs (s : State) (g : IngState) : (setIng s g).descs = s.descs := rfl
@[simp] theorem setIng_commits (s : State) (g : IngState) : (setIng s g).commits = s.commits := rfl
@[simp] theorem setIng_commitNow (s : State) (g : IngState) : (setIng s g).commitNow = s.commitNow := rfl
@[simp] theorem setIng_hookTable (s : State) (g : IngState) : (setIng s g).hookTable = s.hookTable := rfl
@[simp] theorem setIng_memory (s : State) (g : IngState) : (setIng s g).memory = s.memory := rfl
@[simp] theorem setIng_seqs (s : State) (g : IngState) : (setIng s g).seqs = s.seqs := rfl
@[simp] theorem setIng_dense (s : State) (g : IngState) : (setIng s g).dense = s.dense := rfl
@[simp] theorem setIng_drv (s : State) (g : IngState) : (setIng s g).drv = s.drv := rfl
@[simp] theorem setIng_lnk (s : State) (g : IngState) : (setIng s g).lnk = s.lnk := rfl
@[simp] theorem setIng_cad (s : State) (g : IngState) : (setIng s g).cad = s.cad := rfl
@[simp] theorem setIng_xfers (s : State) (g : IngState) : (setIng s g).xfers = s.xfers := rfl
@[simp] theorem setIng_unwaited (s : State) (g : IngState) : (setIng s g).unwaited = s.unwaited := rfl
@[simp] theorem setIng_reduces (s : State) (g : IngState) : (setIng s g).reduces = s.reduces := rfl
@[simp] theorem setIng_red (s : State) (g : IngState) : (setIng s g).red = s.red := rfl
@[simp] theorem setIng_image (s : State) (g : IngState) : (setIng s g).image = s.image := rfl
@[simp] theorem setIng_step (s : State) (g : IngState) : (setIng s g).step = s.step := rfl
@[simp] theorem setIng_logIn (s : State) (g : IngState) : (setIng s g).logIn = s.logIn := rfl
@[simp] theorem setIng_flt (s : State) (g : IngState) : (setIng s g).flt = s.flt := rfl
@[simp] theorem setIng_ctl (s : State) (g : IngState) : (setIng s g).ctl = s.ctl := rfl
@[simp] theorem setIng_pwr (s : State) (g : IngState) : (setIng s g).pwr = s.pwr := rfl
@[simp] theorem setIng_host (s : State) (g : IngState) : (setIng s g).host = s.host := rfl
@[simp] theorem setIng_obs (s : State) (g : IngState) : (setIng s g).obs = s.obs := rfl
@[simp] theorem setIng_genLanes (s : State) (g : IngState) : (setIng s g).genLanes = s.genLanes := rfl
@[simp] theorem setIng_ctx (s : State) (g : IngState) : (setIng s g).ctx = s.ctx := rfl
@[simp] theorem setIng_opCount (s : State) (g : IngState) : (setIng s g).opCount = s.opCount := rfl
@[simp] theorem setIng_once (s : State) (g : IngState) : (setIng s g).once = s.once := rfl
@[simp] theorem setIng_patrol (s : State) (g : IngState) : (setIng s g).patrol = s.patrol := rfl
@[simp] theorem setIng_upsets (s : State) (g : IngState) : (setIng s g).upsets = s.upsets := rfl
@[simp] theorem setIng_free (s : State) (g : IngState) : (setIng s g).free = s.free := rfl

/-! `State.setCtl`. -/

@[simp] theorem State.setCtl_pending (s : State) (c : CtlState) : (s.setCtl c).pending = s.pending := rfl
@[simp] theorem State.setCtl_regs (s : State) (c : CtlState) : (s.setCtl c).regs = s.regs := rfl
@[simp] theorem State.setCtl_latched (s : State) (c : CtlState) : (s.setCtl c).latched = s.latched := rfl
@[simp] theorem State.setCtl_mem (s : State) (c : CtlState) : (s.setCtl c).mem = s.mem := rfl
@[simp] theorem State.setCtl_slots (s : State) (c : CtlState) : (s.setCtl c).slots = s.slots := rfl
@[simp] theorem State.setCtl_descs (s : State) (c : CtlState) : (s.setCtl c).descs = s.descs := rfl
@[simp] theorem State.setCtl_commits (s : State) (c : CtlState) : (s.setCtl c).commits = s.commits := rfl
@[simp] theorem State.setCtl_commitNow (s : State) (c : CtlState) : (s.setCtl c).commitNow = s.commitNow := rfl
@[simp] theorem State.setCtl_hookTable (s : State) (c : CtlState) : (s.setCtl c).hookTable = s.hookTable := rfl
@[simp] theorem State.setCtl_memory (s : State) (c : CtlState) : (s.setCtl c).memory = s.memory := rfl
@[simp] theorem State.setCtl_seqs (s : State) (c : CtlState) : (s.setCtl c).seqs = s.seqs := rfl
@[simp] theorem State.setCtl_dense (s : State) (c : CtlState) : (s.setCtl c).dense = s.dense := rfl
@[simp] theorem State.setCtl_drv (s : State) (c : CtlState) : (s.setCtl c).drv = s.drv := rfl
@[simp] theorem State.setCtl_lnk (s : State) (c : CtlState) : (s.setCtl c).lnk = s.lnk := rfl
@[simp] theorem State.setCtl_cad (s : State) (c : CtlState) : (s.setCtl c).cad = s.cad := rfl
@[simp] theorem State.setCtl_xfers (s : State) (c : CtlState) : (s.setCtl c).xfers = s.xfers := rfl
@[simp] theorem State.setCtl_unwaited (s : State) (c : CtlState) : (s.setCtl c).unwaited = s.unwaited := rfl
@[simp] theorem State.setCtl_reduces (s : State) (c : CtlState) : (s.setCtl c).reduces = s.reduces := rfl
@[simp] theorem State.setCtl_red (s : State) (c : CtlState) : (s.setCtl c).red = s.red := rfl
@[simp] theorem State.setCtl_image (s : State) (c : CtlState) : (s.setCtl c).image = s.image := rfl
@[simp] theorem State.setCtl_step (s : State) (c : CtlState) : (s.setCtl c).step = s.step := rfl
@[simp] theorem State.setCtl_logIn (s : State) (c : CtlState) : (s.setCtl c).logIn = s.logIn := rfl
@[simp] theorem State.setCtl_flt (s : State) (c : CtlState) : (s.setCtl c).flt = s.flt := rfl
@[simp] theorem State.setCtl_pwr (s : State) (c : CtlState) : (s.setCtl c).pwr = s.pwr := rfl
@[simp] theorem State.setCtl_ing (s : State) (c : CtlState) : (s.setCtl c).ing = s.ing := rfl
@[simp] theorem State.setCtl_host (s : State) (c : CtlState) : (s.setCtl c).host = s.host := rfl
@[simp] theorem State.setCtl_obs (s : State) (c : CtlState) : (s.setCtl c).obs = s.obs := rfl
@[simp] theorem State.setCtl_genLanes (s : State) (c : CtlState) : (s.setCtl c).genLanes = s.genLanes := rfl
@[simp] theorem State.setCtl_ctx (s : State) (c : CtlState) : (s.setCtl c).ctx = s.ctx := rfl
@[simp] theorem State.setCtl_opCount (s : State) (c : CtlState) : (s.setCtl c).opCount = s.opCount := rfl
@[simp] theorem State.setCtl_once (s : State) (c : CtlState) : (s.setCtl c).once = s.once := rfl
@[simp] theorem State.setCtl_patrol (s : State) (c : CtlState) : (s.setCtl c).patrol = s.patrol := rfl
@[simp] theorem State.setCtl_upsets (s : State) (c : CtlState) : (s.setCtl c).upsets = s.upsets := rfl
@[simp] theorem State.setCtl_free (s : State) (c : CtlState) : (s.setCtl c).free = s.free := rfl

/-! `State.setSeqr`. -/

@[simp] theorem State.setSeqr_pending (s : State) (q : Fin 4) (x : SeqState) : (s.setSeqr q x).pending = s.pending := rfl
@[simp] theorem State.setSeqr_regs (s : State) (q : Fin 4) (x : SeqState) : (s.setSeqr q x).regs = s.regs := rfl
@[simp] theorem State.setSeqr_latched (s : State) (q : Fin 4) (x : SeqState) : (s.setSeqr q x).latched = s.latched := rfl
@[simp] theorem State.setSeqr_mem (s : State) (q : Fin 4) (x : SeqState) : (s.setSeqr q x).mem = s.mem := rfl
@[simp] theorem State.setSeqr_slots (s : State) (q : Fin 4) (x : SeqState) : (s.setSeqr q x).slots = s.slots := rfl
@[simp] theorem State.setSeqr_descs (s : State) (q : Fin 4) (x : SeqState) : (s.setSeqr q x).descs = s.descs := rfl
@[simp] theorem State.setSeqr_commits (s : State) (q : Fin 4) (x : SeqState) : (s.setSeqr q x).commits = s.commits := rfl
@[simp] theorem State.setSeqr_commitNow (s : State) (q : Fin 4) (x : SeqState) : (s.setSeqr q x).commitNow = s.commitNow := rfl
@[simp] theorem State.setSeqr_hookTable (s : State) (q : Fin 4) (x : SeqState) : (s.setSeqr q x).hookTable = s.hookTable := rfl
@[simp] theorem State.setSeqr_memory (s : State) (q : Fin 4) (x : SeqState) : (s.setSeqr q x).memory = s.memory := rfl
@[simp] theorem State.setSeqr_dense (s : State) (q : Fin 4) (x : SeqState) : (s.setSeqr q x).dense = s.dense := rfl
@[simp] theorem State.setSeqr_drv (s : State) (q : Fin 4) (x : SeqState) : (s.setSeqr q x).drv = s.drv := rfl
@[simp] theorem State.setSeqr_lnk (s : State) (q : Fin 4) (x : SeqState) : (s.setSeqr q x).lnk = s.lnk := rfl
@[simp] theorem State.setSeqr_cad (s : State) (q : Fin 4) (x : SeqState) : (s.setSeqr q x).cad = s.cad := rfl
@[simp] theorem State.setSeqr_xfers (s : State) (q : Fin 4) (x : SeqState) : (s.setSeqr q x).xfers = s.xfers := rfl
@[simp] theorem State.setSeqr_unwaited (s : State) (q : Fin 4) (x : SeqState) : (s.setSeqr q x).unwaited = s.unwaited := rfl
@[simp] theorem State.setSeqr_reduces (s : State) (q : Fin 4) (x : SeqState) : (s.setSeqr q x).reduces = s.reduces := rfl
@[simp] theorem State.setSeqr_red (s : State) (q : Fin 4) (x : SeqState) : (s.setSeqr q x).red = s.red := rfl
@[simp] theorem State.setSeqr_image (s : State) (q : Fin 4) (x : SeqState) : (s.setSeqr q x).image = s.image := rfl
@[simp] theorem State.setSeqr_step (s : State) (q : Fin 4) (x : SeqState) : (s.setSeqr q x).step = s.step := rfl
@[simp] theorem State.setSeqr_logIn (s : State) (q : Fin 4) (x : SeqState) : (s.setSeqr q x).logIn = s.logIn := rfl
@[simp] theorem State.setSeqr_flt (s : State) (q : Fin 4) (x : SeqState) : (s.setSeqr q x).flt = s.flt := rfl
@[simp] theorem State.setSeqr_ctl (s : State) (q : Fin 4) (x : SeqState) : (s.setSeqr q x).ctl = s.ctl := rfl
@[simp] theorem State.setSeqr_pwr (s : State) (q : Fin 4) (x : SeqState) : (s.setSeqr q x).pwr = s.pwr := rfl
@[simp] theorem State.setSeqr_ing (s : State) (q : Fin 4) (x : SeqState) : (s.setSeqr q x).ing = s.ing := rfl
@[simp] theorem State.setSeqr_host (s : State) (q : Fin 4) (x : SeqState) : (s.setSeqr q x).host = s.host := rfl
@[simp] theorem State.setSeqr_obs (s : State) (q : Fin 4) (x : SeqState) : (s.setSeqr q x).obs = s.obs := rfl
@[simp] theorem State.setSeqr_genLanes (s : State) (q : Fin 4) (x : SeqState) : (s.setSeqr q x).genLanes = s.genLanes := rfl
@[simp] theorem State.setSeqr_ctx (s : State) (q : Fin 4) (x : SeqState) : (s.setSeqr q x).ctx = s.ctx := rfl
@[simp] theorem State.setSeqr_opCount (s : State) (q : Fin 4) (x : SeqState) : (s.setSeqr q x).opCount = s.opCount := rfl
@[simp] theorem State.setSeqr_once (s : State) (q : Fin 4) (x : SeqState) : (s.setSeqr q x).once = s.once := rfl
@[simp] theorem State.setSeqr_patrol (s : State) (q : Fin 4) (x : SeqState) : (s.setSeqr q x).patrol = s.patrol := rfl
@[simp] theorem State.setSeqr_upsets (s : State) (q : Fin 4) (x : SeqState) : (s.setSeqr q x).upsets = s.upsets := rfl
@[simp] theorem State.setSeqr_free (s : State) (q : Fin 4) (x : SeqState) : (s.setSeqr q x).free = s.free := rfl

/-! `putLines`. -/

@[simp] theorem putLines_pending (s : State) (k : Nat) (ls : List Line) : (putLines s k ls).pending = s.pending := rfl
@[simp] theorem putLines_regs (s : State) (k : Nat) (ls : List Line) : (putLines s k ls).regs = s.regs := rfl
@[simp] theorem putLines_latched (s : State) (k : Nat) (ls : List Line) : (putLines s k ls).latched = s.latched := rfl
@[simp] theorem putLines_mem (s : State) (k : Nat) (ls : List Line) : (putLines s k ls).mem = s.mem := rfl
@[simp] theorem putLines_slots (s : State) (k : Nat) (ls : List Line) : (putLines s k ls).slots = s.slots := rfl
@[simp] theorem putLines_descs (s : State) (k : Nat) (ls : List Line) : (putLines s k ls).descs = s.descs := rfl
@[simp] theorem putLines_commits (s : State) (k : Nat) (ls : List Line) : (putLines s k ls).commits = s.commits := rfl
@[simp] theorem putLines_commitNow (s : State) (k : Nat) (ls : List Line) : (putLines s k ls).commitNow = s.commitNow := rfl
@[simp] theorem putLines_hookTable (s : State) (k : Nat) (ls : List Line) : (putLines s k ls).hookTable = s.hookTable := rfl
@[simp] theorem putLines_seqs (s : State) (k : Nat) (ls : List Line) : (putLines s k ls).seqs = s.seqs := rfl
@[simp] theorem putLines_dense (s : State) (k : Nat) (ls : List Line) : (putLines s k ls).dense = s.dense := rfl
@[simp] theorem putLines_drv (s : State) (k : Nat) (ls : List Line) : (putLines s k ls).drv = s.drv := rfl
@[simp] theorem putLines_lnk (s : State) (k : Nat) (ls : List Line) : (putLines s k ls).lnk = s.lnk := rfl
@[simp] theorem putLines_cad (s : State) (k : Nat) (ls : List Line) : (putLines s k ls).cad = s.cad := rfl
@[simp] theorem putLines_xfers (s : State) (k : Nat) (ls : List Line) : (putLines s k ls).xfers = s.xfers := rfl
@[simp] theorem putLines_unwaited (s : State) (k : Nat) (ls : List Line) : (putLines s k ls).unwaited = s.unwaited := rfl
@[simp] theorem putLines_reduces (s : State) (k : Nat) (ls : List Line) : (putLines s k ls).reduces = s.reduces := rfl
@[simp] theorem putLines_red (s : State) (k : Nat) (ls : List Line) : (putLines s k ls).red = s.red := rfl
@[simp] theorem putLines_image (s : State) (k : Nat) (ls : List Line) : (putLines s k ls).image = s.image := rfl
@[simp] theorem putLines_step (s : State) (k : Nat) (ls : List Line) : (putLines s k ls).step = s.step := rfl
@[simp] theorem putLines_logIn (s : State) (k : Nat) (ls : List Line) : (putLines s k ls).logIn = s.logIn := rfl
@[simp] theorem putLines_flt (s : State) (k : Nat) (ls : List Line) : (putLines s k ls).flt = s.flt := rfl
@[simp] theorem putLines_ctl (s : State) (k : Nat) (ls : List Line) : (putLines s k ls).ctl = s.ctl := rfl
@[simp] theorem putLines_pwr (s : State) (k : Nat) (ls : List Line) : (putLines s k ls).pwr = s.pwr := rfl
@[simp] theorem putLines_ing (s : State) (k : Nat) (ls : List Line) : (putLines s k ls).ing = s.ing := rfl
@[simp] theorem putLines_host (s : State) (k : Nat) (ls : List Line) : (putLines s k ls).host = s.host := rfl
@[simp] theorem putLines_obs (s : State) (k : Nat) (ls : List Line) : (putLines s k ls).obs = s.obs := rfl
@[simp] theorem putLines_genLanes (s : State) (k : Nat) (ls : List Line) : (putLines s k ls).genLanes = s.genLanes := rfl
@[simp] theorem putLines_ctx (s : State) (k : Nat) (ls : List Line) : (putLines s k ls).ctx = s.ctx := rfl
@[simp] theorem putLines_opCount (s : State) (k : Nat) (ls : List Line) : (putLines s k ls).opCount = s.opCount := rfl
@[simp] theorem putLines_once (s : State) (k : Nat) (ls : List Line) : (putLines s k ls).once = s.once := rfl
@[simp] theorem putLines_patrol (s : State) (k : Nat) (ls : List Line) : (putLines s k ls).patrol = s.patrol := rfl
@[simp] theorem putLines_upsets (s : State) (k : Nat) (ls : List Line) : (putLines s k ls).upsets = s.upsets := rfl
@[simp] theorem putLines_free (s : State) (k : Nat) (ls : List Line) : (putLines s k ls).free = s.free := rfl

/-! A counter's events touch the register file alone; a log entry its queue, the registers and the free values too. -/

@[simp] theorem State.bump_pending (s : State) (f : Field) (n : Nat) : (s.bump f n).pending = s.pending := by
  unfold State.bump; split <;> rfl
@[simp] theorem State.bump_latched (s : State) (f : Field) (n : Nat) : (s.bump f n).latched = s.latched := by
  unfold State.bump; split <;> rfl
@[simp] theorem State.bump_mem (s : State) (f : Field) (n : Nat) : (s.bump f n).mem = s.mem := by
  unfold State.bump; split <;> rfl
@[simp] theorem State.bump_slots (s : State) (f : Field) (n : Nat) : (s.bump f n).slots = s.slots := by
  unfold State.bump; split <;> rfl
@[simp] theorem State.bump_descs (s : State) (f : Field) (n : Nat) : (s.bump f n).descs = s.descs := by
  unfold State.bump; split <;> rfl
@[simp] theorem State.bump_commits (s : State) (f : Field) (n : Nat) : (s.bump f n).commits = s.commits := by
  unfold State.bump; split <;> rfl
@[simp] theorem State.bump_commitNow (s : State) (f : Field) (n : Nat) : (s.bump f n).commitNow = s.commitNow := by
  unfold State.bump; split <;> rfl
@[simp] theorem State.bump_hookTable (s : State) (f : Field) (n : Nat) : (s.bump f n).hookTable = s.hookTable := by
  unfold State.bump; split <;> rfl
@[simp] theorem State.bump_memory (s : State) (f : Field) (n : Nat) : (s.bump f n).memory = s.memory := by
  unfold State.bump; split <;> rfl
@[simp] theorem State.bump_seqs (s : State) (f : Field) (n : Nat) : (s.bump f n).seqs = s.seqs := by
  unfold State.bump; split <;> rfl
@[simp] theorem State.bump_dense (s : State) (f : Field) (n : Nat) : (s.bump f n).dense = s.dense := by
  unfold State.bump; split <;> rfl
@[simp] theorem State.bump_drv (s : State) (f : Field) (n : Nat) : (s.bump f n).drv = s.drv := by
  unfold State.bump; split <;> rfl
@[simp] theorem State.bump_lnk (s : State) (f : Field) (n : Nat) : (s.bump f n).lnk = s.lnk := by
  unfold State.bump; split <;> rfl
@[simp] theorem State.bump_cad (s : State) (f : Field) (n : Nat) : (s.bump f n).cad = s.cad := by
  unfold State.bump; split <;> rfl
@[simp] theorem State.bump_xfers (s : State) (f : Field) (n : Nat) : (s.bump f n).xfers = s.xfers := by
  unfold State.bump; split <;> rfl
@[simp] theorem State.bump_unwaited (s : State) (f : Field) (n : Nat) : (s.bump f n).unwaited = s.unwaited := by
  unfold State.bump; split <;> rfl
@[simp] theorem State.bump_reduces (s : State) (f : Field) (n : Nat) : (s.bump f n).reduces = s.reduces := by
  unfold State.bump; split <;> rfl
@[simp] theorem State.bump_red (s : State) (f : Field) (n : Nat) : (s.bump f n).red = s.red := by
  unfold State.bump; split <;> rfl
@[simp] theorem State.bump_image (s : State) (f : Field) (n : Nat) : (s.bump f n).image = s.image := by
  unfold State.bump; split <;> rfl
@[simp] theorem State.bump_step (s : State) (f : Field) (n : Nat) : (s.bump f n).step = s.step := by
  unfold State.bump; split <;> rfl
@[simp] theorem State.bump_logIn (s : State) (f : Field) (n : Nat) : (s.bump f n).logIn = s.logIn := by
  unfold State.bump; split <;> rfl
@[simp] theorem State.bump_flt (s : State) (f : Field) (n : Nat) : (s.bump f n).flt = s.flt := by
  unfold State.bump; split <;> rfl
@[simp] theorem State.bump_ctl (s : State) (f : Field) (n : Nat) : (s.bump f n).ctl = s.ctl := by
  unfold State.bump; split <;> rfl
@[simp] theorem State.bump_pwr (s : State) (f : Field) (n : Nat) : (s.bump f n).pwr = s.pwr := by
  unfold State.bump; split <;> rfl
@[simp] theorem State.bump_ing (s : State) (f : Field) (n : Nat) : (s.bump f n).ing = s.ing := by
  unfold State.bump; split <;> rfl
@[simp] theorem State.bump_host (s : State) (f : Field) (n : Nat) : (s.bump f n).host = s.host := by
  unfold State.bump; split <;> rfl
@[simp] theorem State.bump_obs (s : State) (f : Field) (n : Nat) : (s.bump f n).obs = s.obs := by
  unfold State.bump; split <;> rfl
@[simp] theorem State.bump_genLanes (s : State) (f : Field) (n : Nat) : (s.bump f n).genLanes = s.genLanes := by
  unfold State.bump; split <;> rfl
@[simp] theorem State.bump_ctx (s : State) (f : Field) (n : Nat) : (s.bump f n).ctx = s.ctx := by
  unfold State.bump; split <;> rfl
@[simp] theorem State.bump_opCount (s : State) (f : Field) (n : Nat) : (s.bump f n).opCount = s.opCount := by
  unfold State.bump; split <;> rfl
@[simp] theorem State.bump_once (s : State) (f : Field) (n : Nat) : (s.bump f n).once = s.once := by
  unfold State.bump; split <;> rfl
@[simp] theorem State.bump_patrol (s : State) (f : Field) (n : Nat) : (s.bump f n).patrol = s.patrol := by
  unfold State.bump; split <;> rfl
@[simp] theorem State.bump_upsets (s : State) (f : Field) (n : Nat) : (s.bump f n).upsets = s.upsets := by
  unfold State.bump; split <;> rfl
@[simp] theorem State.bump_free (s : State) (f : Field) (n : Nat) : (s.bump f n).free = s.free := by
  unfold State.bump; split <;> rfl

@[simp] theorem State.count_pending (s : State) (f : Field) (n : Nat) : (s.count f n).pending = s.pending := by
  unfold State.count; split <;> simp only [State.bump_pending]
@[simp] theorem State.count_latched (s : State) (f : Field) (n : Nat) : (s.count f n).latched = s.latched := by
  unfold State.count; split <;> simp only [State.bump_latched]
@[simp] theorem State.count_mem (s : State) (f : Field) (n : Nat) : (s.count f n).mem = s.mem := by
  unfold State.count; split <;> simp only [State.bump_mem]
@[simp] theorem State.count_slots (s : State) (f : Field) (n : Nat) : (s.count f n).slots = s.slots := by
  unfold State.count; split <;> simp only [State.bump_slots]
@[simp] theorem State.count_descs (s : State) (f : Field) (n : Nat) : (s.count f n).descs = s.descs := by
  unfold State.count; split <;> simp only [State.bump_descs]
@[simp] theorem State.count_commits (s : State) (f : Field) (n : Nat) : (s.count f n).commits = s.commits := by
  unfold State.count; split <;> simp only [State.bump_commits]
@[simp] theorem State.count_commitNow (s : State) (f : Field) (n : Nat) : (s.count f n).commitNow = s.commitNow := by
  unfold State.count; split <;> simp only [State.bump_commitNow]
@[simp] theorem State.count_hookTable (s : State) (f : Field) (n : Nat) : (s.count f n).hookTable = s.hookTable := by
  unfold State.count; split <;> simp only [State.bump_hookTable]
@[simp] theorem State.count_memory (s : State) (f : Field) (n : Nat) : (s.count f n).memory = s.memory := by
  unfold State.count; split <;> simp only [State.bump_memory]
@[simp] theorem State.count_seqs (s : State) (f : Field) (n : Nat) : (s.count f n).seqs = s.seqs := by
  unfold State.count; split <;> simp only [State.bump_seqs]
@[simp] theorem State.count_dense (s : State) (f : Field) (n : Nat) : (s.count f n).dense = s.dense := by
  unfold State.count; split <;> simp only [State.bump_dense]
@[simp] theorem State.count_drv (s : State) (f : Field) (n : Nat) : (s.count f n).drv = s.drv := by
  unfold State.count; split <;> simp only [State.bump_drv]
@[simp] theorem State.count_lnk (s : State) (f : Field) (n : Nat) : (s.count f n).lnk = s.lnk := by
  unfold State.count; split <;> simp only [State.bump_lnk]
@[simp] theorem State.count_cad (s : State) (f : Field) (n : Nat) : (s.count f n).cad = s.cad := by
  unfold State.count; split <;> simp only [State.bump_cad]
@[simp] theorem State.count_xfers (s : State) (f : Field) (n : Nat) : (s.count f n).xfers = s.xfers := by
  unfold State.count; split <;> simp only [State.bump_xfers]
@[simp] theorem State.count_unwaited (s : State) (f : Field) (n : Nat) : (s.count f n).unwaited = s.unwaited := by
  unfold State.count; split <;> simp only [State.bump_unwaited]
@[simp] theorem State.count_reduces (s : State) (f : Field) (n : Nat) : (s.count f n).reduces = s.reduces := by
  unfold State.count; split <;> simp only [State.bump_reduces]
@[simp] theorem State.count_red (s : State) (f : Field) (n : Nat) : (s.count f n).red = s.red := by
  unfold State.count; split <;> simp only [State.bump_red]
@[simp] theorem State.count_image (s : State) (f : Field) (n : Nat) : (s.count f n).image = s.image := by
  unfold State.count; split <;> simp only [State.bump_image]
@[simp] theorem State.count_step (s : State) (f : Field) (n : Nat) : (s.count f n).step = s.step := by
  unfold State.count; split <;> simp only [State.bump_step]
@[simp] theorem State.count_logIn (s : State) (f : Field) (n : Nat) : (s.count f n).logIn = s.logIn := by
  unfold State.count; split <;> simp only [State.bump_logIn]
@[simp] theorem State.count_flt (s : State) (f : Field) (n : Nat) : (s.count f n).flt = s.flt := by
  unfold State.count; split <;> simp only [State.bump_flt]
@[simp] theorem State.count_ctl (s : State) (f : Field) (n : Nat) : (s.count f n).ctl = s.ctl := by
  unfold State.count; split <;> simp only [State.bump_ctl]
@[simp] theorem State.count_pwr (s : State) (f : Field) (n : Nat) : (s.count f n).pwr = s.pwr := by
  unfold State.count; split <;> simp only [State.bump_pwr]
@[simp] theorem State.count_ing (s : State) (f : Field) (n : Nat) : (s.count f n).ing = s.ing := by
  unfold State.count; split <;> simp only [State.bump_ing]
@[simp] theorem State.count_host (s : State) (f : Field) (n : Nat) : (s.count f n).host = s.host := by
  unfold State.count; split <;> simp only [State.bump_host]
@[simp] theorem State.count_obs (s : State) (f : Field) (n : Nat) : (s.count f n).obs = s.obs := by
  unfold State.count; split <;> simp only [State.bump_obs]
@[simp] theorem State.count_genLanes (s : State) (f : Field) (n : Nat) : (s.count f n).genLanes = s.genLanes := by
  unfold State.count; split <;> simp only [State.bump_genLanes]
@[simp] theorem State.count_ctx (s : State) (f : Field) (n : Nat) : (s.count f n).ctx = s.ctx := by
  unfold State.count; split <;> simp only [State.bump_ctx]
@[simp] theorem State.count_opCount (s : State) (f : Field) (n : Nat) : (s.count f n).opCount = s.opCount := by
  unfold State.count; split <;> simp only [State.bump_opCount]
@[simp] theorem State.count_once (s : State) (f : Field) (n : Nat) : (s.count f n).once = s.once := by
  unfold State.count; split <;> simp only [State.bump_once]
@[simp] theorem State.count_patrol (s : State) (f : Field) (n : Nat) : (s.count f n).patrol = s.patrol := by
  unfold State.count; split <;> simp only [State.bump_patrol]
@[simp] theorem State.count_upsets (s : State) (f : Field) (n : Nat) : (s.count f n).upsets = s.upsets := by
  unfold State.count; split <;> simp only [State.bump_upsets]
@[simp] theorem State.count_free (s : State) (f : Field) (n : Nat) : (s.count f n).free = s.free := by
  unfold State.count; split <;> simp only [State.bump_free]

@[simp] theorem State.log_pending (s : State) (e : LogEvent) : (s.log e).pending = s.pending := by
  unfold State.log; dsimp only; split <;> simp
@[simp] theorem State.log_latched (s : State) (e : LogEvent) : (s.log e).latched = s.latched := by
  unfold State.log; dsimp only; split <;> simp
@[simp] theorem State.log_mem (s : State) (e : LogEvent) : (s.log e).mem = s.mem := by
  unfold State.log; dsimp only; split <;> simp
@[simp] theorem State.log_slots (s : State) (e : LogEvent) : (s.log e).slots = s.slots := by
  unfold State.log; dsimp only; split <;> simp
@[simp] theorem State.log_descs (s : State) (e : LogEvent) : (s.log e).descs = s.descs := by
  unfold State.log; dsimp only; split <;> simp
@[simp] theorem State.log_commits (s : State) (e : LogEvent) : (s.log e).commits = s.commits := by
  unfold State.log; dsimp only; split <;> simp
@[simp] theorem State.log_commitNow (s : State) (e : LogEvent) : (s.log e).commitNow = s.commitNow := by
  unfold State.log; dsimp only; split <;> simp
@[simp] theorem State.log_hookTable (s : State) (e : LogEvent) : (s.log e).hookTable = s.hookTable := by
  unfold State.log; dsimp only; split <;> simp
@[simp] theorem State.log_memory (s : State) (e : LogEvent) : (s.log e).memory = s.memory := by
  unfold State.log; dsimp only; split <;> simp
@[simp] theorem State.log_seqs (s : State) (e : LogEvent) : (s.log e).seqs = s.seqs := by
  unfold State.log; dsimp only; split <;> simp
@[simp] theorem State.log_dense (s : State) (e : LogEvent) : (s.log e).dense = s.dense := by
  unfold State.log; dsimp only; split <;> simp
@[simp] theorem State.log_drv (s : State) (e : LogEvent) : (s.log e).drv = s.drv := by
  unfold State.log; dsimp only; split <;> simp
@[simp] theorem State.log_lnk (s : State) (e : LogEvent) : (s.log e).lnk = s.lnk := by
  unfold State.log; dsimp only; split <;> simp
@[simp] theorem State.log_cad (s : State) (e : LogEvent) : (s.log e).cad = s.cad := by
  unfold State.log; dsimp only; split <;> simp
@[simp] theorem State.log_xfers (s : State) (e : LogEvent) : (s.log e).xfers = s.xfers := by
  unfold State.log; dsimp only; split <;> simp
@[simp] theorem State.log_unwaited (s : State) (e : LogEvent) : (s.log e).unwaited = s.unwaited := by
  unfold State.log; dsimp only; split <;> simp
@[simp] theorem State.log_reduces (s : State) (e : LogEvent) : (s.log e).reduces = s.reduces := by
  unfold State.log; dsimp only; split <;> simp
@[simp] theorem State.log_red (s : State) (e : LogEvent) : (s.log e).red = s.red := by
  unfold State.log; dsimp only; split <;> simp
@[simp] theorem State.log_image (s : State) (e : LogEvent) : (s.log e).image = s.image := by
  unfold State.log; dsimp only; split <;> simp
@[simp] theorem State.log_step (s : State) (e : LogEvent) : (s.log e).step = s.step := by
  unfold State.log; dsimp only; split <;> simp
@[simp] theorem State.log_flt (s : State) (e : LogEvent) : (s.log e).flt = s.flt := by
  unfold State.log; dsimp only; split <;> simp
@[simp] theorem State.log_ctl (s : State) (e : LogEvent) : (s.log e).ctl = s.ctl := by
  unfold State.log; dsimp only; split <;> simp
@[simp] theorem State.log_pwr (s : State) (e : LogEvent) : (s.log e).pwr = s.pwr := by
  unfold State.log; dsimp only; split <;> simp
@[simp] theorem State.log_ing (s : State) (e : LogEvent) : (s.log e).ing = s.ing := by
  unfold State.log; dsimp only; split <;> simp
@[simp] theorem State.log_host (s : State) (e : LogEvent) : (s.log e).host = s.host := by
  unfold State.log; dsimp only; split <;> simp
@[simp] theorem State.log_obs (s : State) (e : LogEvent) : (s.log e).obs = s.obs := by
  unfold State.log; dsimp only; split <;> simp
@[simp] theorem State.log_genLanes (s : State) (e : LogEvent) : (s.log e).genLanes = s.genLanes := by
  unfold State.log; dsimp only; split <;> simp
@[simp] theorem State.log_ctx (s : State) (e : LogEvent) : (s.log e).ctx = s.ctx := by
  unfold State.log; dsimp only; split <;> simp
@[simp] theorem State.log_opCount (s : State) (e : LogEvent) : (s.log e).opCount = s.opCount := by
  unfold State.log; dsimp only; split <;> simp
@[simp] theorem State.log_once (s : State) (e : LogEvent) : (s.log e).once = s.once := by
  unfold State.log; dsimp only; split <;> simp
@[simp] theorem State.log_patrol (s : State) (e : LogEvent) : (s.log e).patrol = s.patrol := by
  unfold State.log; dsimp only; split <;> simp
@[simp] theorem State.log_upsets (s : State) (e : LogEvent) : (s.log e).upsets = s.upsets := by
  unfold State.log; dsimp only; split <;> simp

@[simp] theorem State.escalate_pending (s : State) (e : LogEvent) : (s.escalate e).pending = s.pending := by
  simp [State.escalate]
@[simp] theorem State.escalate_latched (s : State) (e : LogEvent) : (s.escalate e).latched = s.latched := by
  simp [State.escalate]
@[simp] theorem State.escalate_mem (s : State) (e : LogEvent) : (s.escalate e).mem = s.mem := by
  simp [State.escalate]
@[simp] theorem State.escalate_slots (s : State) (e : LogEvent) : (s.escalate e).slots = s.slots := by
  simp [State.escalate]
@[simp] theorem State.escalate_descs (s : State) (e : LogEvent) : (s.escalate e).descs = s.descs := by
  simp [State.escalate]
@[simp] theorem State.escalate_commits (s : State) (e : LogEvent) : (s.escalate e).commits = s.commits := by
  simp [State.escalate]
@[simp] theorem State.escalate_commitNow (s : State) (e : LogEvent) : (s.escalate e).commitNow = s.commitNow := by
  simp [State.escalate]
@[simp] theorem State.escalate_hookTable (s : State) (e : LogEvent) : (s.escalate e).hookTable = s.hookTable := by
  simp [State.escalate]
@[simp] theorem State.escalate_memory (s : State) (e : LogEvent) : (s.escalate e).memory = s.memory := by
  simp [State.escalate]
@[simp] theorem State.escalate_seqs (s : State) (e : LogEvent) : (s.escalate e).seqs = s.seqs := by
  simp [State.escalate]
@[simp] theorem State.escalate_dense (s : State) (e : LogEvent) : (s.escalate e).dense = s.dense := by
  simp [State.escalate]
@[simp] theorem State.escalate_drv (s : State) (e : LogEvent) : (s.escalate e).drv = s.drv := by
  simp [State.escalate]
@[simp] theorem State.escalate_lnk (s : State) (e : LogEvent) : (s.escalate e).lnk = s.lnk := by
  simp [State.escalate]
@[simp] theorem State.escalate_cad (s : State) (e : LogEvent) : (s.escalate e).cad = s.cad := by
  simp [State.escalate]
@[simp] theorem State.escalate_xfers (s : State) (e : LogEvent) : (s.escalate e).xfers = s.xfers := by
  simp [State.escalate]
@[simp] theorem State.escalate_unwaited (s : State) (e : LogEvent) : (s.escalate e).unwaited = s.unwaited := by
  simp [State.escalate]
@[simp] theorem State.escalate_reduces (s : State) (e : LogEvent) : (s.escalate e).reduces = s.reduces := by
  simp [State.escalate]
@[simp] theorem State.escalate_red (s : State) (e : LogEvent) : (s.escalate e).red = s.red := by
  simp [State.escalate]
@[simp] theorem State.escalate_image (s : State) (e : LogEvent) : (s.escalate e).image = s.image := by
  simp [State.escalate]
@[simp] theorem State.escalate_step (s : State) (e : LogEvent) : (s.escalate e).step = s.step := by
  simp [State.escalate]
@[simp] theorem State.escalate_flt (s : State) (e : LogEvent) : (s.escalate e).flt = s.flt := by
  simp [State.escalate]
@[simp] theorem State.escalate_ctl (s : State) (e : LogEvent) : (s.escalate e).ctl = s.ctl := by
  simp [State.escalate]
@[simp] theorem State.escalate_pwr (s : State) (e : LogEvent) : (s.escalate e).pwr = s.pwr := by
  simp [State.escalate]
@[simp] theorem State.escalate_ing (s : State) (e : LogEvent) : (s.escalate e).ing = s.ing := by
  simp [State.escalate]
@[simp] theorem State.escalate_host (s : State) (e : LogEvent) : (s.escalate e).host = s.host := by
  simp [State.escalate]
@[simp] theorem State.escalate_obs (s : State) (e : LogEvent) : (s.escalate e).obs = s.obs := by
  simp [State.escalate]
@[simp] theorem State.escalate_genLanes (s : State) (e : LogEvent) : (s.escalate e).genLanes = s.genLanes := by
  simp [State.escalate]
@[simp] theorem State.escalate_ctx (s : State) (e : LogEvent) : (s.escalate e).ctx = s.ctx := by
  simp [State.escalate]
@[simp] theorem State.escalate_opCount (s : State) (e : LogEvent) : (s.escalate e).opCount = s.opCount := by
  simp [State.escalate]
@[simp] theorem State.escalate_once (s : State) (e : LogEvent) : (s.escalate e).once = s.once := by
  simp [State.escalate]
@[simp] theorem State.escalate_patrol (s : State) (e : LogEvent) : (s.escalate e).patrol = s.patrol := by
  simp [State.escalate]
@[simp] theorem State.escalate_upsets (s : State) (e : LogEvent) : (s.escalate e).upsets = s.upsets := by
  simp [State.escalate]
/-! Register fields. -/

theorem FMap.find_put_self {α : Type} (m : FMap α) (k : Nat) (v : α) : FMap.find (FMap.put m k v) k = some v := by
  induction m with
  | nil => simp [FMap.put, FMap.find]
  | cons p m ih =>
    obtain ⟨k', v'⟩ := p
    unfold FMap.put
    split
    · simp [FMap.find]
    · split
      · simp [FMap.find]
      · rename_i h1 h2
        simp [FMap.find, h2, ih]

theorem FMap.find_put_of_ne {α : Type} (m : FMap α) {j k : Nat} (v : α) (h : j ≠ k) :
    FMap.find (FMap.put m k v) j = FMap.find m j := by
  induction m with
  | nil => simp [FMap.put, FMap.find, h]
  | cons p m ih =>
    obtain ⟨k', v'⟩ := p
    unfold FMap.put
    split
    · simp [FMap.find, h]
    · split
      · rename_i h1 h2
        subst h2
        simp [FMap.find, h]
      · simp [FMap.find, ih]

theorem FMap.find_filter {α : Type} (m : FMap α) (p : Nat → Bool) (k : Nat) :
    FMap.find (m.filter (fun e => p e.1)) k = if p k then FMap.find m k else none := by
  induction m with
  | nil => simp [FMap.find]
  | cons e m ih =>
    obtain ⟨k', v⟩ := e
    by_cases hk : k = k'
    · subst hk
      by_cases hp : p k <;> simp [hp, FMap.find, ih]
    · by_cases hp : p k' <;> simp [hp, FMap.find, ih, hk]

theorem FMap.find_del_self {α : Type} (m : FMap α) (k : Nat) : FMap.find (FMap.del m k) k = none := by
  simp [FMap.del, FMap.find_filter m (fun a => a != k) k]

theorem FMap.find_del_of_ne {α : Type} (m : FMap α) {j k : Nat} (h : j ≠ k) :
    FMap.find (FMap.del m k) j = FMap.find m j := by
  simp [FMap.del, FMap.find_filter m (fun a => a != k) j, h]

/-- A field reads the low bits of what was last put into it. -/
@[simp] theorem State.get_set_self (s : State) (f : Field) (v : Nat) : (s.set f v).get f = v % 2 ^ f.width := by
  unfold State.get State.set RegFile.get RegFile.set
  dsimp only
  split
  · rename_i h
    simp [FMap.find_del_self, h]
  · simp [FMap.find_put_self]

/-- Setting a field leaves every field at another place as it was. -/
theorem State.get_set_of_ne (s : State) {f g : Field} (v : Nat) (h : g.key ≠ f.key) : (s.set f v).get g = s.get g := by
  unfold State.get State.set RegFile.get RegFile.set
  dsimp only
  split
  · rw [FMap.find_del_of_ne _ h]
  · rw [FMap.find_put_of_ne _ _ h]

/-- A counter after its events, without its shadow (R14). -/
theorem State.get_bump_self (s : State) (f : Field) (n : Nat) :
    (s.bump f n).get f = if n = 0 then s.get f else min (2 ^ f.width - 1) (s.get f + n) := by
  have h : 0 < 2 ^ f.width := Nat.two_pow_pos _
  unfold State.bump satAdd
  split
  · rfl
  · rw [State.get_set_self, Nat.mod_eq_of_lt (by omega)]

/-- Counting leaves every field at another place as it was. -/
theorem State.get_bump_of_ne (s : State) {f g : Field} (n : Nat) (h : g.key ≠ f.key) : (s.bump f n).get g = s.get g := by
  unfold State.bump
  split
  · rfl
  · exact State.get_set_of_ne s _ h

/-! Slots. -/

theorem slotAt_putSlot_self (s : State) (tag slot : Nat) (x : Slot) : slotAt (putSlot s tag slot x) tag slot = x := by
  unfold slotAt putSlot
  dsimp only
  split
  · rename_i h
    simp [FMap.find_del_self, h]
  · simp [FMap.find_put_self]

theorem slotAt_putSlot_of_ne (s : State) {tag slot tag' slot' : Nat} (x : Slot) (h : slotKey tag' slot' ≠ slotKey tag slot) :
    slotAt (putSlot s tag slot x) tag' slot' = slotAt s tag' slot' := by
  unfold slotAt putSlot
  dsimp only
  split
  · rw [FMap.find_del_of_ne _ h]
  · rw [FMap.find_put_of_ne _ _ h]

end Sys2Proof.Machine
end

