-- ==== Sys2Proof/Laws/Memory.lean ====
section
/-!
SUPPORT. Laws/Memory.lean: every operation on memory keeps its canonical form, and a byte reads after a write as the write says.
-/

namespace Sys2Proof.Machine

/-! Sparse tables stay sorted. -/

theorem FMap.sorted_cons {α : Type} (a : Nat × α) (m : FMap α) :
    FMap.sorted (a :: m) = true ↔ (∀ b ∈ m, a.1 < b.1) ∧ FMap.sorted m = true := by
  induction m generalizing a with
  | nil => simp [FMap.sorted]
  | cons b m ih =>
    have hb := ih b
    simp only [FMap.sorted, Bool.and_eq_true, decide_eq_true_eq]
    constructor
    · rintro ⟨h1, h2⟩
      refine ⟨?_, h2⟩
      intro c hc
      rcases List.mem_cons.1 hc with rfl | hc
      · exact h1
      · exact Nat.lt_trans h1 ((hb.1 h2).1 c hc)
    · rintro ⟨h1, h2⟩
      exact ⟨h1 b (by simp), h2⟩

theorem FMap.sorted_filter {α : Type} (m : FMap α) (p : Nat × α → Bool) (h : FMap.sorted m = true) :
    FMap.sorted (m.filter p) = true := by
  induction m with
  | nil => rfl
  | cons a m ih =>
    rw [FMap.sorted_cons] at h
    rw [List.filter_cons]
    split
    · rw [FMap.sorted_cons]
      exact ⟨fun b hb => h.1 b ((List.mem_filter.1 hb).1), ih h.2⟩
    · exact ih h.2

theorem FMap.sorted_del {α : Type} (m : FMap α) (k : Nat) (h : FMap.sorted m = true) : FMap.sorted (FMap.del m k) = true :=
  FMap.sorted_filter m _ h

theorem FMap.mem_put {α : Type} (m : FMap α) (k : Nat) (v : α) (b : Nat × α) (hb : b ∈ FMap.put m k v) :
    b = (k, v) ∨ b ∈ m := by
  induction m with
  | nil => simpa [FMap.put] using hb
  | cons a m ih =>
    obtain ⟨k', v'⟩ := a
    unfold FMap.put at hb
    split at hb
    · simpa using hb
    · split at hb
      · rcases List.mem_cons.1 hb with h | h
        · exact .inl h
        · exact .inr (List.mem_cons_of_mem _ h)
      · rcases List.mem_cons.1 hb with h | h
        · exact .inr (by simp [h])
        · rcases ih h with h | h
          · exact .inl h
          · exact .inr (List.mem_cons_of_mem _ h)

theorem FMap.sorted_put {α : Type} (m : FMap α) (k : Nat) (v : α) (h : FMap.sorted m = true) :
    FMap.sorted (FMap.put m k v) = true := by
  induction m with
  | nil => rfl
  | cons a m ih =>
    obtain ⟨k', v'⟩ := a
    have hs := (FMap.sorted_cons (k', v') m).1 h
    unfold FMap.put
    split
    · rename_i hk
      rw [FMap.sorted_cons]
      refine ⟨fun b hb => ?_, h⟩
      rcases List.mem_cons.1 hb with rfl | hb
      · exact hk
      · exact Nat.lt_trans hk (hs.1 b hb)
    · split
      · rename_i hk
        rw [FMap.sorted_cons]
        exact ⟨fun b hb => by rw [hk]; exact hs.1 b hb, hs.2⟩
      · rename_i h1 h2
        rw [FMap.sorted_cons]
        refine ⟨fun b hb => ?_, ih hs.2⟩
        rcases FMap.mem_put m k v b hb with rfl | hb
        · show k' < k
          omega
        · exact hs.1 b hb

/-! The canonical form of memory. -/

theorem memWf_filter (m : List Host.Cell) (p : Host.Cell → Bool) (h : memWf m = true) : memWf (m.filter p) = true := by
  simp only [memWf, Bool.and_eq_true, List.all_eq_true] at h ⊢
  exact ⟨FMap.sorted_filter m p h.1, fun c hc => h.2 c ((List.mem_filter.1 hc).1)⟩

theorem memWf_putCell (m : List Host.Cell) (a : Nat) (b : Byte) (h : memWf m = true) : memWf (putCell m a b) = true := by
  unfold putCell
  split
  · exact memWf_filter m _ h
  · rename_i hb
    simp only [memWf, Bool.and_eq_true, List.all_eq_true] at h ⊢
    refine ⟨FMap.sorted_put m a b h.1, fun c hc => ?_⟩
    rcases FMap.mem_put m a b c hc with rfl | hc
    · simpa using hb
    · exact h.2 c hc

theorem memWf_putCells (bs : List Byte) : ∀ (m : List Host.Cell) (a : Nat), memWf m = true → memWf (putCells m a bs) = true := by
  induction bs with
  | nil => exact fun m a h => h
  | cons b bs ih => exact fun m a h => ih _ _ (memWf_putCell m a b h)

theorem memWf_zeroCells (m : List Host.Cell) (a n : Nat) (h : memWf m = true) : memWf (zeroCells m a n) = true :=
  memWf_filter m _ h

theorem memWf_foldl_putCell {α : Type} (f : α → Nat) (g : α → Byte) (xs : List α) :
    ∀ m : List Host.Cell, memWf m = true → memWf (xs.foldl (fun m x => putCell m (f x) (g x)) m) = true := by
  induction xs with
  | nil => exact fun m h => h
  | cons x xs ih => exact fun m h => ih _ (memWf_putCell m _ _ h)

theorem memWf_undefCells (n : Nat) (p : Nat → Bool) (m : List Host.Cell) (h : memWf m = true) :
    memWf (undefCells n p m) = true :=
  memWf_foldl_putCell _ _ _ _ (memWf_filter m _ h)

theorem memWf_sramWrite (e : TagEntry) (bs : List Byte) :
    ∀ (m : List Host.Cell) (b : Nat), memWf m = true → memWf (sramWrite m e b bs) = true := by
  induction bs with
  | nil => exact fun m b h => h
  | cons x xs ih => exact fun m b h => ih _ _ (memWf_putCell m _ _ h)

/-! Reads after writes. -/

theorem cellAt_putCell_self (m : List Host.Cell) (a : Nat) (b : Byte) : cellAt (putCell m a b) a = b := by
  unfold cellAt putCell
  split
  · rename_i h
    simp [FMap.find_del_self, h]
  · simp [FMap.find_put_self]

theorem cellAt_putCell_of_ne (m : List Host.Cell) {a a' : Nat} (b : Byte) (h : a' ≠ a) :
    cellAt (putCell m a b) a' = cellAt m a' := by
  unfold cellAt putCell
  split
  · rw [FMap.find_del_of_ne _ h]
  · rw [FMap.find_put_of_ne _ _ h]

/-- A run of bytes written: each byte of it reads as written, every other byte as before. -/
theorem cellAt_putCells (bs : List Byte) : ∀ (m : List Host.Cell) (a x : Nat),
    cellAt (putCells m a bs) x = if a ≤ x ∧ x < a + bs.length then bs.getD (x - a) 0 else cellAt m x := by
  induction bs with
  | nil => intro m a x; rw [if_neg (by rw [List.length_nil]; omega)]; rfl
  | cons b bs ih =>
    intro m a x
    rw [putCells, ih]
    by_cases hx : x = a
    · subst hx
      have h : ¬(x + 1 ≤ x ∧ x < x + 1 + bs.length) := by omega
      rw [if_neg h]
      simp [cellAt_putCell_self]
    · rw [cellAt_putCell_of_ne _ _ hx]
      by_cases h : a + 1 ≤ x ∧ x < a + 1 + bs.length
      · have h' : a ≤ x ∧ x < a + (b :: bs).length := by simp; omega
        rw [if_pos h, if_pos h']
        obtain ⟨k, rfl⟩ : ∃ k, x = a + 1 + k := ⟨x - (a + 1), by omega⟩
        have h1 : a + 1 + k - a = k + 1 := by omega
        have h2 : a + 1 + k - (a + 1) = k := by omega
        rw [h1, h2]
        simp
      · have h' : ¬(a ≤ x ∧ x < a + (b :: bs).length) := by simp; omega
        rw [if_neg h, if_neg h']

theorem cellAt_zeroCells (m : List Host.Cell) (a n x : Nat) :
    cellAt (zeroCells m a n) x = if a ≤ x ∧ x < a + n then 0 else cellAt m x := by
  unfold cellAt zeroCells
  rw [FMap.find_filter m (fun k => !(decide (a ≤ k) && decide (k < a + n))) x]
  by_cases h : a ≤ x ∧ x < a + n
  · simp [h]
  · rw [if_neg h]
    have : (!(decide (a ≤ x) && decide (x < a + n))) = true := by
      simp only [Bool.not_eq_true', Bool.and_eq_false_iff, decide_eq_false_iff_not]
      omega
    rw [if_pos this]

end Sys2Proof.Machine
end

