-- ==== Sys2Proof/Laws/Ops.lean ====
section
/-!
SUPPORT. Laws/Ops.lean: what each shared operation can do, said once: counters and the log, and the accesses to memory under every hint.
-/

namespace Sys2Proof.Machine

open Reg

/-! Registers. -/

theorem RegsKept.refl (fs : List Field) (s : State) : RegsKept fs s s := fun _ _ => rfl

theorem RegsKept.trans {fs gs : List Field} {s t u : State} (h : RegsKept fs s t) (k : RegsKept gs t u) : RegsKept (fs ++ gs) s u := by
  intro f hf
  simp only [List.map_append, List.mem_append, not_or] at hf
  rw [k f hf.2, h f hf.1]

/-- A count changes the counter and its shadow alone. -/
theorem State.count_regsKept (s : State) (f : Field) (n : Nat) : RegsKept (counterFields f) s (s.count f n) := by
  intro g hg
  unfold State.count
  unfold counterFields at hg
  split
  · rename_i i hi
    simp only [hi, List.map_cons, List.map_nil, List.mem_cons, List.not_mem_nil, or_false, not_or] at hg
    rw [State.get_bump_of_ne _ _ hg.2, State.get_bump_of_ne _ _ hg.1]
  · rename_i hi
    simp only [hi, List.map_cons, List.map_nil, List.mem_cons, List.not_mem_nil, or_false] at hg
    exact State.get_bump_of_ne _ _ hg

/-- A count counts (R14), where the counter is not its own shadow. -/
theorem State.count_counted (s : State) (f : Field) (n : Nat)
    (h : ∀ i, shadowIndex f.off = some i → f.key ≠ (OBS_AON.COUNT i).key) : Counted f n s (s.count f n) := by
  unfold Counted State.count
  split
  · rename_i i hi
    rw [State.get_bump_of_ne _ _ (h i hi), State.get_bump_self]
  · rw [State.get_bump_self]

/-- A count changes registers alone. -/
theorem State.count_frame (s : State) (f : Field) (n : Nat) : s.count f n = { s with regs := (s.count f n).regs } := by
  unfold State.count State.bump
  by_cases hn : n = 0
  · simp only [hn, if_true]; split <;> rfl
  · simp only [hn, if_false]; split <;> rfl

/-- The counts of frozen cycles change registers alone (R88). -/
theorem countFreeze_frame (s : State) (feed drain both : Nat) :
    countFreeze s feed drain both = { s with regs := (countFreeze s feed drain both).regs } := by
  unfold countFreeze
  rw [State.count_frame (State.count _ _ _), State.count_frame (State.count _ _ _), State.count_frame s]

/-- What no command measures changes registers and the number of the next free value alone (R83, R88). -/
theorem countHeld_frame (s : State) : countHeld s = { s with regs := (countHeld s).regs, free := s.free + 1 } := by
  unfold countHeld State.fresh
  dsimp only
  rw [countFreeze_frame, State.count_frame]

/-- An event offered to a log that has room is queued, and no register changes (R454). -/
theorem State.log_regs (s : State) (e : LogEvent) (h : s.logIn.queue.length < 64) :
    (s.log e).regs = s.regs ∧ (s.log e).logIn.queue.length = s.logIn.queue.length + 1 := by
  unfold State.log
  dsimp only
  split
  · omega
  · simp

/-- An event offered to a full log is dropped (R455). -/
theorem State.log_full (s : State) (e : LogEvent) (h : 64 ≤ s.logIn.queue.length) :
    (s.log e).logIn.queue = s.logIn.queue ∧ (s.log e).flag FLT_FLAGS.LOG_DROP = true := by
  unfold State.log
  dsimp only
  split
  · constructor
    · simp
    · simp [State.flag, FLT_FLAGS.LOG_DROP]
  · omega

/-! Accesses to memory touch the registers, memory, the memory-side cache and the log alone. -/

theorem MemoryOnly.refl (s : State) : MemoryOnly s s := rfl

theorem MemoryOnly.trans {s t u : State} (h : MemoryOnly s t) (k : MemoryOnly t u) : MemoryOnly s u := by
  unfold MemoryOnly at *
  rw [k, h]

theorem MemoryOnly.of_eq {α : Type} {s t : State} {r : α × State} {x : α} (h : MemoryOnly s r.2) (e : r = (x, t)) : MemoryOnly s t := by
  rw [e] at h
  exact h

theorem State.set_memoryOnly (s : State) (f : Field) (v : Nat) : MemoryOnly s (s.set f v) := rfl

theorem State.bump_memoryOnly (s : State) (f : Field) (n : Nat) : MemoryOnly s (s.bump f n) := by
  unfold State.bump
  split <;> rfl

theorem State.count_memoryOnly (s : State) (f : Field) (n : Nat) : MemoryOnly s (s.count f n) := by
  unfold State.count
  split
  · exact (State.bump_memoryOnly s f n).trans (State.bump_memoryOnly _ _ n)
  · exact State.bump_memoryOnly s f n

theorem State.log_memoryOnly (s : State) (e : LogEvent) : MemoryOnly s (s.log e) := by
  unfold State.log
  dsimp only
  split
  · exact (show MemoryOnly s { s with logIn := { s.logIn with offered := s.logIn.offered + 1 } } from rfl).trans
      ((State.count_memoryOnly _ FLT_LOG_DROP_CNT 1).trans (State.set_memoryOnly _ FLT_FLAGS.LOG_DROP 1))
  · rfl

theorem State.logOnce_memoryOnly (s : State) (k : Nat) (e : LogEvent) : MemoryOnly s (s.logOnce k e) := by
  unfold State.logOnce
  split
  · rfl
  · exact (State.log_memoryOnly s e).trans rfl

theorem burst_memoryOnly (s : State) (w : Bool) (l off n : Nat) : MemoryOnly s (burst s w l off n) := by
  unfold burst
  dsimp only
  split
  · exact State.count_memoryOnly _ _ _
  · split <;> exact (State.count_memoryOnly _ _ _).trans (State.count_memoryOnly _ _ _)

/-- A burst moves no byte of memory by itself. -/
theorem burst_mem (s : State) (w : Bool) (l off n : Nat) : (burst s w l off n).mem = s.mem := by
  unfold burst
  dsimp only
  split
  · simp
  · split <;> simp

theorem burst_upsets (s : State) (w : Bool) (l off n : Nat) : (burst s w l off n).upsets = s.upsets := by
  unfold burst
  dsimp only
  split
  · simp
  · split <;> simp

theorem State.escalate_memoryOnly (s : State) (e : LogEvent) : MemoryOnly s (s.escalate e) :=
  (State.count_memoryOnly s _ 1).trans (State.log_memoryOnly _ e)

/-- A lost page is put to firmware, or dropped with a note (R439). -/
theorem fwAsk_retire_memoryOnly (s : State) (p st k : Nat) : MemoryOnly s (fwAsk s (.retirePage p st k)) := by
  unfold fwAsk
  split
  · rfl
  · split
    · exact ((State.count_memoryOnly s _ 1).trans (State.set_memoryOnly _ FLT_FLAGS.QUEUE_DROP 1)).trans (State.log_memoryOnly _ _)
    · rfl

theorem setMemLastErr_memoryOnly (s : State) (k l : Nat) : MemoryOnly s (setMemLastErr s k l) := rfl

theorem burstLost_memoryOnly (s : State) (k l : Nat) : MemoryOnly s (burstLost s k l) :=
  ((State.count_memoryOnly s _ 1).trans (setMemLastErr_memoryOnly _ k l)).trans
    ((State.escalate_memoryOnly _ _).trans (fwAsk_retire_memoryOnly _ _ _ _))

theorem queueHook_memoryOnly (s : State) (t p : Nat) : MemoryOnly s (queueHook s t p) := by
  unfold queueHook
  split
  · rfl
  · dsimp only
    split
    · exact ((State.set_memoryOnly s FLT_FLAGS.DATA_LOST 1).trans (State.count_memoryOnly _ _ 1)).trans (State.log_memoryOnly _ _)
    · rfl

theorem MemoryOnly.foldl {α : Type} (f : State → α → State) (h : ∀ s x, MemoryOnly s (f s x)) :
    ∀ (xs : List α) (s : State), MemoryOnly s (xs.foldl f s)
  | [], s => .refl s
  | x :: xs, s => (h s x).trans (MemoryOnly.foldl f h xs (f s x))

/-- What an access meets is taken from what has struck. -/
theorem meet_memoryOnly {α : Type} (s : State) (f : Upset → Option α) : MemoryOnly s (meet s f).2 := by
  unfold meet
  split <;> rfl

/-- Where nothing has struck an access meets nothing. -/
theorem meet_none {α : Type} (s : State) (f : Upset → Option α) (h : s.upsets = []) : meet s f = (none, s) := by
  simp [meet, h, pickUpset]

theorem burstEnd_memoryOnly (s : State) (l off n : Nat) : MemoryOnly s (burstEnd s l off n).2 := by
  unfold burstEnd
  have hm := fun f => meet_memoryOnly (α := List BurstTry) s f
  split
  · rename_i t he
    exact (hm _).of_eq he
  · rename_i ts t he
    have ht : MemoryOnly s t := (hm _).of_eq he
    dsimp only
    split
    · refine MemoryOnly.trans ?_ (burstLost_memoryOnly _ _ _)
      split
      · exact ht
      · exact ht.trans (State.count_memoryOnly _ _ _)
    · dsimp only
      split
      · exact ht
      · exact (ht.trans (State.count_memoryOnly _ _ _)).trans (State.count_memoryOnly _ _ _)

theorem readBurst_memoryOnly (s : State) (l off n : Nat) : MemoryOnly s (readBurst s l off n).2 :=
  (burst_memoryOnly s false l off n).trans (burstEnd_memoryOnly _ l off n)

theorem writeLost_memoryOnly (s : State) (l a n : Nat) : MemoryOnly s (writeLost s l a n) :=
  MemoryOnly.trans (t := { s.fresh.2 with
    mem := undefCells s.fresh.1 (fun x => decide (a ≤ x) && decide (x < a + n)) s.fresh.2.mem }) rfl (burstLost_memoryOnly _ 2 l)

theorem writeBurst_memoryOnly (s : State) (l off : Nat) (bs : List Byte) : MemoryOnly s (writeBurst s l off bs).2 := by
  unfold writeBurst
  have hb := burst_memoryOnly s true l off bs.length
  dsimp only
  split
  · exact hb
  · have hm := fun f => hb.trans (meet_memoryOnly (α := List BurstTry) _ f)
    split
    · rename_i t he
      exact ((hm _).of_eq he).trans rfl
    · rename_i ts t he
      have ht : MemoryOnly s t := (hm _).of_eq he
      split
      · exact (ht.trans (State.count_memoryOnly _ _ _)).trans (writeLost_memoryOnly _ _ _ _)
      · exact (ht.trans (State.count_memoryOnly _ _ _)).trans rfl

theorem stackStore_memoryOnly (s : State) (l off : Nat) (bs : List Byte) : MemoryOnly s (stackStore s l off bs) :=
  writeBurst_memoryOnly s l off bs

/-- Bytes stored in a stack whose interface has not been struck change those bytes alone, and none of a retired page (R251). -/
theorem stackStore_cell (s : State) (l off : Nat) (bs : List Byte) (a : Nat) (hu : s.upsets = []) :
    cellAt (stackStore s l off bs).mem a =
      if pageRetired s (pageOf l) = false ∧ l * 2048 + off ≤ a ∧ a < l * 2048 + off + bs.length
      then bs.getD (a - (l * 2048 + off)) 0 else cellAt s.mem a := by
  unfold stackStore writeBurst
  dsimp only
  rw [meet_none _ _ (by rw [burst_upsets]; exact hu)]
  split
  · rename_i h
    simp [h, burst_mem]
  · rename_i h
    have h' : pageRetired s (pageOf l) = false := by simpa using h
    simp only [h', true_and]
    rw [cellAt_putCells, burst_mem]

theorem putLines_memoryOnly (s : State) (k : Nat) (ls : List Line) : MemoryOnly s (putLines s k ls) := rfl

theorem dropLine_memoryOnly (s : State) (l : Nat) : MemoryOnly s (dropLine s l) := rfl

theorem cacheError_memoryOnly (s : State) (x : Line) (e : EccErr) : MemoryOnly s (cacheError s x e).2 := by
  unfold cacheError
  split
  · rfl
  · exact State.count_memoryOnly s MEM_CACHE_CE_CNT 1
  · exact State.count_memoryOnly s MEM_CACHE_UE_CNT 1
  · have h := (State.count_memoryOnly s MEM_CACHE_UE_CNT 1).trans (dropLine_memoryOnly _ x.line)
    dsimp only
    split
    · exact h
    · exact (h.trans ((State.count_memoryOnly _ _ _).trans ((setMemLastErr_memoryOnly _ _ _).trans
        (State.escalate_memoryOnly _ _)))).trans (MemoryOnly.foldl _ (fun s t => queueHook_memoryOnly s t _) _ _)

theorem meetLine_memoryOnly (s : State) (x : Line) : MemoryOnly s (meetLine s x).2 := by
  unfold meetLine
  have hm := fun f => meet_memoryOnly (α := EccErr) s f
  split
  · rename_i t he
    exact (hm _).of_eq he
  · rename_i e t he
    exact MemoryOnly.trans ((hm _).of_eq he) (cacheError_memoryOnly _ _ _)

theorem meetResident_memoryOnly (s : State) (l : Nat) : MemoryOnly s (meetResident s l).2 := by
  unfold meetResident
  split
  · exact meetLine_memoryOnly _ _
  · rfl

theorem meetLine_none (s : State) (x : Line) (h : s.upsets = []) : meetLine s x = (false, s) := by
  unfold meetLine
  rw [meet_none _ _ h]

theorem meetResident_none (s : State) (l : Nat) (h : s.upsets = []) : meetResident s l = (false, s) := by
  unfold meetResident
  split
  · exact meetLine_none s _ h
  · rfl

theorem writeBack_memoryOnly (s : State) (x : Line) : MemoryOnly s (writeBack s x).2 := by
  unfold writeBack
  dsimp only
  split
  · exact meetLine_memoryOnly s x
  · exact ((meetLine_memoryOnly s x).trans (writeBurst_memoryOnly _ x.line 0 _)).trans (State.count_memoryOnly _ MEM_WRITEBACK_CNT 1)

theorem makeRoom_memoryOnly (s : State) (k : Nat) : MemoryOnly s (makeRoom s k) := by
  unfold makeRoom
  dsimp only
  split
  · rfl
  · split
    · rfl
    · refine MemoryOnly.trans ?_ (dropLine_memoryOnly _ _)
      split
      · exact writeBack_memoryOnly s _
      · rfl

theorem keepRoom_memoryOnly (s : State) (k l : Nat) : MemoryOnly s (keepRoom s k l) := by
  unfold keepRoom
  dsimp only
  split
  · rfl
  · split
    · rfl
    · exact (State.count_memoryOnly _ _ _).trans (putLines_memoryOnly _ _ _)

theorem putFront_memoryOnly (s : State) (x : Line) : MemoryOnly s (putFront s x) := putLines_memoryOnly _ _ _

theorem touchLine_memoryOnly (s : State) (h : Hint) (x : Line) : MemoryOnly s (touchLine s h x) := by
  unfold touchLine
  split
  · exact putFront_memoryOnly _ _
  · exact (keepRoom_memoryOnly _ _ _).trans (putFront_memoryOnly _ _)
  · exact putLines_memoryOnly _ _ _

theorem allocLine_memoryOnly (s : State) (h : Hint) (x : Line) : MemoryOnly s (allocLine s h x) := by
  unfold allocLine
  dsimp only
  split
  · exact (makeRoom_memoryOnly _ _).trans ((keepRoom_memoryOnly _ _ _).trans (putFront_memoryOnly _ _))
  · exact (makeRoom_memoryOnly _ _).trans (putFront_memoryOnly _ _)

theorem allocLru_memoryOnly (s : State) (x : Line) : MemoryOnly s (allocLru s x) :=
  (makeRoom_memoryOnly _ _).trans (putLines_memoryOnly _ _ _)

theorem putStreams_memoryOnly (s : State) (half : Nat) (ss : List Stream) : MemoryOnly s (putStreams s half ss) := by
  unfold putStreams
  split <;> rfl

theorem requestPrefetch_memoryOnly (s : State) (ch : Nat) (l : Int) : MemoryOnly s (requestPrefetch s ch l) := by
  unfold requestPrefetch
  split
  · rfl
  · dsimp only
    split <;> rfl

theorem requestWindow_memoryOnly (s : State) (ch l : Nat) (d : Int) (k : Nat) : MemoryOnly s (requestWindow s ch l d k) := by
  induction k with
  | zero => rfl
  | succ k ih => exact ih.trans (requestPrefetch_memoryOnly _ _ _)

theorem advanceStream_memoryOnly (s : State) (half : Nat) (x : Stream) (d : Int) (l : Nat) :
    MemoryOnly s (advanceStream s half x d l) :=
  (putStreams_memoryOnly _ _ _).trans (requestWindow_memoryOnly _ _ _ _ _)

theorem streamHit_memoryOnly (s : State) (ch l : Nat) : MemoryOnly s (streamHit s ch l) := by
  unfold streamHit
  split
  · split
    · split
      · exact advanceStream_memoryOnly _ _ _ _ _
      · rfl
    · rfl
  · rfl

theorem streamMiss_memoryOnly (s : State) (ch l : Nat) : MemoryOnly s (streamMiss s ch l) := by
  unfold streamMiss
  split
  · rfl
  · split
    · exact putStreams_memoryOnly _ _ _
    · split
      · dsimp only
        split
        · exact ((putStreams_memoryOnly _ _ _).trans (State.count_memoryOnly _ _ _)).trans (requestWindow_memoryOnly _ _ _ _ _)
        · exact (show MemoryOnly s (dropStream s ch) from rfl).trans (putStreams_memoryOnly _ _ _)
      · split
        · exact advanceStream_memoryOnly _ _ _ _ _
        · split
          · rfl
          · exact (show MemoryOnly s (dropStream s ch) from rfl).trans (putStreams_memoryOnly _ _ _)

theorem noteHit_memoryOnly (s : State) (x : Line) : MemoryOnly s (noteHit s x) := by
  unfold noteHit
  dsimp only
  split
  · exact (State.count_memoryOnly _ _ _).trans (State.count_memoryOnly _ _ _)
  · exact State.count_memoryOnly _ _ _

theorem lastRead_memoryOnly (s : State) (x : Line) : MemoryOnly s (lastRead s x) := by
  unfold lastRead
  dsimp only
  split
  · exact (((State.count_memoryOnly _ _ _).trans (dropLine_memoryOnly _ _)).trans (State.count_memoryOnly _ _ _)).trans rfl
  · exact ((State.count_memoryOnly _ _ _).trans (dropLine_memoryOnly _ _)).trans rfl

theorem outsideMap_memoryOnly (s : State) : MemoryOnly s (outsideMap s) :=
  (State.count_memoryOnly _ _ _).trans (State.log_memoryOnly _ _)

/-- A read within a line whose fill is not on its way, under any hint. -/
theorem readLine_memoryOnly (s : State) (ch : Nat) (h : Hint) (l off n : Nat) : MemoryOnly s (readLine s ch h l off n).2 := by
  unfold readLine
  split
  · exact State.count_memoryOnly s MEM_RETIRED_ACC_CNT 1
  · dsimp only
    have he := meetResident_memoryOnly s l
    generalize meetResident s l = e at he ⊢
    split
    · exact he
    · split
      · rename_i x _
        refine MemoryOnly.trans (t := streamHit (noteHit e.2 x) ch l)
          (he.trans ((noteHit_memoryOnly _ _).trans (streamHit_memoryOnly _ ch l))) ?_
        dsimp only
        split
        · exact lastRead_memoryOnly _ _
        · exact touchLine_memoryOnly _ _ _
      · have m := he.trans ((State.count_memoryOnly e.2 MEM_CACHE_MISS_CNT 1).trans (streamMiss_memoryOnly _ ch l))
        have r := m.trans (readBurst_memoryOnly _ l 0 2048)
        cases h
        case normal | keep =>
          dsimp only
          split
          · rename_i hr
            exact r.of_eq hr
          · rename_i e' t _ hr
            refine MemoryOnly.trans (t := t) (r.of_eq hr) ?_
            dsimp only
            exact allocLine_memoryOnly _ _ _
        all_goals exact m.trans (readBurst_memoryOnly _ l off n)

/-- A write within a line whose fill is not on its way, under any hint. -/
theorem writeLine_memoryOnly (s : State) (ch : Nat) (h : Hint) (l off : Nat) (bs : List Byte) :
    MemoryOnly s (writeLine s ch h l off bs) := by
  unfold writeLine
  split
  · exact State.count_memoryOnly _ _ _
  · dsimp only
    have he := meetResident_memoryOnly s l
    generalize (meetResident s l).2 = e at he ⊢
    split
    · exact he.trans ((noteHit_memoryOnly _ _).trans ((streamHit_memoryOnly _ ch _).trans (touchLine_memoryOnly _ _ _)))
    · have m := he.trans ((State.count_memoryOnly e MEM_CACHE_MISS_CNT 1).trans (streamMiss_memoryOnly _ ch l))
      have r := m.trans (readBurst_memoryOnly _ l 0 2048)
      cases h
      case normal | keep =>
        dsimp only
        split
        · exact m.trans (allocLine_memoryOnly _ _ _)
        · split
          · rename_i hr
            exact (r.of_eq hr).trans (stackStore_memoryOnly _ _ _ _)
          · rename_i hr
            exact (r.of_eq hr).trans (allocLine_memoryOnly _ _ _)
      all_goals exact m.trans (stackStore_memoryOnly _ _ _ _)

theorem serveFill_memoryOnly (new : Line) (s : State) (f : Fill) : MemoryOnly s (serveFill new s f) := by
  unfold serveFill
  split
  · rfl
  · split
    · exact MemoryOnly.trans (t := setReply s _) rfl (touchLine_memoryOnly _ _ _)
    · exact touchLine_memoryOnly _ _ _
    · rfl
    · exact stackStore_memoryOnly _ _ _ _

theorem fillArrives_memoryOnly (s : State) (l : Nat) : MemoryOnly s (fillArrives s l) := by
  unfold fillArrives
  split
  · rfl
  rename_i w _
  dsimp only
  have h0 : MemoryOnly s { s with memory := { s.memory with
      fills := s.memory.fills.filter (fun f => !(f.line == l && f.wave == w)) } } := rfl
  have hl : ∀ (xs : List Fill) (s : State), MemoryOnly s (xs.foldl (fun s f =>
      match f.write with | none => setReply s (List.replicate f.len 0) | some d => stackStore s l f.off d) s) :=
    MemoryOnly.foldl _ (fun s f => by split; · rfl
                                      · exact stackStore_memoryOnly _ _ _ _)
  split
  · exact h0.trans (hl _ _)
  · have hb := h0.trans (burstEnd_memoryOnly _ l 0 2048)
    split
    · rename_i he
      exact (hb.of_eq he).trans (hl _ _)
    · rename_i he
      refine (hb.of_eq he).trans (MemoryOnly.trans ?_ (MemoryOnly.foldl _ (serveFill_memoryOnly _) _ _))
      split
      · rfl
      · split
        · exact allocLru_memoryOnly _ _
        · exact allocLine_memoryOnly _ _ _

/-- A step repeated. -/
theorem MemoryOnly.iter (f : State → State) (h : ∀ s, MemoryOnly s (f s)) (n : Nat) : ∀ s, MemoryOnly s (iter f n s) := by
  induction n with
  | zero => exact fun s => rfl
  | succ n ih => exact fun s => (h s).trans (ih (f s))

theorem settleFill_memoryOnly (s : State) (h : Hint) (l : Nat) : MemoryOnly s (settleFill s h l) := by
  unfold settleFill
  dsimp only
  refine MemoryOnly.trans ?_ (MemoryOnly.iter _ (fun s => fillArrives_memoryOnly s l) _ _)
  split <;> rfl

theorem serveWait_memoryOnly (s : State) (w : WaitReq) : MemoryOnly s (serveWait s w) := by
  obtain ⟨chan, hint, addr, ask⟩ := w
  cases ask
  · exact (settleFill_memoryOnly s _ _).trans (MemoryOnly.trans (readLine_memoryOnly _ _ _ _ _ _) rfl)
  · exact (settleFill_memoryOnly s _ _).trans (writeLine_memoryOnly _ _ _ _ _ _)

theorem serveWaiting_memoryOnly (s : State) (p : WaitReq → Bool) : MemoryOnly s (serveWaiting s p) := by
  unfold serveWaiting
  split
  · exact MemoryOnly.trans (t := { s with memory := { s.memory with waiting := s.memory.waiting.filter (fun w => !p w) } }) rfl
      (MemoryOnly.foldl _ serveWait_memoryOnly _ _)
  · rfl

theorem awaitRoom_memoryOnly (s : State) (l : Nat) : MemoryOnly s (awaitRoom s l) := by
  unfold awaitRoom
  split
  · rfl
  · split
    · rfl
    · exact fillArrives_memoryOnly _ _

theorem settleLine_memoryOnly (s : State) (h : Hint) (l : Nat) : MemoryOnly s (settleLine s h l) := by
  unfold settleLine
  dsimp only
  have h0 := (settleFill_memoryOnly s h l).trans (serveWaiting_memoryOnly _ (fun w => lineOf w.addr == l))
  split
  · exact h0
  · exact h0.trans ((serveWaiting_memoryOnly _ _).trans (awaitRoom_memoryOnly _ _))

/-- Where no fill and no request waits for a line nothing comes before an access to it. -/
theorem settleLine_none (s : State) (h : Hint) (l : Nat) (hf : s.memory.fills = []) (hw : s.memory.waiting = []) :
    settleLine s h l = s := by
  have hd : discardFills s l = s := by
    show { s with memory := { s.memory with fills := s.memory.fills.map _ } } = s
    rw [hf, List.map_nil, ← hf]
  simp [settleLine, settleFill, serveWaiting, awaitRoom, ctrlQueue, iter, hf, hw, hd]

/-- A read within one line, under any hint. -/
theorem lineRead_memoryOnly (s : State) (ch : Nat) (h : Hint) (a n : Nat) : MemoryOnly s (lineRead s ch h a n).2 := by
  unfold lineRead
  split
  · exact outsideMap_memoryOnly s
  · exact (settleLine_memoryOnly _ _ _).trans (readLine_memoryOnly _ _ _ _ _ _)

/-- A write within one line, under any hint. -/
theorem lineWrite_memoryOnly (s : State) (ch : Nat) (h : Hint) (a : Nat) (bs : List Byte) :
    MemoryOnly s (lineWrite s ch h a bs) := by
  unfold lineWrite
  split
  · exact outsideMap_memoryOnly s
  · exact (settleLine_memoryOnly _ _ _).trans (writeLine_memoryOnly _ _ _ _ _ _)

theorem stackReadGo_memoryOnly (ch : Nat) (h : Hint) (fuel : Nat) :
    ∀ (s : State) (a n : Nat), MemoryOnly s (stackReadGo ch h fuel s a n).2 := by
  induction fuel with
  | zero => exact fun s a n => rfl
  | succ k ih =>
    intro s a n
    unfold stackReadGo
    split
    · rfl
    · exact (lineRead_memoryOnly s ch h a _).trans (ih _ _ _)

theorem stackWriteGo_memoryOnly (ch : Nat) (h : Hint) (fuel : Nat) :
    ∀ (s : State) (a : Nat) (bs : List Byte), MemoryOnly s (stackWriteGo ch h fuel s a bs) := by
  induction fuel with
  | zero => exact fun s a bs => rfl
  | succ k ih =>
    intro s a bs
    unfold stackWriteGo
    split
    · rfl
    · exact (lineWrite_memoryOnly s ch h a _).trans (ih _ _ _)

theorem protFail_memoryOnly (s : State) : MemoryOnly s (protFail s) :=
  (State.count_memoryOnly _ _ _).trans (State.logOnce_memoryOnly _ _ _)

/-- A word lost leaves its place zero, an escalation, and the hooks of the tags that cover it. -/
theorem wordError_memoryOnly (s : State) (a : Nat) (e : EccErr) : MemoryOnly s (wordError s a e) := by
  unfold wordError
  split
  · rfl
  · exact MemoryOnly.trans (t := eccLast s a false) rfl (State.count_memoryOnly _ _ _)
  · exact MemoryOnly.trans (t := eccLast s a true) rfl (State.count_memoryOnly _ _ _)
  · have h : MemoryOnly s ((eccLast s a true).count TAG_ECC_UE_CNT 1) :=
      MemoryOnly.trans (t := eccLast s a true) rfl (State.count_memoryOnly _ _ 1)
    exact MemoryOnly.trans (MemoryOnly.trans (t := { (eccLast s a true).count TAG_ECC_UE_CNT 1 with
        mem := zeroCells ((eccLast s a true).count TAG_ECC_UE_CNT 1).mem (a / 8 * 8) 8 }) (h.trans rfl) (State.escalate_memoryOnly _ _))
      (MemoryOnly.foldl _ (fun s t => queueHook_memoryOnly s t _) _ _)

theorem meetWords_memoryOnly (s : State) (p : Nat → Bool) : MemoryOnly s (meetWords s p) := by
  unfold meetWords
  split
  · rfl
  · refine MemoryOnly.trans ?_ (MemoryOnly.foldl _ (fun s u => ?_) _ _)
    · rfl
    · split
      · exact wordError_memoryOnly _ _ _
      · rfl

theorem freshWords_memoryOnly (s : State) (p : Nat → Bool) : MemoryOnly s (freshWords s p) := by
  unfold freshWords
  split <;> rfl

/-- A read of a tag, wherever the tag lies. -/
theorem tagRead_memoryOnly (s : State) (c : Chan) (off : Int) (n : Nat) : MemoryOnly s (tagRead s c off n).2 := by
  unfold tagRead
  dsimp only
  split
  · split
    · exact stackReadGo_memoryOnly _ _ _ _ _ _
    · dsimp only
      exact meetWords_memoryOnly s _
  · exact protFail_memoryOnly s

/-- A write of a tag, wherever the tag lies. -/
theorem tagWrite_memoryOnly (s : State) (c : Chan) (off : Int) (bs : List Byte) : MemoryOnly s (tagWrite s c off bs) := by
  unfold tagWrite
  dsimp only
  split
  · split
    · exact stackWriteGo_memoryOnly _ _ _ _ _ _
    · exact (freshWords_memoryOnly s _).trans rfl
  · exact protFail_memoryOnly s

/-- The bytes that a read delivers are as many as it asks for. -/
theorem sramRead_length (m : List Host.Cell) (e : TagEntry) (n : Nat) : ∀ b, (sramRead m e b n).length = n := by
  induction n with
  | zero => exact fun b => rfl
  | succ n ih => exact fun b => by simp [sramRead, ih]

end Sys2Proof.Machine
end

