-- ==== Sys2Proof/WellFormed.lean ====
section
/-!
DEFINITION. WellFormed.lean: the commands that the world outside can send: operands within the ranges that the spec gives the things they
name. The meanings are total, so a command that is not well formed stops nothing; no statement speaks of one.
-/

namespace Sys2Proof

/-- The bytes of stack memory (Table 0.5), its lines (R228), and the bytes of a BAR2 window (18 R512). -/
def stackSize : Nat := 768 * 2 ^ 30
def lineCount : Nat := stackSize / 2048
def windowSize : Nat := 4 * 2 ^ 20

/-- A request to stack memory stays within one line (R231). -/
def oneLine (addr len : Nat) : Bool := decide (1 ≤ len) && decide (addr % 2048 + len ≤ 2048)

/-- The bytes of a request. -/
def askLen (ask : MemAsk) : Nat :=
  match ask with
  | .read n => n
  | .write data => data.length

/-- A picture's planes have the lengths that its size gives, and its depth is 8 or 10 (R388). -/
def pictureOk (p : Picture) : Bool :=
  let c := (p.width + 1) / 2 * ((p.height + 1) / 2)
  (p.depth == 8 || p.depth == 10) && p.luma.length == p.width * p.height && p.luma.all (fun v => decide (v < 2 ^ p.depth))
    && (p.mono || (p.cb.length == c && p.cr.length == c && p.cb.all (fun v => decide (v < 2 ^ p.depth))
      && p.cr.all (fun v => decide (v < 2 ^ p.depth))))

/-- The faults of a combine's circuits, attempt by attempt: none (0), one that the sum check (2) or the narrowing check (3) finds, or one in reading or
aligning input `i` of the eighteen that a combine may have (4 + `i`). -/
def circuitsOk (hw : List Nat) : Bool := decide (hw.length ≤ 3) && hw.all (fun n => n != 1 && decide (n < 22))

/-- What strikes lies where it can: at a word, or in a line of stack memory, with at most the three attempts of a burst (R249). -/
def Upset.wf (u : Upset) : Bool :=
  match u with
  | .word a _ => a % 8 == 0
  | .line l _ => decide (l < lineCount)
  | .link _ _ | .program | .hostLink => true
  | .record typ key _ => decide (typ < 2 ^ 8) && decide (key < 2 ^ 32)
  | .readBurst l ts | .writeBurst l ts => decide (l < lineCount) && decide (ts.length ≤ 3)

/-- The cycles of a stall that are counted elsewhere are among its own. -/
def StallTime.wf (t : StallTime) : Bool := decide (t.shared ≤ t.cycles) && decide (t.frozen ≤ t.cycles)

/-- A command is well formed. [DESIGN CHOICE, log entry 8] -/
def Instr.wf (i : Instr) : Bool :=
  match i with
  | .checkTileComplete _ upsets => upsets.all (fun u => decide (u.1 < 32) && decide (u.2.1 < 192))
  | .checkInj _ count => decide (count < 4)
  | .combineFire _ _ hw => circuitsOk hw
  | .reduceClose c => c.hw.all (fun e => circuitsOk e.2)
  | .hookQueue tag page => decide (tag < 4096) && (match page with | some p => decide (p < 2 ^ 24) | none => true)
  | .slotStallResume _ time => time.wf
  | .slotReadTimeout _ time => time.wf
  | .slotWriteTimeout _ time => time.wf
  | .patrolRead _ upsets => upsets.all Upset.wf
  | .memRequest _ _ addr ask bursts cells => decide (addr.toNat < stackSize) && oneLine addr.toNat (askLen ask) && (bursts ++ cells).all Upset.wf
  | .cacheFillArrive line upsets => decide (line < lineCount) && upsets.all Upset.wf
  | .prefetchIssue line _ => decide (line < lineCount)
  | .prefetchDrop line => decide (line < lineCount)
  | .flitReceive _ data => data.length == 256
  | .quickRetrain _ _ _ _ credits => decide (credits.length ≤ 16)
  | .frameDecode _ f pic => pictureOk pic && !f.units.isEmpty
  | .imageWindowWrite offset data => decide (offset.toNat + data.length ≤ windowSize)
  | .windowRead _ off len => decide (off.toNat + len.toNat ≤ windowSize)
  | .windowWrite _ off data => decide (off.toNat + data.length ≤ windowSize)
  | .pcieLinkUp rate width flit =>
    decide (1 ≤ rate.toNat) && decide (rate.toNat ≤ 6) && [1, 2, 4].contains width.toNat && (flit || rate != 6)
  | .sampleTake _ p => p.queued.length == 12
  | .writeBurstRejected addr len _ => decide (addr.toNat < stackSize) && oneLine addr.toNat len
  | .halt _ | .waitTick _ | .waitSlot _ _ | .waitDone _ | .signalClose _ | .signalDrain _ | .signalSet _ | .setc _ | .loop _
  | .br _ | .call _ | .ret _ | .lds _ | .loadw _ | .stream _ | .drain _ | .densePass _ _ _ _ | .weightLoad _
  | .recomputeTile _ | .deferredPass | .denseOpComplete | .panelRetire _ | .panelRevive _ | .nop _ | .add _
  | .sub _ | .mul _ | .fma _ | .axpby _ | .max _ | .min _ | .abs _ | .sel _ | .relu _ | .convert _ | .rcp _ | .rsqrt _
  | .sqrt _ | .exp _ | .log _ | .tanh _ | .sigmoid _ | .gelu _ | .silu _ | .rowsum _ | .rowmax _ | .rowsumsq _ | .softmax _
  | .layernorm _ | .rmsnorm _ | .updSgdm _ | .upd2mom _ | .gather _ | .scatter _ | .scatterMerge _ | .spmm _ | .compress _
  | .expand _ | .droverOpComplete _ | .selectSend _ | .resend _ | .routeReturn _ | .combine _ | .routeAllocGo _
  | .routeAllocTimeout | .shuffleSend | .tally _ | .check _ | .xferLocal _ | .xferWindowWrite _ | .xferNeighbourSend _
  | .xferWindowRead _ | .reduce _ | .sourceBlockForm _ | .resultMissing _ | .reduceComplete _ | .adjReview _ | .stepStart
  | .stepComplete | .forcedHalt _ | .hookTake _ | .descCommit _ | .descValidateDone | .streamIdleFree _ _ | .pageRetire
  | .pageRepair _ _ | .cacheFlush | .unkeep | .portTrain _ _ _ _ _ | .partnerDetectRetry _ _ _ _ _ | .downRetry _ _ _ _
  | .widthChange _ | .flitTransmit _ | .nakRepeat _ | .retrain _ _ _ _ | .portDisable _ | .fulltrain _ _ _ _ _
  | .heartbeatSend | .heartbeat _ | .neighbourLost _ | .epochChange _ | .censusStart | .censusReq _ | .censusReply _
  | .censusWaitExpire | .censusOk _ | .notify _ | .vacateEpoch | .deadlineAdj _ | .adopt _ | .adoptFetch | .adoptComplete
  | .winWrite _ | .winRead _ | .winData _ | .winDone _ | .winTimeout _ | .neighbour _ | .routedRow _ | .routeClose _
  | .sample _ | .g16 _ _ | .timecode _ _ _ _ | .timecodeSend _ | .sendTc | .tickSet _ | .tickEdge _ | .tickLoss
  | .freewheelAdvance | .schedInstall _ _ | .powerEntryFire | .checkpointEntryFire | .governorAdmit _ | .vetoRelease _
  | .vetoExpire _ _ | .predictorSample | .predReset | .ethPortTrain _ _ | .ethFrameReceive _ _ _ _ | .pfcFrame _ _ _
  | .sampleFetch | .readIssue _ | .readResponse _ _ _ _ _ | .acknowledge _ _ | .transportTimeout _ | .qpReset _ | .qpResetAll
  | .pipeAssign _ | .tokeniseFrame | .sampleDeliver _ _ _ | .sampleAbandon | .lockstepMismatch _ | .firmwareResume _ _
  | .wdogKick | .watchdogReset | .snapshot | .yield | .lockstepInj _ | .logEntryWrite | .w1cClear _ _ | .rcRead _ _
  | .registerWrite _ _ _ | .addressError _ _ | .imgOpen _ | .store _ | .load _ | .storeLoad _ | .delete _ | .default _
  | .switch _ | .owner _ | .nodefault _ | .imgOpComplete _ _ | .imageInstall | .fwStage | .fwStore | .fwSwitch | .fwSwitchExec
  | .journalCompact | .quote | .quoteSigned | .supplySample _ | .stage4CommitDone _ | .brownOut | .overvoltage | .pwrFail _
  | .powerOn | .pinReset _ | .engineReset _ | .chipReset _ | .debugReset | .clockFailure | .clockRecover
  | .releaseStepComplete _ _ | .thermalTrip _ _ | .alertJudgement _ _ _ _ _ _ _ | .bar0BadAccess | .windowConfig _ _
  | .functionReset _ | .pcieLinkDown | .mirrorWrite | .msixMessage | .kill _ | .ident _ _ | .status _ _ | .telem _ _
  | .temp _ _ | .energy _ _ | .alert _ _ | .cause _ _ | .stages _ _ | .position _ _ | .reset _ _ | .setdasa _ _ _
  | .entdaa _ _ _ | .rstdaa _ | .enec _ _ | .disec _ _ | .getpid _ | .getbcr _ | .getdcr _ | .getstatus _ | .setmwl _ _
  | .getmwl _ | .setmrl _ _ | .getmrl _ | .inBandInterrupt _ | .ibiRetry _ | .runArm | .runStop | .ringBurstWrite
  | .ringBurstAccept | .brownOutRelease | .overvoltageRelease | .powerLoss | .fwOpComplete _ _
  | .lifetimeWrite | .vectorUnmask | .holdoffExpire | .busMasterEnable _ _ => true

end Sys2Proof
end

