-- ==== Sys2Proof/Tests/Slice0.lean ====
section
/-!
SUPPORT. Tests/Slice0.lean: terms that are not well formed, words and steps worked out by hand from the spec, and for each statement states and
operands that meet its hypotheses.
-/

namespace Sys2Proof.Tests

open Sys2Proof.Machine Sys2Proof.Machine.Reg

set_option Elab.async false

/-! Small states. -/

def withRegs (s : State) (l : List (Field × Nat)) : State := l.foldl (fun s p => s.set p.1 p.2) s

/-- `s` with entry `t` of the tag table (Table 7.1). -/
def withTag (s : State) (t w0 w1 w2 w3 : Nat) : State :=
  withRegs s [(TAG_TABLE.WORD (4 * t), w0), (TAG_TABLE.WORD (4 * t + 1), w1), (TAG_TABLE.WORD (4 * t + 2), w2), (TAG_TABLE.WORD (4 * t + 3), w3)]

/-- `s` with instruction `i` at the start of sequencer `q`'s program store, and the sequencer running there. -/
def running (s : State) (q : Fin 4) (i : SeqInsn) : State :=
  (withRegs s [(SEQ_PROG.WORD (q.val * 8192), SeqInsn.encode i % 2 ^ 64), (SEQ_PROG.WORD (q.val * 8192 + 1), SeqInsn.encode i / 2 ^ 64)]).setSeqr q
    { SeqState.reset with running := true }

/-- Tag 0 in the accumulator buffer with two slots of a page, tag 1 in the stacks, tag 2 in slice 0 of the scratchpad. -/
def tagged : State :=
  withTag (withTag (withTag State.reset 0 (1 + 2 * 2 + 8 + 16) (2 + 2 * 2 ^ 28 + 2 ^ 36) (2 ^ 16 + 2 ^ 32) 0)
    1 (1 + 1 * 2 + 8 + 16 + 0x100 * 2 ^ 20) 16 0 0) 2 (1 + 8 + 16) 16 0 0

/-- A sequencer that runs and stands at an instruction that it may issue. -/
theorem at_of {s : State} {q : Fin 4} {i : SeqInsn}
    (h : ((s.seqr q).running && (match SeqInsn.decode (currentWord s q) with | .ok j => j == i | .error _ => false)
      && SeqInsn.allowed q i) = true) : AtInsn s q i := by
  simp only [Bool.and_eq_true] at h
  refine ⟨h.1.1, ?_, h.2⟩
  have h2 := h.1.2
  split at h2
  · rename_i j hj
    rw [hj, eq_of_beq h2]
  · simp at h2

/-! Sequencers. -/

theorem witness_ControlInstructionsTakeEffect :
    AtInsn (running .reset 0 (.setc 14 true 5)) 0 (.setc 14 true 5) ∧ AtInsn (running .reset 1 (.loop 14 7)) 1 (.loop 14 7)
    ∧ AtInsn (running .reset 2 (.br 0 6 0 4095)) 2 (.br 0 6 0 4095) ∧ AtInsn (running .reset 3 (.call 9)) 3 (.call 9)
    ∧ ((running .reset 3 (.call 9)).seqr 3).calls.length < 8
    ∧ AtInsn (running .reset 0 (.setc 15 true 1)) 0 (.setc 15 true 1) ∧ AtInsn (running .reset 0 (.loop 15 0)) 0 (.loop 15 0)
    ∧ (∀ s, s = (running .reset 0 .ret).setSeqr 0 { SeqState.reset with running := true, calls := [4095] } →
      AtInsn s 0 .ret ∧ (s.seqr 0).calls = [4095] ∧ ∀ x ∈ (s.seqr 0).frames, x.1 ≠ (s.seqr 0).calls.length) := by
  refine ⟨at_of (by decide +kernel), at_of (by decide +kernel), at_of (by decide +kernel), at_of (by decide +kernel), by decide +kernel, at_of (by decide +kernel),
    at_of (by decide +kernel), ?_⟩
  rintro s rfl
  exact ⟨at_of (by decide +kernel), by decide +kernel, by decide +kernel⟩

/-- A dense operation half issued, so that sequencer 0 has work outstanding. -/
def halfIssued (s : State) : State := setDense s { s.dense with pendX := some (0, 0, none) }

/-- A step of scheduled start tick 0 runs under a step limit of one unit, and tick 1024 has come. -/
def pastLimit (s : State) : State :=
  let u := withRegs s [(SEQ_CFG.STEP_LIMIT, 1), (CAD_TICK.COUNT, 1024)]
  { u with latched := u.regs, step := { u.step with running := true } }

theorem witness_WaitsHaltAndStepLimitTakeEffect :
    (AtInsn (running .reset 0 .halt) 0 .halt ∧ outstanding (running .reset 0 .halt) 0 = false
      ∧ ((running .reset 0 .halt).seqr 0).startDue = false)
    ∧ (AtInsn (halfIssued (running .reset 0 .halt)) 0 .halt ∧ outstanding (halfIssued (running .reset 0 .halt)) 0 = true)
    ∧ (AtInsn (running .reset 1 (.waitTick false 1)) 1 (.waitTick false 1) ∧ (running .reset 1 (.waitTick false 1)).tick < 0 + 1)
    ∧ (AtInsn (running .reset 1 (.waitTick false 0)) 1 (.waitTick false 0) ∧ 0 + 0 ≤ (running .reset 1 (.waitTick false 0)).tick)
    ∧ (AtInsn (running tagged 2 (.waitSlot false 0 0 1 1)) 2 (.waitSlot false 0 0 1 1) ∧ (tagEntry (running tagged 2 (.waitSlot false 0 0 1 1)) 0).valid = true
      ∧ (tagEntry (running tagged 2 (.waitSlot false 0 0 1 1)) 0).rd = true ∧ effSlot (running tagged 2 (.waitSlot false 0 0 1 1)) 2 false 0 1 < (tagEntry (running tagged 2 (.waitSlot false 0 0 1 1)) 0).slots
      ∧ bit 1 (slotAt (running tagged 2 (.waitSlot false 0 0 1 1)) 0 1).st.code = true)
    ∧ (AtInsn (running tagged 2 (.waitSlot false 0 0 1 4)) 2 (.waitSlot false 0 0 1 4)
      ∧ bit 4 (slotAt (running tagged 2 (.waitSlot false 0 0 1 4)) 0 1).st.code = false)
    ∧ (AtInsn (halfIssued (running .reset 0 .waitDone)) 0 .waitDone ∧ outstanding (halfIssued (running .reset 0 .waitDone)) 0 = true)
    ∧ (∃ s : State, AtInsn s 0 .halt ∧ outstanding s 0 = false ∧ (s.seqr 0).startDue = true ∧ (s.seqr 0).hooks = [])
    ∧ (AtInsn (running .reset 3 .waitDone) 3 .waitDone ∧ outstanding (running .reset 3 .waitDone) 3 = false)
    ∧ ((pastLimit (running .reset 3 .waitDone)).step.running = true ∧ ((pastLimit (running .reset 3 .waitDone)).seqr 3).running = true
      ∧ (pastLimit (running .reset 3 .waitDone)).held SEQ_CFG.STEP_LIMIT ≠ 0
      ∧ (pastLimit (running .reset 3 .waitDone)).step.sched + (pastLimit (running .reset 3 .waitDone)).held SEQ_CFG.STEP_LIMIT * 1024
          ≤ (pastLimit (running .reset 3 .waitDone)).tick
      ∧ (pastLimit (running .reset 3 .waitDone)).logIn.queue.length < 64) := by
  refine ⟨?_, ?_, ?_, ?_, ?_, ?_, ?_, ⟨(running .reset 0 .halt).setSeqr 0 { SeqState.reset with running := true, startDue := true },
    at_of (by decide +kernel), by decide +kernel, by decide +kernel, by decide +kernel⟩, ?_, ?_⟩
  all_goals repeat' first | exact at_of (by decide +kernel) | decide +kernel | apply And.intro

/-- A change of epoch stands at the head of its channel. -/
def messaged (s : State) : State :=
  s.setPort 0 { s.port 0 with inbox := [⟨(typeVc 0).getD 2, 0, Packet.make 10 11 0 false true 1 []⟩] }

/-- Sequencer 2 stalls at a WAIT_SLOT under a limit of 1024 cycles. -/
def slotStalled : State :=
  (running tagged 2 (.waitSlot false 0 0 1 4)).setSeqr 2 { SeqState.reset with running := true, stall := .wait, limit := 1024 }

theorem witness_WaitsPassInTheirOrder :
    (AtInsn (messaged (running .reset 1 (.waitTick false 0))) 1 (.waitTick false 0) ∧ 0 + 0 = (messaged (running .reset 1 (.waitTick false 0))).tick
      ∧ messageDue (messaged (running .reset 1 (.waitTick false 0))) = true)
    ∧ (AtInsn (messaged (withRegs (running .reset 1 (.waitTick false 0)) [(CAD_TICK.COUNT, 1)])) 1 (.waitTick false 0)
      ∧ 0 + 0 < (messaged (withRegs (running .reset 1 (.waitTick false 0)) [(CAD_TICK.COUNT, 1)])).tick)
    ∧ messageDue (running .reset 1 (.waitTick false 0)) = false
    ∧ (AtInsn slotStalled 2 (.waitSlot false 0 0 1 4) ∧ bit 4 (slotAt slotStalled 0 1).st.code = false ∧ (slotStalled.seqr 2).stall ≠ .none
      ∧ (slotStalled.seqr 2).limit ≤ 1024 ∧ 1023 < (slotStalled.seqr 2).limit)
    ∧ ((running tagged 2 (.waitSlot false 0 0 1 4)).seqr 2).stall = .none := by
  repeat' first | exact at_of (by decide +kernel) | decide +kernel | apply And.intro

/-- A neighbour receive into descriptor 5 that has an access to slot 1 of tag 0 still to make, a write where `w` is true; or none. -/
def receiving (s : State) (w : Option Bool) : State :=
  { s with lnk := { s.lnk with nbrs := [(5, ⟨0, [], { Acq.none 7 with needs := (w.map (fun b => [⟨0, 1, b⟩])).getD [] }, false⟩)] } }

theorem witness_SlotsCycleThroughTheirStates :
    (∀ i ∈ [SeqInsn.signal false 0 0 false 0 0 1 1, .signal false 1 0 false 0 0 1 1, .signal false 2 3 false 0 0 1 1],
      ∃ s q, AtInsn s q i ∧ (tagEntry s 0).valid = true ∧ (tagEntry s 0).rd = true ∧ effSlot s q false 0 1 < (tagEntry s 0).slots
        ∧ effSlot s q false 0 1 < 64)
    ∧ (∃ s w a u, stallerAcq s w = some a ∧ a.needs = [u] ∧ (slotAt s u.tag u.slot).st.admits u.write = true)
    ∧ (∃ (s : State) (w : Staller) (a : Acq) (u : SlotUse) (time : StallTime), stallerAcq s w = some a ∧ a.needs = [u]
      ∧ (slotAt s u.tag u.slot).st.admits u.write = false ∧ a.limit ≤ time.cycles ∧ (u.tag, u.slot) ∉ a.spared ∧ u.write = false)
    ∧ (∃ (s : State) (w : Staller) (a : Acq) (u : SlotUse) (time : StallTime), stallerAcq s w = some a ∧ a.needs = [u]
      ∧ (slotAt s u.tag u.slot).st.admits u.write = false ∧ a.limit ≤ time.cycles ∧ (u.tag, u.slot) ∉ a.spared ∧ u.write = true)
    ∧ (∃ s w a, stallerAcq s w = some a ∧ a.needs = []) := by
  refine ⟨?_, ?_, ?_, ?_, ?_⟩
  · intro i hi
    simp only [List.mem_cons, List.not_mem_nil, or_false] at hi
    rcases hi with rfl | rfl | rfl
    · exact ⟨running tagged 0 (.signal false 0 0 false 0 0 1 1), 0, by repeat' first | exact at_of (by decide +kernel) | decide +kernel | apply And.intro⟩
    · exact ⟨running tagged 3 (.signal false 1 0 false 0 0 1 1), 3, by repeat' first | exact at_of (by decide +kernel) | decide +kernel | apply And.intro⟩
    · exact ⟨running tagged 2 (.signal false 2 3 false 0 0 1 1), 2, by repeat' first | exact at_of (by decide +kernel) | decide +kernel | apply And.intro⟩
  · exact ⟨receiving tagged (some true), .neighbour 5, { Acq.none 7 with needs := [⟨0, 1, true⟩] }, ⟨0, 1, true⟩, by decide +kernel⟩
  · exact ⟨receiving tagged (some false), .neighbour 5, { Acq.none 7 with needs := [⟨0, 1, false⟩] }, ⟨0, 1, false⟩, ⟨0, 0, 0⟩, by decide +kernel⟩
  · exact ⟨receiving (setSlot tagged 0 1 .full) (some true), .neighbour 5,
      { Acq.none 7 with needs := [⟨0, 1, true⟩] }, ⟨0, 1, true⟩, ⟨0, 0, 0⟩, by decide +kernel⟩
  · exact ⟨receiving tagged none, .neighbour 5, Acq.none 7, by decide +kernel⟩

/-- A descriptor of one linear tile of binary32 in tag 0, for the transfer engine. -/
def linearTile : List Nat := [0 + 6 * 2 ^ 58, 0, 32, 32, 1, 1, 1, 1]

theorem witness_ScalarsTalliesAndChecksTakeEffect :
    (∃ s, AtInsn s 1 (.lds 0 16383 63 1) ∧ (tagEntry s 0).valid = true ∧ (tagEntry s 0).rd = true)
    ∧ (∃ s d, AtInsn s 3 (.tally 0 4095 0 8 0 1) ∧ effDesc s 3 0 0 4095 < 4096 ∧ descAt s (effDesc s 3 0 0 4095) = some d
      ∧ (tagEntry s 0).valid = true ∧ (tagEntry s 0).rd = true)
    ∧ (∃ s, AtInsn s 0 (.check 0 0 5 0 true) ∧ (tagEntry s 0).valid = true ∧ (tagEntry s 0).rd = true) := by
  refine ⟨⟨running tagged 1 (.lds 0 16383 63 1), ?_⟩,
    ⟨running { tagged with descs := [(4095, linearTile)] } 3 (.tally 0 4095 0 8 0 1), Desc.ofWords linearTile, ?_⟩,
    ⟨running tagged 0 (.check 0 0 5 0 true), ?_⟩⟩
  all_goals repeat' first | exact at_of (by decide +kernel) | decide +kernel | apply And.intro

theorem witness_RecoveryHooksTakeEffect :
    (∃ s : State, FMap.find s.hookTable 7 = some (3, 4095) ∧ (s.seqr 3).hooks.length = 15)
    ∧ (∃ (s : State) (h : HookReq), (s.seqr 3).hooks = [h] ∧ (s.seqr 3).stall ≠ .other ∧ (s.seqr 3).calls.length = 7) := by
  refine ⟨⟨{ State.reset.setSeqr 3 { SeqState.reset with hooks := List.replicate 15 ⟨0, 0, 0⟩ } with hookTable := [(7, (3, 4095))] }, ?_⟩,
    ⟨State.reset.setSeqr 3 { SeqState.reset with hooks := [⟨1, 2, 3⟩], calls := List.replicate 7 0 }, ⟨1, 2, 3⟩, ?_⟩⟩
  all_goals decide +kernel

/-- A word that does not decode, with its error. -/
theorem error_of {w : Nat} {n : Nat} (h : (match SeqInsn.decode w with | .ok _ => false | .error m => m == n) = true) :
    SeqInsn.decode w = .error n := by
  split at h
  · simp at h
  · rename_i m hm
    rw [hm, eq_of_beq h]

theorem witness_RefusedInstructionsAreSkipped :
    (∃ s : State, (s.seqr 2).running = true ∧ (s.seqr 2).pc < 4096 ∧ SeqInsn.decode (currentWord s 2) = .error 1)
    ∧ (∃ s : State, (s.seqr 2).running = true ∧ SeqInsn.decode (currentWord s 2) = .error 3
      ∧ SeqInsn.parse (currentWord s 2) = some (.setc 0 false 0))
    ∧ AtInsn (running .reset 2 (.setc 15 true 1)) 2 (.setc 15 true 1) := by
  refine ⟨⟨withRegs (running .reset 2 .halt) [(SEQ_PROG.WORD (2 * 8192 + 1), 0xFF * 2 ^ 56)], ?_, ?_, error_of ?_⟩,
    ⟨withRegs (running .reset 2 .halt) [(SEQ_PROG.WORD (2 * 8192 + 1), 0x03 * 2 ^ 56 + 1)], ?_, error_of ?_, ?_⟩, at_of ?_⟩
  all_goals decide +kernel
/-! The dense engine. -/

/-- The words of a 32 x 32 bf16 tile at byte `offset` of tag `tag`, of channel class `cls`, in the layout `layout`, checked when it is created where
its class asks for that. -/
def tileDesc (offset tag layout cls : Nat) : List Nat :=
  [offset + tag * 2 ^ 28 + 2 * 2 ^ 52 + layout * 2 ^ 56 + cls * 2 ^ 58, if Desc.clsProt cls then 2 ^ 62 else 0, 32, 32, 1, 1, 1, 1]

/-- W, X and Y of a product of 32 x 32 matrices, and one half issued. -/
def product : State :=
  let s := { tagged with descs := [(1, tileDesc 0 0 1 1), (2, tileDesc 2048 0 1 0), (3, tileDesc 4096 0 1 2)] }
  setDense s { s.dense with pendW := some (1, 0, 0), pendX := some (2, 0, none) }

/-- Its operation. -/
def productOp : DenseOp :=
  { no := 0, w := 1, x := 2, y := 3, hintW := 0, hintX := 0, hintY := 0, sparse := 0, acc := none, cvt := 0, tied := none, tiedFirst := false
    m := 32, k := 32, n := 32, depth := 192, plan := [{ no := 0, col0 := 0, ncols := 32, chunk := 0, panels := [0, 1, 2, 3] }]
    loads := [], deferred := [], accepted := [], written := [], streams := 0, acqW := Acq.none 3, acqX := Acq.none 2, acqY := Acq.none 1, holder := none
    energy := 0, meets := false }

/-- The accesses of an operand of which one waits for its slot. -/
def frozenAcq : Acq := { Acq.none 1 with needs := [⟨0, 1, true⟩] }

def dense (f : DenseState → DenseState) : State := setDense product (f { product.dense with pendW := none, pendX := none })

theorem witness_DenseInstructionsTakeEffect :
    (∃ s d, AtInsn s 0 (.loadw 0 1 0 3) ∧ effDesc s 0 0 0 1 < 4096 ∧ descAt s (effDesc s 0 0 0 1) = some d ∧ 0 = d.sparse
      ∧ ¬ (d.trans = true ∧ d.sparse = 2))
    ∧ (∃ s d, AtInsn s 0 (.stream 0 2 0 true 4095) ∧ effDesc s 0 0 0 2 < 4096 ∧ descAt s (effDesc s 0 0 0 2) = some d)
    ∧ (∃ s, AtInsn s 0 (.drain 0 3 0 0 false 0) ∧ s.dense.void = false ∧ effDesc s 0 0 0 3 < 4096 ∧ drainOp s (effDesc s 0 0 0 3) 0 0 false 0 = some productOp
      ∧ s.dense.op = none ∧ (gate s 0 (denseWork s productOp)).1.isSome = true ∧ inService s ≠ [])
    ∧ (∃ s, AtInsn s 0 (.drain 0 3 0 0 false 0) ∧ s.dense.void = true)
    ∧ (AtInsn (running .reset 0 (.loadw 0 4095 0 3)) 0 (.loadw 0 4095 0 3) ∧ descAt (running .reset 0 (.loadw 0 4095 0 3)) 4095 = none
      ∧ effDesc (running .reset 0 (.loadw 0 4095 0 3)) 0 0 0 4095 = 4095)
    ∧ (AtInsn (running .reset 0 (.stream 0 4095 0 false 0)) 0 (.stream 0 4095 0 false 0) ∧ descAt (running .reset 0 (.stream 0 4095 0 false 0)) 4095 = none
      ∧ effDesc (running .reset 0 (.stream 0 4095 0 false 0)) 0 0 0 4095 = 4095) := by
  refine ⟨⟨running product 0 (.loadw 0 1 0 3), Desc.ofWords (tileDesc 0 0 1 1), ?_⟩,
    ⟨running product 0 (.stream 0 2 0 true 4095), Desc.ofWords (tileDesc 2048 0 1 0), ?_⟩, ⟨running product 0 (.drain 0 3 0 0 false 0), ?_⟩,
    ⟨setDense (running product 0 (.drain 0 3 0 0 false 0)) { product.dense with void := true }, ?_⟩, ?_, ?_⟩
  all_goals repeat' first | exact at_of (by decide +kernel) | decide +kernel | apply And.intro

theorem witness_DrainDescribesItsOperation : drainOp product 3 0 0 false 0 = some productOp := by decide +kernel

theorem witness_PassesMeetEveryColumnAndChunkOnce : passesOf [3] 193 (List.range 2) 194 0 0 ≠ [] := by decide +kernel

theorem witness_WeightLoadsAndPassesTakeEffect :
    (∃ s x, s.dense.op = some productOp ∧ productOp.acqW.needs = [] ∧ nextLoad productOp 0 = some x ∧ bufferFree s productOp 0 x = true
      ∧ s.get (panelField 0) ≠ 2)
    ∧ (∃ (s : State) (op : DenseOp), s.dense.op = some op ∧ (nextLoad op 0).isSome = true ∧ s.get (panelField 0) = 2)
    ∧ (∃ (s : State) (op new : DenseOp) (x : Pass), s.dense.op = some op ∧ nextLoad op 0 = none ∧ op.plan = [] ∧ op.deferred = []
      ∧ onePassOpen s = true ∧ s.dense.void = false ∧ s.get (panelField 0) ≠ 2 ∧ s.dense.pre = none ∧ preloadOp (s.inOp 1) = some new
      ∧ nextLoad new 0 = some x ∧ x.no = 0)
    ∧ (∃ s : State, s.dense.op = none)
    ∧ (∃ (s : State) (op : DenseOp) (x : Pass), s.dense.op = some op ∧ op.frozen = true ∧ op.plan = [x])
    ∧ (∃ (s : State) (op : DenseOp) (x : Pass), s.dense.op = some op ∧ op.frozen = false ∧ op.acqW.needs = [] ∧ op.plan = [x] ∧ op.acqX.needs = []
      ∧ ∀ p ∈ x.panels, s.get (panelField p) ≠ 2 → ∃ l ∈ (FMap.find op.loads p).getD [], l.pass = x.no) := by
  refine ⟨⟨dense (fun d => { d with op := some productOp }), ⟨0, 0, 32, 0, [0, 1, 2, 3]⟩, by decide +kernel⟩,
    ⟨withRegs (dense (fun d => { d with op := some productOp })) [(panelField 0, 2)], productOp, by decide +kernel⟩,
    ⟨setDense product { product.dense with op := some { productOp with plan := [] } }, { productOp with plan := [] },
      (preloadOp (product.inOp 1)).getD productOp, ⟨0, 0, 32, 0, [0, 1, 2, 3]⟩, by decide +kernel⟩,
    ⟨.reset, by decide +kernel⟩,
    ⟨dense (fun d => { d with op := some { productOp with acqY := frozenAcq, holder := some 0, plan := [⟨0, 0, 32, 0, [2]⟩] } }),
      { productOp with acqY := frozenAcq, holder := some 0, plan := [⟨0, 0, 32, 0, [2]⟩] }, ⟨0, 0, 32, 0, [2]⟩, by decide +kernel⟩,
    ⟨dense (fun d => { d with op := some { productOp with plan := [⟨0, 0, 32, 0, [2]⟩], loads := [(2, [⟨0, 0, 0, 192, false, []⟩])] } }),
      { productOp with plan := [⟨0, 0, 32, 0, [2]⟩], loads := [(2, [⟨0, 0, 0, 192, false, []⟩])] }, ⟨0, 0, 32, 0, [2]⟩, by decide +kernel⟩⟩

/-- A check tile of one row on panel 1, its attempt and whether its rows are to be streamed again. -/
def oneTile (attempt : Nat) (again : Bool) : CheckTile :=
  { panel := 1, stream := 0, load := ⟨0, 0, 0, 192, false, [[(0, Val.one)]]⟩, row0 := 0, rows := [[Val.one]], attempt := attempt, inject := 0, again := again, outs := none }

theorem witness_CheckTilesAreJudged :
    ∀ attempt ∈ [1, 2, 3], ∃ s : State, s.dense.tiles.find? (fun t => t.panel == (1 : Fin 4).val && !t.again && t.outs.isNone) = some (oneTile attempt false)
      ∧ (oneTile attempt false).inject = 0 ∧ s.dense.inject = none := by
  intro attempt h
  refine ⟨dense (fun d => { d with tiles := [oneTile attempt false] }), ?_⟩
  revert attempt
  decide +kernel

theorem witness_DenseOperationsAndPanelsTakeEffect :
    (∃ (s : State) (op : DenseOp), s.dense.op = some op ∧ op.frozen = false
      ∧ s.dense.tiles.find? (fun t => t.panel == (1 : Fin 4).val && t.again) = some (oneTile 1 true))
    ∧ (∃ (s : State) (op : DenseOp), s.dense.op = some op ∧ inService (s.inOp 1) = [0, 1, 2, 3] ∧ op.deferred = [⟨0, 0, 32, 0, [0]⟩]
      ∧ op.plan = [] ∧ op.frozen = false ∧ op.acqW.needs = [] ∧ idleBuffer s op = true)
    ∧ (∃ (s : State) (op : DenseOp), s.dense.op = some op ∧ op.plan = [] ∧ op.deferred = [] ∧ s.dense.tiles = [] ∧ op.frozen = false
      ∧ op.acqW.needs = [])
    ∧ (∃ (s : State) (op : DenseOp), s.dense.op = some op ∧ op.plan ≠ [])
    ∧ (∃ s : State, s.step.running = true)
    ∧ (∃ s : State, bit s.dense.retireReq 3 = true ∧ s.get (panelField 3) ≠ 2)
    ∧ (∃ s : State, bit s.dense.retireReq 3 = false ∧ bit s.dense.reviveReq 3 = true ∧ s.get (panelField 3) = 2) := by
  refine ⟨⟨dense (fun d => { d with op := some productOp, tiles := [oneTile 1 true] }), productOp, ?_⟩,
    ⟨dense (fun d => { d with op := some { productOp with plan := [], deferred := [⟨0, 0, 32, 0, [0]⟩] } }),
      { productOp with plan := [], deferred := [⟨0, 0, 32, 0, [0]⟩] }, ?_⟩,
    ⟨dense (fun d => { d with op := some { productOp with plan := [] } }), { productOp with plan := [] }, ?_⟩,
    ⟨dense (fun d => { d with op := some productOp }), productOp, ?_⟩,
    ⟨pastLimit .reset, ?_⟩, ⟨dense (fun d => { d with retireReq := 8 }), ?_⟩,
    ⟨withRegs (dense (fun d => { d with reviveReq := 8 })) [(panelField 3, 2)], ?_⟩⟩
  all_goals decide +kernel
/-! The drover. -/

/-- Descriptors 4 (an input), 5 (a result), 6 (a result in L3) and 7 (an input of int32). -/
def grazing : State :=
  { tagged with descs := [(4, tileDesc 0 0 1 3), (5, tileDesc 2048 0 1 4), (6, tileDesc 4096 0 3 4), (7, (tileDesc 0 0 1 3).modify 0 (· + 10 * 2 ^ 52))] }

def addFields : DrvFields := ⟨0, 4, 4, 0, 5, 1, 0, 0, 0, 0, 0, false, false⟩
def compressFields : DrvFields := ⟨0, 4, 0, 0, 6, 0x44, 0, 0, 0, 0, 0, false, false⟩
def resendFields : RouteFields := ⟨0, 7, 4, 0, 0, 1, 8, 0, 0, 0, false⟩

/-- The conditions under which an operation is launched. -/
def launches (s : State) (op : DrvOp) : Bool :=
  (op.readNums ++ op.writeNums).all (fun n => (namedDesc s n).isSome) && (!isUpdate op.func || decide (op.s1 ≤ 56))
    && drvOk op (op.readNums.filterMap (namedDesc s)) (op.writeNums.filterMap (namedDesc s)) && s.drv.wait == none
    && (gate s 1 (drvWork s op)).1.isSome && !hostAllocates s op

/-- An image with no more in its RUN section than a step period of 1024 ticks, the demand tag 1 and the allocation tag 2. -/
def allocImage : Image := { digest := [], tenant := 0, minFw := 0, sections := [(1, [0, 4, 0, 0] ++ List.replicate 12 0 ++ [1, 0, 2, 0])] }

/-- Host allocation is on, a SELECT_SEND runs, and its demand was posted at `posted`. -/
def allocating (posted : Option Nat) : State :=
  let u := withRegs grazing [(DRV_ROUTE_CFG.MODE, 1), (CAD_TICK.COUNT, 16 * 1024)]
  let op := { opOfRoute u 1 { resendFields with subop := 0 } with subop := 0 }
  setDrv { u with latched := u.regs, image := some allocImage } { u.drv with run := some op, posted := posted }

theorem witness_DroverOperationsAreLaunched :
    (∃ s, AtInsn s 1 (.vec addFields) ∧ launches s (opOfFields s 1 addFields) = true ∧ (1, Instr.add 1) ∈ fnCommands 1)
    ∧ (∃ s, AtInsn s 1 (.gsm compressFields) ∧ launches s (opOfFields s 1 compressFields) = true ∧ (0x44, Instr.compress 1) ∈ fnCommands 1)
    ∧ (∃ s, AtInsn s 1 (.route resendFields) ∧ launches s (opOfRoute s 1 resendFields) = true ∧ (1, Instr.resend 1) ∈ routeCommands 1) := by
  refine ⟨⟨running grazing 1 (.vec addFields), ?_⟩, ⟨running grazing 1 (.gsm compressFields), ?_⟩, ⟨running grazing 1 (.route resendFields), ?_⟩⟩
  all_goals repeat' first | exact at_of (by decide +kernel) | decide +kernel | apply And.intro

theorem witness_DroverOperationsComplete :
    (∀ due, due = true ∨ due = false → ∃ (s : State) (op : DrvOp), drvReady s = some op ∧ awaitsHost s op = false ∧ closesDue s = due)
    ∧ (∃ s : State, drvReady s = none)
    ∧ (∃ (s : State) (op : DrvOp), drvReady s = some op ∧ awaitsHost s op = true) :=
  ⟨by
      rintro due (rfl | rfl)
      · exact ⟨setDrv { grazing with lnk := { grazing.lnk with after := [(.rows 11, .close 11 3)] } } { grazing.drv with run := some (opOfFields grazing 1 addFields) },
          opOfFields grazing 1 addFields, by decide +kernel⟩
      · exact ⟨setDrv grazing { grazing.drv with run := some (opOfFields grazing 1 addFields) }, opOfFields grazing 1 addFields, by decide +kernel⟩,
    ⟨.reset, by decide +kernel⟩,
    ⟨allocating (some 0), (allocating (some 0)).drv.run.getD (opOfFields grazing 1 addFields), by decide +kernel⟩⟩

theorem witness_LaneFunctionsAreExact :
    (Val.fin true 0 3).isZero = true ∧ Val.one.isZero = false ∧ Val.one.isNan = false ∧ Val.nan.isNan = true
    ∧ (opOfFields .reset 1 { addFields with func := 0 }).func = 0 := by decide +kernel

theorem witness_HostAllocationTakesEffect :
    (∃ s op, s.drv.run = some op ∧ op.acq.needs = [] ∧ hostAllocates s op = true ∧ s.drv.posted = none ∧ s.drv.alloc = none
      ∧ allocTags s = some (1, 2))
    ∧ (∃ s : State, s.drv.posted = some 0 ∧ s.drv.alloc = none ∧ (0 : BitVec 16).toNat = s.get DRV_ROUTE_STATUS.SEQ)
    ∧ (∃ s : State, s.drv.posted = some 0 ∧ s.tick < 0 + max 1 (s.held DRV_ROUTE_CFG.ALLOC_WAIT) * 1024)
    ∧ (∃ s : State, s.drv.posted = none ∨ (0xFFFF : BitVec 16).toNat ≠ s.get DRV_ROUTE_STATUS.SEQ)
    ∧ (∃ s : State, s.drv.posted = some 0 ∧ s.drv.alloc = none ∧ 0 + max 1 (s.held DRV_ROUTE_CFG.ALLOC_WAIT) * 1024 ≤ s.tick) := by
  refine ⟨⟨allocating none, _, rfl, ?_⟩, ⟨allocating (some 0), ?_⟩, ⟨withRegs (allocating (some 0)) [(CAD_TICK.COUNT, 1023)], ?_⟩,
    ⟨allocating (some 0), ?_⟩, ⟨allocating (some 0), ?_⟩⟩
  all_goals decide +kernel
/-! Descriptors, tags and memory. -/

/-- A step runs. -/
def stepping (s : State) : State := { s with step := { s.step with running := true } }

/-- A clean line and a dirty one resident, in their sets. -/
def cached : State :=
  { State.reset with memory := { MemState.reset with
      cache := [(0, [⟨0, true, false, false, []⟩]), (5, [⟨5, false, true, true, [(2047, 7)]⟩])] } }

/-- One request waits for line 7. -/
def awaited : Fill := { line := 7, wave := 0, prefetch := false, hint := .keep, discarded := false, off := 2047, len := 1, write := none }

theorem witness_DescriptorCommitsTakeEffect :
    (∃ s : State, s.commitNow = none) ∧ (∃ s : State, s.commitNow.isSome = true)
    ∧ (∃ s n ws, s.commitNow = some (n, ws) ∧ (Desc.ofWords ws).refusal (tagEntry s) = 0 ∧ s.step.running = false)
    ∧ (∃ s n ws, s.commitNow = some (n, ws) ∧ (Desc.ofWords ws).refusal (tagEntry s) = 0 ∧ s.step.running = true
      ∧ (s.commits.filter (fun c => c.1 != n)).length = 63)
    ∧ (∃ s n ws, s.commitNow = some (n, ws) ∧ (Desc.ofWords ws).refusal (tagEntry s) = 0 ∧ s.step.running = true
      ∧ 64 ≤ (s.commits.filter (fun c => c.1 != n)).length)
    ∧ (∃ s n ws, s.commitNow = some (n, ws) ∧ (Desc.ofWords ws).refusal (tagEntry s) = 14) := by
  refine ⟨⟨.reset, ?_⟩, ⟨{ tagged with commitNow := some (4095, linearTile) }, ?_⟩,
    ⟨{ tagged with commitNow := some (4095, tileDesc 0 0 1 2) }, 4095, tileDesc 0 0 1 2, ?_⟩,
    ⟨stepping { tagged with commitNow := some (4095, tileDesc 0 0 1 2), commits := (List.range 63).map (fun n => (n, [])) }, 4095, tileDesc 0 0 1 2, ?_⟩,
    ⟨stepping { tagged with commitNow := some (4095, tileDesc 0 0 1 2), commits := (List.range 64).map (fun n => (n, [])) }, 4095, tileDesc 0 0 1 2, ?_⟩,
    ⟨{ tagged with commitNow := some (4095, (tileDesc 0 0 1 2).modify 1 (· + 2 ^ 63)) }, 4095, (tileDesc 0 0 1 2).modify 1 (· + 2 ^ 63), ?_⟩⟩
  all_goals decide +kernel

/-- A tag over the last two slices. -/
def wideTag : TagEntry := TagEntry.ofWords (1 + 8 + 16 + 62 * 2 ^ 8 + 2 ^ 14) 3 0 0

theorem witness_AddressesOfATagAreDistinct :
    wideTag.place = 0 ∧ wideTag.firstSlice + 2 ^ wideTag.span = 64 ∧ wideTag.base * 4096 + wideTag.bytes / 2 ^ wideTag.span + 2048 ≤ 0x400000
    ∧ 12287 < wideTag.bytes := by decide +kernel

theorem witness_TagAccessesAreServedOrDropped :
    ((tagEntry tagged 0).place = 2 ∧ (tagEntry tagged 0).allows true (8188 : Nat) 4 = true ∧ (tagEntry tagged 0).rd = true ∧ tagged.upsets = [])
    ∧ (tagEntry tagged 0).allows false 8189 4 = false ∧ (tagEntry tagged 9).allows true 0 1 = false ∧ (rawChan tagged 0).prot = false := by
  decide +kernel

theorem witness_ReadsLeaveEveryByte :
    cacheInOrder cached = true ∧ lineQuiet cached (lineOf (stackBytes - 1)) = true ∧ effHint cached .stream ≠ .last ∧ (stackBytes - 1) + 1 ≤ stackBytes ∧ (stackBytes - 1) % 2048 + 1 ≤ 2048 := by
  decide +kernel

theorem witness_WritesChangeTheirBytesAlone :
    cacheInOrder cached = true ∧ lineQuiet cached (lineOf (stackBytes - 1)) = true ∧ (stackBytes - 1) + [(9 : Byte)].length ≤ stackBytes ∧ (stackBytes - 1) % 2048 + [(9 : Byte)].length ≤ 2048
    ∧ [(9 : Byte)] ≠ [] := by decide +kernel

/-- Page 0 is out of service. -/
def retired0 : State := withRegs .reset [(MEM_RETIRE_STATUS.USED, 1), (MEM_RETIRE_TABLE.VALID 0, 1)]

theorem witness_MemoryRequestsAreServed :
    (∃ a : BitVec 40, stackBytes ≤ a.toNat)
    ∧ (∃ (s : State) (a : BitVec 40), a.toNat < stackBytes ∧ waitsForFill s .normal (lineOf a.toNat) (.read 1) = true)
    ∧ (waitsForFill retired0 .normal 0 (.read 1) = false ∧ waitsForFill retired0 .normal 0 (.write [1]) = false ∧ pageRetired retired0 (pageOf 0) = true)
    ∧ (waitsForFill cached .normal 0 (.read 1) = false ∧ pageRetired cached (pageOf 0) = false ∧ (findLine cached 0).isSome = true ∧ cached.upsets = [])
    ∧ (∃ a : BitVec 40, a.toNat + 1 = stackBytes ∧ waitsForFill cached .keep (lineOf a.toNat) (.read 1) = false
      ∧ pageRetired cached (pageOf (lineOf a.toNat)) = false ∧ findLine cached (lineOf a.toNat) = none ∧ fetches .keep (.read 1) = true)
    ∧ (waitsForFill cached .last 9 (.read 1) = false ∧ pageRetired cached (pageOf 9) = false ∧ findLine cached 9 = none
      ∧ cached.memory.fills.any (fun f => f.line == 9) = false ∧ fetches .last (.read 1) = false)
    ∧ (∃ s : State, s.memory.fills.any (fun f => f.line == 7) = true ∧ waitsForFill s .last 7 (.read 1) = false ∧ findLine s 7 = none
      ∧ pageRetired s (pageOf 7) = false ∧ effHint s .last = .last) := by
  refine ⟨⟨0xC000000000, by decide +kernel⟩,
    ⟨{ cached with memory := { cached.memory with waiting := [⟨0, .normal, 7 * 2048, .read 1⟩] } }, 7 * 2048, by decide +kernel⟩,
    by decide +kernel, by decide +kernel, ⟨0xBFFFFFFFFF, by decide +kernel⟩, by decide +kernel,
    ⟨{ cached with memory := { cached.memory with fills := [{ awaited with discarded := true }] } }, by decide +kernel⟩⟩

theorem witness_CacheFillsPrefetchesAndControlTakeEffect :
    (∃ s : State, cacheInOrder s = true ∧ s.upsets = [] ∧ s.memory.fills = [awaited] ∧ s.memory.waiting = [] ∧ awaited.prefetch = false
      ∧ awaited.discarded = false ∧ awaited.write = none ∧ awaited.off + awaited.len ≤ 2048 ∧ awaited.line * 2048 < stackBytes
      ∧ findLine s awaited.line = none ∧ pageRetired s (pageOf awaited.line) = false)
    ∧ (∃ s : State, s.memory.fills.find? (fun f => stackOf f.line == stackOf awaited.line) = some awaited)
    ∧ (∃ s : State, s.memory.fills = [] ∧ s.memory.pfq = [])
    ∧ (∃ s : State, 31 + (ctrlQueue s 9).length < 32 ∧ s.memory.pfq.any (fun p => p.2.2 == 9) = true ∧ findLine s 9 = none
      ∧ s.memory.fills.any (fun f => f.line == 9) = false)
    ∧ (∃ s : State, max 1 (s.held MEM_PF_CFG.IDLE) * 1024 ≤ 65536 ∧ 0 < max 1 (s.held MEM_PF_CFG.IDLE) * 1024)
    ∧ (∃ s : State, cacheInOrder s = true ∧ s.memory.flushReq = true ∧ s.memory.unkeepReq = true)
    ∧ (∃ s : State, cacheInOrder s = true ∧ s.upsets = [] ∧ s.ctl.installing = none ∧ s.memory.flushing = [5] ∧ (findLine s 5).isSome = true) := by
  refine ⟨⟨{ cached with memory := { cached.memory with fills := [awaited] } }, ?_⟩,
    ⟨{ cached with memory := { cached.memory with fills := [awaited] } }, ?_⟩, ⟨.reset, ?_⟩,
    ⟨{ cached with memory := { cached.memory with pfq := [(0, 3, 9)] } }, ?_⟩, ⟨.reset, ?_⟩,
    ⟨{ cached with memory := { cached.memory with flushReq := true, unkeepReq := true } }, ?_⟩,
    ⟨{ cached with memory := { cached.memory with flushing := [5] } }, ?_⟩⟩
  all_goals decide +kernel

/-- Firmware runs, two pages are lost, and page 4095 awaits its repair. -/
def losing : State :=
  let u := withRegs (withRegs .reset [(PWR_STATUS.RELEASE, 7), (CTL_STATUS.BOOT, 1)]) [(MEM_RETIRE_STATUS.USED, 1), (MEM_RETIRE_TABLE.PAGE 0, 4095), (MEM_RETIRE_TABLE.VALID 0, 1)]
  { u with flt := { u.flt with fwq := [.retirePage 77 3 5], repairing := [4095] } }

/-- The same with every entry of the retirement table taken. -/
def fullTable : State := withRegs losing [(MEM_RETIRE_STATUS.USED, 512)]

theorem witness_MemoryErrorsAndLostPagesAreConfined :
    (∃ s : State, s.upsets ++ [] = [.word scratchBase .persistent] ∧ scratchBase / 8 * 8 = patrolAddr 0 ((FMap.find s.patrol 0).getD 0))
    ∧ ((0xBFFFFFFFFF : BitVec 40).toNat < stackBytes ∧ (3 : Fin 4).val ≠ 0)
    ∧ (fwRuns losing = true ∧ firstOf FwEvent.lostPage losing.flt.fwq = some ((77, 3, 5), []) ∧ 77 < 2 ^ 24 ∧ entryFor losing 77 = some 1)
    ∧ (fwRuns fullTable = true ∧ firstOf FwEvent.lostPage fullTable.flt.fwq = some ((77, 3, 5), []) ∧ entryFor fullTable 77 = none)
    ∧ (∃ s : State, fwRuns s = true ∧ firstOf FwEvent.lostPage s.flt.fwq = none ∧ s.flt.repairing.contains (0 : BitVec 24).toNat = false)
    ∧ (cacheInOrder losing = true ∧ losing.upsets = [] ∧ losing.memory.fills = [] ∧ losing.memory.waiting = []
      ∧ losing.flt.repairing.contains (4095 : BitVec 24).toNat = true
      ∧ retireEntry losing (4095 : BitVec 24).toNat = some 0 ∧ (4095 : BitVec 24).toNat * 65536 + 65536 ≤ stackBytes) := by
  refine ⟨⟨{ State.reset with upsets := [.word scratchBase .persistent] }, by decide +kernel⟩, by decide +kernel, by decide +kernel, by decide +kernel,
    ⟨{ losing with flt := { losing.flt with fwq := [], repairing := [] } }, by decide +kernel⟩, by decide +kernel⟩
/-! Transfers, windows and what arrives. -/

/-- A ring of two modules, this one at position 0. -/
def ring : Topology := { mode := 0, sizes := [2, 1, 1, 1], kinds := 0, groups := 1, bellwether := 0, ids := [10, 11] }

/-- Descriptors 8 and 9 of transfers, 10 and 11 of the link (11 of two tiles); the module is in the ring. -/
def linked : State :=
  let u := withRegs tagged [(LNK_ID.ID, 10), (LNK_ID.POSITION, 0), (LNK_EPOCH.EPOCH, 5)]
  { u with
    descs := [(8, tileDesc 0 0 1 6), (9, tileDesc 2048 0 1 6), (10, tileDesc 4096 0 1 7), (11, (tileDesc 4096 0 1 7).modify 2 (· + 32 + 2048 * 2 ^ 32)),
      (12, (tileDesc 0 0 1 7)), (13, [0 + 1 * 2 ^ 56 + 4 * 2 ^ 58, 0, 32, 32, 1, 1, 1, 1])]
    lnk := { u.lnk with topo := some ring, ownId := 10 } }

/-- A packet has been received on port 0 (direction +, from the module at position 1). -/
def received (s : State) (typ : Nat) (last : Bool) (hdr1 : Nat) (data : List Byte) : State :=
  s.setPort 0 { s.port 0 with inbox := [⟨(typeVc typ).getD 2, 0, Packet.make 10 11 typ false last hdr1 data⟩] }

def pkt (typ : Nat) (last : Bool) (hdr1 : Nat) (data : List Byte) : RxPkt := ⟨(typeVc typ).getD 2, 0, Packet.make 10 11 typ false last hdr1 data⟩

def xferFields (src dst : Nat) : XferFields := ⟨0, src, dst, 0, 0, true⟩

/-- A transfer of mode `mode` with descriptor `dst` has been sent to the other module and awaits its answer. -/
def awaiting (mode dst : Nat) : XferOp :=
  { id := 4, seqr := 2, mode := mode, src := 8, dst := dst, hsrc := 0, hdst := 0, close := false, modul := 11, window := 3, roff := 0, dir := 0
    acq := Acq.none 6, next := 0, open_ := false, moved := true, got := [], fetch := none, energy := 9, limit := 0 }

/-- The conditions under which a transfer is launched, its descriptors apart. -/
def xferGoes (s : State) (q : Fin 4) (mode : Nat) (ns : List Nat) : Bool :=
  decide ((s.xfers.filter (fun x => x.seqr == q.val)).length < 16) && (gate s q (xferWork s mode ns)).1.isSome

theorem witness_TransfersAreLaunched :
    (∃ s, AtInsn s 2 (.xferLocal (xferFields 8 9)) ∧ (namedDesc s 8).map (·.cls) = some Desc.clsXfer
      ∧ (namedDesc s 9).map (fun d => (d.cls, d.dims.any (·.bcast))) = some (Desc.clsXfer, false) ∧ xferGoes s 2 0 [8, 9] = true)
    ∧ (∃ s, AtInsn s 2 (.xferWindow false (xferFields 8 0) 11 255 0) ∧ (namedDesc s 8).map (·.cls) = some Desc.clsXfer ∧ badModule s 11 = false
      ∧ xferGoes s 2 1 [8] = true)
    ∧ (∃ s, AtInsn s 3 (.xferNeighbour (xferFields 10 11) 7) ∧ (namedDesc s 10).map (·.cls) = some Desc.clsLink
      ∧ (namedDesc s 11).map (·.cls) = some Desc.clsLink ∧ xferGoes s 3 2 [10] = true)
    ∧ (∃ s, AtInsn s 2 (.xferWindow true (xferFields 0 9) 11 0 (2 ^ 40 - 1)) ∧ (namedDesc s 9).map (fun d => (d.cls, d.dims.any (·.bcast))) = some (Desc.clsXfer, false)
      ∧ badModule s 11 = false ∧ xferGoes s 2 3 [9] = true)
    ∧ (∃ s : State, 16 ≤ (s.xfers.filter (fun x => x.seqr == (2 : Fin 4).val)).length) := by
  refine ⟨⟨running linked 2 (.xferLocal (xferFields 8 9)), ?_⟩, ⟨running linked 2 (.xferWindow false (xferFields 8 0) 11 255 0), ?_⟩,
    ⟨running linked 3 (.xferNeighbour (xferFields 10 11) 7), ?_⟩, ⟨running linked 2 (.xferWindow true (xferFields 0 9) 11 0 (2 ^ 40 - 1)), ?_⟩,
    ⟨{ linked with xfers := List.replicate 16 (awaiting 3 9) }, ?_⟩⟩
  all_goals repeat' first | exact at_of (by decide +kernel) | decide +kernel | apply And.intro

theorem witness_TilesMoveBitForBit : (List.replicate 2048 (5 : Byte)).length = Fmt.bf16.tileBytes := by decide +kernel

/-- Window 3 admits the module in direction 0 to tag 0, to read and to write. -/
def windowed : State := withRegs linked [(LNK_WIN_TABLE.WORD 6, 0 + 2 ^ 12 + 2 ^ 13 + 2 ^ 15), (LNK_WIN_TABLE.WORD 7, 3)]

/-- The fetch of an adopted tag 0, at its first (0) or second (1) attempt. -/
def fetching (dir : Nat) : XferOp := { awaiting 3 9 with fetch := some 0, dir := dir }

def asking (mode : Nat) : State := { windowed with xfers := [awaiting mode 9] }

theorem witness_WindowRequestsAndAnswersTakeEffect :
    (∀ last, last = true ∨ last = false → ∃ x, peekRx (received windowed 3 last (3 + 8000 * 2 ^ 8 + 4 * 2 ^ 48) [1]) 0 (isType 3) = some x
      ∧ winAccepts (takeRx (received windowed 3 last (3 + 8000 * 2 ^ 8 + 4 * 2 ^ 48) [1]) 0 (isType 3)) x.pkt.src x.pkt.hdr1 true x.pkt.data.length = true
      ∧ x.pkt.last = last ∧ x.pkt.close = false)
    ∧ (∀ last, last = true ∨ last = false → ∃ x, peekRx (received windowed 3 last (3 + 8177 * 2 ^ 8) [1]) 0 (isType 3) = some x
      ∧ winAccepts (takeRx (received windowed 3 last (3 + 8177 * 2 ^ 8) [1]) 0 (isType 3)) x.pkt.src x.pkt.hdr1 true x.pkt.data.length = false
      ∧ x.pkt.last = last ∧ x.pkt.close = false)
    ∧ (∃ x, peekRx (received windowed 4 true (3 + 4 * 2 ^ 48) [16, 0, 0, 0, 0, 16, 0]) 0 (isType 4) = some x ∧ 0 < field x.pkt 0 5
      ∧ field x.pkt 0 5 ≤ bits (field x.pkt 5 2) 0 13
      ∧ winAccepts (takeRx (received windowed 4 true (3 + 4 * 2 ^ 48) [16, 0, 0, 0, 0, 16, 0]) 0 (isType 4)) x.pkt.src x.pkt.hdr1 false (field x.pkt 0 5) = true)
    ∧ (∃ x, peekRx (received windowed 4 true (4 + 4 * 2 ^ 48) [16, 0, 0, 0, 0, 16, 0]) 0 (isType 4) = some x
      ∧ winAccepts (takeRx (received windowed 4 true (4 + 4 * 2 ^ 48) [16, 0, 0, 0, 0, 16, 0]) 0 (isType 4)) x.pkt.src x.pkt.hdr1 false (field x.pkt 0 5) = false)
    ∧ (∀ last, last = true ∨ last = false → ∃ x d, peekRx (received (asking 3) 5 last (3 + 4 * 2 ^ 48) [1]) 0 (isType 5) = some x ∧ x.pkt.last = last
      ∧ xferOf (takeRx (received (asking 3) 5 last (3 + 4 * 2 ^ 48) [1]) 0 (isType 5)) 3 x.pkt = some (awaiting 3 9) ∧ (awaiting 3 9).fetch = none
      ∧ descAt (takeRx (received (asking 3) 5 last (3 + 4 * 2 ^ 48) [1]) 0 (isType 5)) 9 = some d)
    ∧ (∃ x, peekRx (received (asking 1) 6 true (3 + 4 * 2 ^ 48) [1]) 0 (isType 6) = some x
      ∧ xferOf (takeRx (received (asking 1) 6 true (3 + 4 * 2 ^ 48) [1]) 0 (isType 6)) 1 x.pkt = some (awaiting 1 9))
    ∧ ((asking 1).xfers.find? (fun x => x.id % 2 ^ 16 == (4 : BitVec 16).toNat && (x.mode == 1 || x.mode == 3)) = some (awaiting 1 9)
      ∧ (awaiting 1 9).moved = true ∧ xferUnsent (asking 1) (awaiting 1 9).id = false ∧ (awaiting 1 9).fetch = none
      ∧ { awaiting 1 9 with limit := 1000 }.limit ≤ (WinWait.mk 4 1000).us)
    ∧ (∀ dir ∈ [0, 1], ∃ (s : State) (op : XferOp), s.xfers.find? (fun x => x.id % 2 ^ 16 == (4 : BitVec 16).toNat && (x.mode == 1 || x.mode == 3)) = some op
      ∧ op.moved = true ∧ xferUnsent s op.id = false ∧ op.fetch = some 0 ∧ op.dir = dir)
    ∧ (∃ (x : RxPkt) (d : Desc), peekRx (received { windowed with xfers := [{ awaiting 3 9 with open_ := true }] } 5 true (3 + 4 * 2 ^ 48) [1]) 0 (isType 5) = some x
      ∧ xferOf (received { windowed with xfers := [{ awaiting 3 9 with open_ := true }] } 5 true (3 + 4 * 2 ^ 48) [1]) 3 x.pkt
        = some { awaiting 3 9 with open_ := true }
      ∧ descAt (received { windowed with xfers := [{ awaiting 3 9 with open_ := true }] } 5 true (3 + 4 * 2 ^ 48) [1]) 9 = some d)
    ∧ (∃ (s : State) (x : RxPkt) (op : XferOp), peekRx s 0 (isType 5) = some x ∧ xferOf s 3 x.pkt = some op ∧ op.fetch = some 0)
    ∧ (∃ (s : State) (x : RxPkt), peekRx s 0 (isType 6) = some x ∧ xferOf (takeRx s 0 (isType 6)) 1 x.pkt = none)
    ∧ (windowed.xfers = [] ∧ peekRx windowed 0 (isType 3) = none ∧ peekRx windowed 0 (isType 5) = none) := by
  refine ⟨?_, ?_, ⟨pkt 4 true (3 + 4 * 2 ^ 48) [16, 0, 0, 0, 0, 16, 0], by decide +kernel⟩, ⟨pkt 4 true (4 + 4 * 2 ^ 48) [16, 0, 0, 0, 0, 16, 0], by decide +kernel⟩,
    ?_, ⟨pkt 6 true (3 + 4 * 2 ^ 48) [1], by decide +kernel⟩, by decide +kernel, ?_,
    ⟨pkt 5 true (3 + 4 * 2 ^ 48) [1], Desc.ofWords (tileDesc 2048 0 1 6), by decide +kernel⟩,
    ⟨received { windowed with xfers := [fetching 0] } 5 true (3 + 4 * 2 ^ 48) [1], pkt 5 true (3 + 4 * 2 ^ 48) [1], fetching 0, by decide +kernel⟩,
    ⟨received windowed 6 true (3 + 4 * 2 ^ 48) [1], pkt 6 true (3 + 4 * 2 ^ 48) [1], by decide +kernel⟩, by decide +kernel⟩
  rotate_left 3
  · intro dir hd
    refine ⟨{ windowed with xfers := [fetching dir] }, fetching dir, ?_⟩
    revert dir
    decide +kernel
  · rintro last (rfl | rfl)
    · exact ⟨pkt 3 true (3 + 8000 * 2 ^ 8 + 4 * 2 ^ 48) [1], by decide +kernel⟩
    · exact ⟨pkt 3 false (3 + 8000 * 2 ^ 8 + 4 * 2 ^ 48) [1], by decide +kernel⟩
  · rintro last (rfl | rfl)
    · exact ⟨pkt 3 true (3 + 8177 * 2 ^ 8) [1], by decide +kernel⟩
    · exact ⟨pkt 3 false (3 + 8177 * 2 ^ 8) [1], by decide +kernel⟩
  · rintro last (rfl | rfl)
    · exact ⟨pkt 5 true (3 + 4 * 2 ^ 48) [1], Desc.ofWords (tileDesc 2048 0 1 6), by decide +kernel⟩
    · exact ⟨pkt 5 false (3 + 4 * 2 ^ 48) [1], Desc.ofWords (tileDesc 2048 0 1 6), by decide +kernel⟩

/-- The running step reads the part in slot 0 of tag 0. -/
def readingPart : State :=
  setSlot { linked with
    step := { linked.step with running := true, count := 1 }
    image := some { digest := [], tenant := 0, minFw := 0, sections := [(10, List.replicate 64 0)] } } 0 0 .full

theorem witness_ArrivingDataTakesEffect :
    (∃ s x d, peekRx s 0 (isType 7) = some x ∧ descAt s (bits x.pkt.hdr1 0 12) = some d ∧ d.cls = Desc.clsLink ∧ bits x.pkt.hdr1 12 32 + 1 = d.tiles
      ∧ d.sync = false ∧ FMap.find s.lnk.nbrs (bits x.pkt.hdr1 0 12) = none ∧ 1 < d.tiles)
    ∧ (∃ s x, peekRx s 0 (isType 7) = some x ∧ descAt s (bits x.pkt.hdr1 0 12) = none)
    ∧ (∃ (s : State) (x : RxPkt) (d : Desc), peekRx s 0 (isType 7) = some x ∧ descAt s (bits x.pkt.hdr1 0 12) = some d ∧ d.cls = Desc.clsLink
      ∧ bits x.pkt.hdr1 12 32 + 1 = d.tiles ∧ d.tiles = 1)
    ∧ (∀ typ ∈ [7, 8, 9, 10], peekRx linked 0 (isType typ) = none)
    ∧ (∃ (s : State) (tag off : Nat), pieceWaits s tag off = true)
    ∧ (pieceWaits linked 0 0 = false ∧ { awaiting 1 9 with limit := 1000 }.limit > (WinWait.mk 4 999).us)
    ∧ (∀ typ ∈ [8, 9, 10], peekRx (received linked typ true 0 [1]) 0 (isType typ) = some (pkt typ true 0 [1])) := by
  refine ⟨⟨received linked 7 true (11 + 2 ^ 12) [1], pkt 7 true (11 + 2 ^ 12) [1], Desc.ofWords ((tileDesc 4096 0 1 7).modify 2 (· + 32 + 2048 * 2 ^ 32)), ?_⟩,
    ⟨received linked 7 true 4095 [1], pkt 7 true 4095 [1], ?_⟩,
    ⟨received linked 7 true 10 [1], pkt 7 true 10 [1], Desc.ofWords (tileDesc 4096 0 1 7), ?_⟩, ?_, ⟨readingPart, 0, 0, ?_⟩, ?_, ?_⟩
  all_goals decide +kernel
/-! The fabric ports. -/

/-- The pins of the fabric are released and port 0 is in state `st` at supply stage `stage`. -/
def porting (st stage : Nat) : State :=
  let u := withRegs linked [(LNK_P_STATUS.STATE 0, st), (PWR_STATUS.STAGE, stage)]
  { u with pwr := { u.pwr with fabric := true } }

/-- A flit of packet number `seq` for a data channel. -/
def flit (seq : Nat) (idle : Bool) : List Byte := Flit.make (Flit.word seq 0 false 6 0 idle 0 0 0) [1, 2, 3]

/-- Port 0 has a packet to send and credits. -/
def sending : State :=
  let u := porting 2 0
  u.setPort 0 { u.port 0 with opened := true, credit := fullCredit, txq := [{ vc := 6, cls := 0, pkt := Packet.make 11 10 7 false true 0 [1], sent := 0, lastSeq := 0, xfer := none }] }

theorem witness_FlitsAndPacketsKeepWhatTheyCarry :
    4095 < 4096 ∧ 7 < 8 ∧ 1 < 2 ∧ (List.replicate 240 (1 : Byte)).length ≤ 240
    ∧ (∀ p ∈ [Packet.make 11 10 7 false true 0 [1]], p.hdr0 < 2 ^ 64 ∧ p.hdr1 < 2 ^ 64 ∧ ¬ (p.hdr0 = 0 ∧ p.hdr1 = 0) ∧ p.data.length = p.len * 16) := by
  decide +kernel

theorem witness_EachHopComesNearer : 0 < ring.count ∧ 1 < ring.count ∧ ring.hop 0 1 = some 0 := by decide +kernel

/-- Port 0 is up on the low half and a retrain is due for `cause`; or it has been narrowed for the supply stage or its partner. -/
def retraining (cause : Nat) : State := (porting 2 2).setPort 0 { (porting 2 2).port 0 with shed := decide (cause = 0), retrainDue := cause }

theorem witness_PortsTrainAndRetrain :
    (mayTrain (porting 0 3) 0 = true ∧ (porting 0 3).get (LNK_P_STATUS.STATE 0) = 0 ∧ ((porting 0 3).port 0).credit = [])
    ∧ (mayTrain sending 0 = true ∧ ¬ (sending.port 0).credit = [])
    ∧ (mayTrain (porting 3 0) 0 = true ∧ (porting 3 0).get (LNK_P_STATUS.STATE 0) = 3 ∧ (false || true) = true)
    ∧ mayTrain .reset 0 = false
    ∧ ((porting 2 3).get (LNK_P_STATUS.STATE 0) = 2 ∧ 3 ≤ (porting 2 3).get PWR_STATUS.STAGE ∧ (porting 2 3).get (LNK_P_STATUS.NARROW 0) = 0)
    ∧ ((retraining 0).get (LNK_P_STATUS.STATE 0) = 2 ∧ (retraining 0).get PWR_STATUS.STAGE < 3 ∧ ((retraining 0).port 0).shed = true
      ∧ ((retraining 0).port 0).retrainDue = 0)
    ∧ (∀ cause ∈ [11, 12], (retraining cause).get (LNK_P_STATUS.STATE 0) = 2 ∧ ((retraining cause).port 0).retrainDue = cause
      ∧ ((retraining cause).port 0).shed = false ∧ cause ≠ 0) := by decide +kernel

theorem witness_FlitsAreReceivedAndTransmitted :
    (porting 2 0).get (LNK_P_STATUS.STATE 0) = 2
    ∧ (Flit.ok (flit 0 true) = true ∧ Flit.idle (flit 0 true) = true)
    ∧ (Flit.ok ((flit 0 false).set 0 1) = false ∧ Flit.idle ((flit 0 false).set 0 1) = false)
    ∧ (Flit.ok (flit 1 false) = true ∧ Flit.idle (flit 1 false) = false ∧ Flit.seq (flit 1 false) ≠ ((porting 2 0).port 0).expect
      ∧ ((porting 2 0).port 0).nakOn = false)
    ∧ (Flit.seq (flit 0 false) = ((porting 2 0).port 0).expect
      ∧ occupied ((porting 2 0).port 0) (vcKey (Flit.vc (flit 0 false)) (Flit.cls (flit 0 false))) < bufferFlits (vcKey (Flit.vc (flit 0 false)) (Flit.cls (flit 0 false))))
    ∧ (∃ p : PortState, Flit.seq (flit 0 false) = p.expect
      ∧ bufferFlits (vcKey (Flit.vc (flit 0 false)) (Flit.cls (flit 0 false))) ≤ occupied p (vcKey (Flit.vc (flit 0 false)) (Flit.cls (flit 0 false))))
    ∧ ((sending.port 0).replayAt = none ∧ (sending.port 0).replay.length < 1024 ∧ (chooseVc sending 0).map (fun c => (c.1, c.2.1)) = some (6, 0))
    ∧ chooseVc (porting 2 0) 0 = none
    ∧ (∃ p : PortState, p.replayAt = some 9 ∧ p.replay.findIdx? (fun x => x.1 == 9) = some 1 ∧ p.replay[1]? = some (9, flit 9 false) ∧ p.nakOn = true)
    ∧ (∃ p : PortState, p.replayAt = none ∧ 1024 ≤ p.replay.length ∧ p.nakOn = false) := by
  refine ⟨?_, ?_, ?_, ?_, ?_, ⟨{ PortState.reset with stored := [(12, 1152 * 240)] }, ?_⟩, ?_, ?_,
    ⟨{ PortState.reset with replayAt := some 9, replay := [(8, flit 8 false), (9, flit 9 false)], nakOn := true }, rfl, rfl, rfl, rfl⟩,
    ⟨{ PortState.reset with replay := List.replicate 1024 (9, []) }, by decide +kernel⟩⟩
  all_goals decide +kernel
/-! What modules tell one another. -/

/-- A heartbeat from the neighbour in direction 0, of what epoch it says. -/
def beat (typ d : Nat) (epoch : Nat) : State :=
  received linked 1 true 0 (toBytes 2 11 ++ toBytes 2 1 ++ [BitVec.ofNat 8 d, 0, 0, 0] ++ toBytes 4 epoch ++ List.replicate (4 + typ) 0)

/-- A control message of a subtype, from the other module. -/
def told (s : State) (sub : Nat) (data : List Byte) : State := received s 0 true sub data
def toldPkt (sub : Nat) (data : List Byte) : Packet := Packet.make 10 11 0 false true sub data

/-- A state in which the message has been heard. -/
def heardBy (s : State) (sub : Nat) : State :=
  let v := takeRx s 0 (isControl sub)
  { v with lnk := { v.lnk with seen := (11, 0) :: v.lnk.seen } }

theorem heard_of {s : State} {sub : Nat} {data : List Byte}
    (h : peekRx s 0 (isControl sub) = some ⟨(typeVc 0).getD 2, 0, toldPkt sub data⟩) (hm : bits (toldPkt sub data).hdr1 8 16 = 0)
    (hs : (toldPkt sub data).src = 11) (hv : (takeRx s 0 (isControl sub)).lnk.seen.contains (11, 0) = false) :
    Heard s 0 sub (toldPkt sub data) (heardBy s sub) := by
  refine ⟨_, _, h, rfl, rfl, ?_, ?_⟩
  · rw [hm, hs]; exact hv
  · rw [hm, hs]; rfl

/-- The heartbeat that `beat 0 d 5` brings. -/
def beatPkt (d : Nat) : RxPkt :=
  ⟨1, 0, Packet.make 10 11 1 false true 0 (toBytes 2 11 ++ toBytes 2 1 ++ [BitVec.ofNat 8 d, 0, 0, 0] ++ toBytes 4 5 ++ List.replicate 4 0)⟩

theorem witness_HeartbeatsAndLossesTakeEffect :
    (∃ (s : State) (x : RxPkt), peekRx s 0 (isType 1) = some x ∧ heartbeatFault (takeRx s 0 (isType 1)) 0 ((takeRx s 0 (isType 1)).port 0).grace x.pkt = none)
    ∧ (∀ held ∈ [0, 1], ∃ (s : State) (x : RxPkt), peekRx s 0 (isType 1) = some x
      ∧ (heartbeatFault (takeRx s 0 (isType 1)) 0 ((takeRx s 0 (isType 1)).port 0).grace x.pkt).isSome = true
      ∧ (takeRx s 0 (isType 1)).get (LNK_P_STATUS.HELD 0) = held)
    ∧ peekRx linked 0 (isType 1) = none
    ∧ State.reset.lnk.topo = none
    ∧ (linked.lnk.topo = some ring ∧ ring.neighbour (ownPos linked) 2 = ownPos linked)
    ∧ (linked.lnk.topo = some ring ∧ ownPos linked ≠ 0xFFFF ∧ ring.neighbour (ownPos linked) 1 ≠ ownPos linked
      ∧ ring.idAt (ring.neighbour (ownPos linked) 1) ≠ 0xFFFF ∧ linked.lnk.lost.contains 1 = false) := by
  refine ⟨⟨beat 0 2 5, beatPkt 2, ?_⟩, ?_, ?_, ?_, ?_, ?_⟩
  rotate_left 1
  · intro held hh
    refine ⟨withRegs (beat 0 0 5) [(LNK_P_STATUS.HELD 0, held)], beatPkt 0, ?_⟩
    revert held
    decide +kernel
  all_goals decide +kernel

/-- A message of subtype `sub` that has been heard before. -/
def heardBefore (sub : Nat) : State :=
  let s := told linked sub []
  { s with lnk := { s.lnk with seen := [(11, 0)] } }

/-- Neither kind of a message that is not heard is empty. -/
theorem witness_Unheard : ∀ sub ∈ [1, 2, 3, 4, 5, 6, 7], (∃ u, Unheard linked 0 sub u) ∧ ∃ u, u ≠ heardBefore sub ∧ Unheard (heardBefore sub) 0 sub u := by
  intro sub h
  refine ⟨⟨linked, Or.inl ⟨?_, rfl⟩⟩,
    ⟨takeRx (heardBefore sub) 0 (isControl sub), ?_, Or.inr ⟨⟨(typeVc 0).getD 2, 0, toldPkt sub []⟩, ?_, rfl, ?_⟩⟩⟩
  all_goals revert sub
  all_goals decide +kernel

/-- `s` with firmware running; and a ringmaster whose firmware waits to act on the notice that module 11 is lost. -/
def firm (s : State) : State := withRegs s [(CTL_STATUS.BOOT, 1)]
def noticed : State := { firm linked with flt := { linked.flt with fwq := [.notice 11 7 0 11] } }

/-- A ring whose position 1 is vacant; its ringmaster is told of the standby 12 on its port 0. -/
def openRing : Topology := { ring with kinds := 0x1000, ids := [10, 0xFFFF] }
def vacant : State :=
  { noticed with step := { noticed.step with based := true, baseTick := 0 }, lnk := { noticed.lnk with topo := some openRing }, flt := { noticed.flt with fwq := [.notice 10 6 0 12] } }

theorem witness_EpochChangesTakeEffect :
    Heard (told linked 1 (toBytes 8 6)) 0 1 (toldPkt 1 (toBytes 8 6)) (heardBy (told linked 1 (toBytes 8 6)) 1)
    ∧ (isSysRm noticed = true ∧ fwRuns noticed = true ∧ noticed.lnk.topo = some ring ∧ noticed.flt.fwq = [.notice 11 7 0 11] ∧ ring.posOf 11 = some 1
      ∧ (1, 0xFFFF) ∉ (noticed.lnk.change.map (·.amend)).getD [])
    ∧ (∃ c : EpochChange, c.amend = [(1, 0xFFFF)] ∧ isSysRm { noticed with lnk := { noticed.lnk with change := some c } } = true
      ∧ fwRuns { noticed with lnk := { noticed.lnk with change := some c } } = true ∧ (1, 0xFFFF) ∈ ((some c).map (·.amend)).getD [])
    ∧ (Heard (told linked 5 [7, 0, 11]) 0 5 (toldPkt 5 [7, 0, 11]) (heardBy (told linked 5 [7, 0, 11]) 5) ∧ field (toldPkt 5 [7, 0, 11]) 0 1 = 7
      ∧ ((heardBy (told linked 5 [7, 0, 11]) 5).lnk.topo.bind (fun tp => tp.posOf (field (toldPkt 5 [7, 0, 11]) 2 2))) = some 1)
    ∧ (Heard (told noticed 5 [6, 0, 11]) 0 5 (toldPkt 5 [6, 0, 11]) (heardBy (told noticed 5 [6, 0, 11]) 5) ∧ field (toldPkt 5 [6, 0, 11]) 0 1 ≠ 7
      ∧ isSysRm (heardBy (told noticed 5 [6, 0, 11]) 5) = true ∧ fwRuns (heardBy (told noticed 5 [6, 0, 11]) 5) = true)
    ∧ (isSysRm .reset = false ∧ fwRuns linked = false ∧ firstNotice (firm linked) [] (firm linked).flt.fwq = none)
    ∧ (isSysRm vacant = true ∧ fwRuns vacant = true ∧ vacant.lnk.topo = some openRing ∧ vacant.flt.fwq = [.notice 10 6 0 12]
      ∧ openRing.posOf 12 = none ∧ (standbyPlace vacant 10 0).isSome = true
      ∧ ((standbyPlace vacant 10 0).bind (replicaDir openRing)).isSome = true) := by
  have pending : ∃ c : EpochChange, c.amend = [(1, 0xFFFF)] ∧ isSysRm { noticed with lnk := { noticed.lnk with change := some c } } = true
      ∧ fwRuns { noticed with lnk := { noticed.lnk with change := some c } } = true ∧ (1, 0xFFFF) ∈ ((some c).map (·.amend)).getD [] :=
    ⟨{ epoch := 6, base := 0, digest := 0, amend := [(1, 0xFFFF)] }, by decide +kernel⟩
  repeat' first | exact pending | exact heard_of (by decide +kernel) (by decide +kernel) (by decide +kernel) (by decide +kernel) | decide +kernel | apply And.intro

/-- The module at position 1 of the ring, whose parent is the ringmaster. -/
def second (s : State) : State := withRegs { s with lnk := { s.lnk with ownId := 11 } } [(LNK_ID.POSITION, 1)]

def census : Census := { number := 0, root := 0, epoch := 5, digest := 0, waiting := [1, 2], reached := 1, agree := 1, firstBad := 0xFFFF }
def counting (s : State) : State := { s with lnk := { s.lnk with census := some census } }

/-- A ring of this module alone; and a ring of five, in which it stands between module 11, the ringmaster, and module 12. -/
def soleRing : Topology := { ring with sizes := [1, 1, 1, 1], ids := [10] }
def longRing : Topology := { ring with sizes := [5, 1, 1, 1], ids := [11, 10, 12, 13, 14] }
def between : State := { withRegs (firm linked) [(LNK_ID.POSITION, 1)] with lnk := { linked.lnk with topo := some longRing } }
def alone : State := { linked with lnk := { linked.lnk with topo := some soleRing } }

theorem witness_CensusesTakeEffect :
    (fwRuns linked = false ∧ fwRuns (firm .reset) = true ∧ isSysRm (firm .reset) = false)
    ∧ (isSysRm (firm linked) = true ∧ fwRuns (firm linked) = true ∧ (firm linked).lnk.census = none ∧ (firm linked).get LNK_EPOCH.EPOCH ≠ 0
      ∧ (firm linked).lnk.topo = some ring ∧ (ring.under (ownPos (firm linked))).children systemMask (ownPos (firm linked)) ≠ [])
    ∧ (fwRuns (withRegs (firm linked) [(LNK_EPOCH.EPOCH, 0)]) = true ∧ (withRegs (firm linked) [(LNK_EPOCH.EPOCH, 0)]).get LNK_EPOCH.EPOCH = 0
      ∧ (withRegs (firm linked) [(LNK_EPOCH.EPOCH, 0)]).flag CAD_STATUS.SYNCED = false
      ∧ (withRegs (firm linked) [(LNK_EPOCH.EPOCH, 0), (CAD_STATUS.SYNCED, 1)]).flag CAD_STATUS.SYNCED = true)
    ∧ (isSysRm (firm alone) = true ∧ (firm alone).lnk.census = none ∧ (firm alone).get LNK_EPOCH.EPOCH ≠ 0 ∧ (firm alone).lnk.topo = some soleRing
      ∧ (soleRing.under (ownPos (firm alone))).children systemMask (ownPos (firm alone)) = [])
    ∧ (Heard (told between 2 []) 0 2 (toldPkt 2 []) (heardBy (told between 2 []) 2)
      ∧ fwRuns (heardBy (told between 2 []) 2) = true ∧ (heardBy (told between 2 []) 2).lnk.topo = some longRing
      ∧ (longRing.under (rootOf (heardBy (told between 2 []) 2) longRing 11)).children systemMask (ownPos (heardBy (told between 2 []) 2)) ≠ [])
    ∧ (Heard (told (second (firm linked)) 2 []) 0 2 (toldPkt 2 []) (heardBy (told (second (firm linked)) 2 []) 2)
      ∧ fwRuns (heardBy (told (second (firm linked)) 2 []) 2) = true
      ∧ (ring.under (rootOf (heardBy (told (second (firm linked)) 2 []) 2) ring 11)).children systemMask
          (ownPos (heardBy (told (second (firm linked)) 2 []) 2)) = [])
    ∧ (census.root ≠ ownPos (second linked) ∧ (ring.under census.root).parent systemMask (ownPos (second linked)) = some 0)
    ∧ (Heard (told (counting (firm linked)) 3 []) 0 3 (toldPkt 3 []) (heardBy (told (counting (firm linked)) 3 []) 3)
      ∧ fwRuns (heardBy (told (counting (firm linked)) 3 []) 3) = true
      ∧ (heardBy (told (counting (firm linked)) 3 []) 3).lnk.census = some census ∧ census.number = field (toldPkt 3 []) 0 2
      ∧ ring.posOf (toldPkt 3 []).src = some 1 ∧ census.waiting.contains 1 = true ∧ census.waiting.filter (· != 1) = [2])
    ∧ (Heard (told (counting (firm linked)) 3 [1]) 0 3 (toldPkt 3 [1]) (heardBy (told (counting (firm linked)) 3 [1]) 3)
      ∧ fwRuns (heardBy (told (counting (firm linked)) 3 [1]) 3) = true
      ∧ (heardBy (told (counting (firm linked)) 3 [1]) 3).lnk.census = some census ∧ census.number ≠ field (toldPkt 3 [1]) 0 2)
    ∧ (linked.lnk.census = none ∧ census.root = ownPos (counting linked) ∧ fwRuns (counting (firm linked)) = true
      ∧ (counting (firm linked)).lnk.census = some census ∧ (counting linked).lnk.topo = some ring)
    ∧ Heard (told linked 4 (toBytes 8 (5 * 2 ^ 32))) 0 4 (toldPkt 4 (toBytes 8 (5 * 2 ^ 32))) (heardBy (told linked 4 (toBytes 8 (5 * 2 ^ 32))) 4) := by
  repeat' first | exact heard_of (by decide +kernel) (by decide +kernel) (by decide +kernel) (by decide +kernel) | decide +kernel | apply And.intro

/-! A signed image, made outside: a header, RUN, TAGS, PROGRAMS and TOPOLOGY of the least size, under an owner key of its own. -/

def imgBytes : List Byte := toBytes 1088 0x4d06d61de21dae5641e4deab03059621ef0677f93f249138347e2debee7a16f4639ae0a02a608f2129c6c135b8341b0a9129b02f6fff330daea32a7be048388900000000000000000000000000000000000000000000000000000000000000000000000000000000000000000000000000000000000000000000000000000001000000000000000000000000000000000000000000000000000000000000000000000000000000000000000000000000000000000000000000000001010101010000000000000000000000000000000000000000000000000000000000000000000000000000000000000000000000000000000000000000000000000000000000000000000000000000000000000000000000000000000000000000000000000000000000000000000000000000000000000000000000000000000000000000000000000000000000000000000000000000000000000000000000000000000000000000000000000000000000000000000000000000000000000000000000000000000000000000000000000000000000000000000000000000000000000000000000000000000000000000000000000000000000000000000000000000000000000000000000000000000000000000000000000000000000000000000000000000000000000000000000000000000000000000000000000000000000000000000000000000000000000000000000000000000000000000000000000000000000000000000000000000000000000000000000000000000000000000000000010000000000000000000000000000000000000000000000000000000000000000000000000000000000000000000000000000000000000004000000000000001b00000000000000000000000000000000000000000000000000000000000000000000000000030a5f0000000007d00514000004000100000000000000000030420827100040020000000013880000140100000000000000000000000000011000000000000000000000000000ffffffff00000000000003e800000000000003e800000000000000420000038000000006000000000000015000000200000000050000000000000020000001c000000002000000000000008000000140000000010000000000000000000000000000000000000000000000000000000000000000000000000000000000000000000000000000000000000000000000000000000000000000000000000000000000000000000000000000000000000000000000000000000000000000000000000000000000000000000000000000000000000000f551bf376840b6cbce5e316b5733ce2b169e0f7c4aebe78e9b7f1afee242e34f96c298d84539a1f4a033eb2d817d0377f240a463e5e6bcf847422ce1f2d1176b00000000000000000000000000000000000000000000000000000000000000000000000000000000000000000000040000000000000400013145504148534c47

/-- The digest of the key that signed it. -/
def imgKey : List Byte := toBytes 32 0x9f0db5cbf5eed6fe24dff4d80f5d2f14803ebbb0c638c7ae362223ef7ddb75d8

/-- `s` with that key in owner-key slot 0, and firmware running. -/
def trusting (s : State) : State :=
  let u := withRegs s [(CTL_STATUS.BOOT, 1)]
  { u with ctl := { u.ctl with owners := [(0, (imgKey, false))] } }

/-- `s` with the image in slot 3. -/
def storing (s : State) : State :=
  { s with ctl := { s.ctl with journal := [{ typ := recIMAGE, key := 3, data := imgBytes }, commitRec [{ typ := recIMAGE, key := 3, data := imgBytes }] 0] } }

set_option maxRecDepth 100000 in
theorem img_accepted : judgeImage (trusting .reset) imgBytes = accepted := by decide +kernel

/-- What an image is judged by is the owner keys and the firmware that runs. -/
theorem judge_of {s u : State} (b : List Byte) (ho : s.ctl.owners = u.ctl.owners) (hf : s.ctl.firmware = u.ctl.firmware) :
    judgeImage s b = judgeImage u b := by
  have h1 : ownerSlot s = ownerSlot u := by funext n; rw [ownerSlot, ownerSlot, ho]
  have h2 : liveKey s = liveKey u := by funext k; rw [liveKey, liveKey, h1]
  have h3 : fwVersion s = fwVersion u := by rw [fwVersion, fwVersion, hf]
  rw [judgeImage, judgeImage, h2, h3]

theorem find_zipIdx (l : List Byte) (n i : Nat) : FMap.find ((l.zipIdx n).map (fun p => (p.2, p.1))) (n + i) = l[i]? := by
  induction l generalizing n i with
  | nil => rfl
  | cons b l ih =>
    cases i with
    | zero => simp [FMap.find]
    | succ i =>
      have h : n + (i + 1) ≠ n := by omega
      have e : n + (i + 1) = n + 1 + i := by omega
      simp only [List.zipIdx_cons, List.map_cons, FMap.find, h, if_false, List.getElem?_cons_succ]
      rw [e, ih]

/-- The staging region with bytes written from its start on. -/
def stagedAs (l : List Byte) : FMap Byte := l.zipIdx.map (fun p => (p.2, p.1))

theorem filled_staged (l : List Byte) (h : l ≠ []) : filledBytes (stagedAs l) = l := by
  obtain ⟨l', b, rfl⟩ := List.eq_nil_or_concat l |>.resolve_left h
  rw [List.concat_eq_append]
  have e : (stagedAs (l' ++ [b])).reverse = (l'.length, b) :: (stagedAs l').reverse := by
    simp [stagedAs, List.zipIdx_append]
  rw [filledBytes, e]
  simp only
  apply List.ext_getElem?
  intro i
  by_cases hi : i < l'.length + 1
  · have := find_zipIdx (l' ++ [b]) 0 i
    rw [Nat.zero_add] at this
    rw [List.getElem?_map, List.getElem?_range hi, Option.map_some, stagedAs, this]
    rw [List.getElem?_eq_getElem (by simpa using hi)]
    rfl
  · rw [List.getElem?_eq_none (by simpa using hi), List.getElem?_eq_none (by simpa using hi)]

/-- Its short digest (R469). -/
def imgShort : Nat := 504563309967778978

/-! Adjustments and adoptions. -/

/-- Step `n` runs. -/
def inStep (n : Nat) : State := { linked with step := { linked.step with number := n, count := 1 } }

/-- A standby, which holds the image that an ADOPT names. -/
def standby : State := trusting (storing (withRegs linked [(LNK_ID.POSITION, 0xFFFF)]))

/-- A standby without images. -/
def unstocked : State := withRegs (firm linked) [(LNK_ID.POSITION, 0xFFFF)]

/-- An ADOPT for module `id`, at position 1 in epoch 6. -/
def adoptOf (id : Nat) : List Byte :=
  toBytes 4 6 ++ toBytes 2 1 ++ toBytes 2 id ++ toBytes 8 100 ++ toBytes 8 imgShort ++ [1, 2, 0, 0, 0, 0, 0, 0]

/-- A module that adopts a neighbour's data: the recovery list names tag 7 alone. -/
def adopting (try' : Nat) : State :=
  let u := trusting (withRegs linked [(FLT_STATUS.ADOPTING, 1)])
  { u with
    image := some { digest := [], tenant := 0, minFw := 0, sections := [(12, toBytes 4 7)] }
    lnk := { u.lnk with adopting := some (2, 100), adoptTry := try' } }

theorem named_of {u : State} {d slot : Nat} (h1 : slotOf u d = some slot) (h2 : slotImage u slot = some imgBytes)
    (ho : u.ctl.owners = (trusting .reset).ctl.owners) (hf : u.ctl.firmware = (trusting .reset).ctl.firmware) :
    namedImage u d = some (slot, imgBytes) := by
  simp only [namedImage, h1, h2, judge_of imgBytes ho hf, img_accepted, accepted, if_true]

set_option maxRecDepth 100000 in
theorem witness_AdjustmentsAndAdoptionsTakeEffect :
    (Heard (told linked 6 (toBytes 8 3 ++ toBytes 8 100)) 0 6 (toldPkt 6 (toBytes 8 3 ++ toBytes 8 100)) (heardBy (told linked 6 (toBytes 8 3 ++ toBytes 8 100)) 6)
      ∧ field (toldPkt 6 (toBytes 8 3 ++ toBytes 8 100)) 0 1 < 4
      ∧ (heardBy (told linked 6 (toBytes 8 3 ++ toBytes 8 100)) 6).step.count = 0)
    ∧ (Heard (told (inStep 100) 6 (toBytes 8 3 ++ toBytes 8 100)) 0 6 (toldPkt 6 (toBytes 8 3 ++ toBytes 8 100)) (heardBy (told (inStep 100) 6 (toBytes 8 3 ++ toBytes 8 100)) 6)
      ∧ 0 < (heardBy (told (inStep 100) 6 (toBytes 8 3 ++ toBytes 8 100)) 6).step.count
      ∧ field (toldPkt 6 (toBytes 8 3 ++ toBytes 8 100)) 8 8 ≤ (heardBy (told (inStep 100) 6 (toBytes 8 3 ++ toBytes 8 100)) 6).step.number
      ∧ (heardBy (told (inStep 100) 6 (toBytes 8 3 ++ toBytes 8 100)) 6).lnk.adjNext = [])
    ∧ (Heard (told linked 6 [4]) 0 6 (toldPkt 6 [4]) (heardBy (told linked 6 [4]) 6) ∧ 4 ≤ field (toldPkt 6 [4]) 0 1)
    ∧ (Heard (told standby 7 (adoptOf 10)) 0 7 (toldPkt 7 (adoptOf 10)) (heardBy (told standby 7 (adoptOf 10)) 7)
      ∧ field (toldPkt 7 (adoptOf 10)) 6 2 = (heardBy (told standby 7 (adoptOf 10)) 7).lnk.ownId
      ∧ ownPos (heardBy (told standby 7 (adoptOf 10)) 7) = 0xFFFF ∧ fwRuns (heardBy (told standby 7 (adoptOf 10)) 7) = true
      ∧ namedImage (heardBy (told standby 7 (adoptOf 10)) 7) (field (toldPkt 7 (adoptOf 10)) 16 8) = some (3, imgBytes))
    ∧ (Heard (told linked 7 (adoptOf 12)) 0 7 (toldPkt 7 (adoptOf 12)) (heardBy (told linked 7 (adoptOf 12)) 7)
      ∧ field (toldPkt 7 (adoptOf 12)) 6 2 ≠ (heardBy (told linked 7 (adoptOf 12)) 7).lnk.ownId)
    ∧ ((adopting 0).lnk.adopting = some (2, 100) ∧ (adopting 0).lnk.topo = some ring ∧ (adopting 0).get FLT_STATUS.ADOPTING ≠ 0 ∧ fwRuns (adopting 0) = true
      ∧ (adopting 0).ctl.load = none ∧ (adopting 0).ctl.installing = none ∧ ownPos (adopting 0) ≠ 0xFFFF ∧ (adopting 0).lnk.adoptTry = 0
      ∧ (∀ k, k < 16 → (adopting 0).get (LNK_P_STATUS.HELD k) ≠ 1) ∧ (∀ x ∈ (adopting 0).xfers, x.id < (adopting 0).lnk.xferNo))
    ∧ ((adopting 1).get FLT_STATUS.ADOPTING ≠ 0 ∧ (adopting 1).lnk.adoptTry = 1 ∧ (adopting 1).xfers.any (fun x => x.seqr == 4) = false)
    ∧ (State.reset.get FLT_STATUS.ADOPTING = 0 ∧ State.reset.lnk.adopting = none)
    ∧ (Heard (told linked 7 (adoptOf 10)) 0 7 (toldPkt 7 (adoptOf 10)) (heardBy (told linked 7 (adoptOf 10)) 7)
      ∧ field (toldPkt 7 (adoptOf 10)) 6 2 = (heardBy (told linked 7 (adoptOf 10)) 7).lnk.ownId ∧ fwRuns (heardBy (told linked 7 (adoptOf 10)) 7) = false)
    ∧ (Heard (told (firm linked) 7 (adoptOf 10)) 0 7 (toldPkt 7 (adoptOf 10)) (heardBy (told (firm linked) 7 (adoptOf 10)) 7)
      ∧ field (toldPkt 7 (adoptOf 10)) 6 2 = (heardBy (told (firm linked) 7 (adoptOf 10)) 7).lnk.ownId
      ∧ fwRuns (heardBy (told (firm linked) 7 (adoptOf 10)) 7) = true ∧ ownPos (heardBy (told (firm linked) 7 (adoptOf 10)) 7) ≠ 0xFFFF)
    ∧ (Heard (told unstocked 7 (adoptOf 10)) 0 7 (toldPkt 7 (adoptOf 10)) (heardBy (told unstocked 7 (adoptOf 10)) 7)
      ∧ field (toldPkt 7 (adoptOf 10)) 6 2 = (heardBy (told unstocked 7 (adoptOf 10)) 7).lnk.ownId ∧ ownPos (heardBy (told unstocked 7 (adoptOf 10)) 7) = 0xFFFF
      ∧ fwRuns (heardBy (told unstocked 7 (adoptOf 10)) 7) = true
      ∧ namedImage (heardBy (told unstocked 7 (adoptOf 10)) 7) (field (toldPkt 7 (adoptOf 10)) 16 8) = none) := by
  refine ⟨⟨heard_of ?_ ?_ ?_ ?_, ?_, ?_⟩, ⟨heard_of ?_ ?_ ?_ ?_, ?_, ?_, ?_⟩, ⟨heard_of ?_ ?_ ?_ ?_, ?_⟩,
    ⟨heard_of ?_ ?_ ?_ ?_, ?_, ?_, ?_, named_of ?_ rfl rfl rfl⟩, ⟨heard_of ?_ ?_ ?_ ?_, ?_⟩, ?_, ?_, ?_,
    ⟨heard_of ?_ ?_ ?_ ?_, ?_, ?_⟩, ⟨heard_of ?_ ?_ ?_ ?_, ?_, ?_, ?_⟩, ⟨heard_of ?_ ?_ ?_ ?_, ?_, ?_, ?_, ?_⟩⟩
  all_goals decide +kernel
/-! Gradient reduction. -/

/-- A REDUCE of one tile: descriptor 12 of the link into the result 13, in group `group`. -/
def reducing (group : Nat) (f : ReduceOp → ReduceOp) : ReduceOp :=
  f { id := 0, src := 12, dst := 13, group := group, late := false, tid := 3, deadline := 0, step := 0, formed := 0, closed := false, inputs := [], fired := []
      results := [], written := [], done := [], open_ := false, acq := Acq.none 8, acqW := Acq.none 9, partials := false, lastFire := 0, energy := 0 }

def reduction (op : ReduceOp) : State := { linked with reduces := [op] }

/-- Between two vacant positions of a ring of four. -/
def cutOff (s : State) : State :=
  withRegs { s with lnk := { s.lnk with topo := some { ring with sizes := [4, 1, 1, 1], ids := [10, 0xFFFF, 11, 0xFFFF] }, ownId := 11 } } [(LNK_ID.POSITION, 2)]

/-- A block of zeros whose residue is right. -/
def zeroBlock : G16 := { exp := 127, res := 0, withheld := false, sat := false, carry := false, isPartial := false, lost := false, count := 1, block := 0, q := G16.zeros }

/-- Inputs of the combine of block 0, from this module and from its child. -/
def bothInputs : List RedInput := [⟨0, none, zeroBlock⟩, ⟨2, some 0, zeroBlock⟩]

/-- A G16 packet of one block for TID 3 and step `step`, in the down phase or not. -/
def blockHdr (down : Bool) (step : Nat) : Nat := 3 + b2n down * 2 ^ 16 + 2 ^ 17 + step * 2 ^ 32

def blockPkt (down : Bool) (step : Nat) (b : G16) : RxPkt := pkt 11 true (blockHdr down step) b.bytes
def blockRx (op : ReduceOp) (down : Bool) (step : Nat) (b : G16) : State := received (reduction op) 11 true (blockHdr down step) b.bytes

theorem witness_CombinesLoseNothingUnnoticed :
    (∀ w ∈ [-(2 ^ 27 : Int), (2 ^ 15 - 1) * 2 ^ 12], -(2 ^ 27 : Int) ≤ w ∧ w ≤ (2 ^ 15 - 1) * 2 ^ 12)
    ∧ (∀ b ∈ [zeroBlock], b.res = residue b.q ∧ (b.withheld = true → ∀ x ∈ b.q, x = 0)) := by decide +kernel

theorem witness_BlocksAreFormedCombinedAndReceived :
    (∃ s op d, srcAt s (3 : BitVec 16).toNat = some op ∧ descAt s op.src = some d ∧ op.formed + 1 = 16 * d.tiles ∧ op.acq.needs = [])
    ∧ (∃ s op d, srcAt s (3 : BitVec 16).toNat = some op ∧ descAt s op.src = some d ∧ op.formed = 16 * d.tiles)
    ∧ srcAt linked (3 : BitVec 16).toNat = none
    ∧ (∃ s op, redAt s (3 : BitVec 16).toNat = some op ∧ mayFire s op 0 = false)
    ∧ (∃ s op, redAt s (3 : BitVec 16).toNat = some op ∧ op.closed = true)
    ∧ (∃ s op, redAt s (3 : BitVec 16).toNat = some op ∧ 0 < redBlocks s op ∧ op.fired.contains 0 = false ∧ isCut s op.group = false
      ∧ inputsPresent s op 0 = true ∧ (takeCarried s op 0).1 = [] ∧ isRoot s op.group = true
      ∧ (attempt false 5120 0 false false [zeroBlock, zeroBlock] (redGens s)).2.1 = [])
    ∧ (∀ cut, cut = true ∨ cut = false → ∃ s op, redAt s (3 : BitVec 16).toNat = some op ∧ op.closed = false
      ∧ op.deadline - Int.ofNat (closeDepth s op.group * s.held RED_CFG.HOP_TICKS) ≤ Int.ofNat s.tick ∧ (s.reduces.map (·.id)).Nodup
      ∧ isCut s op.group = cut)
    ∧ (∃ s op x, redAt s (3 : BitVec 16).toNat = some op ∧ peekRx s 0 (isG16 s) = some x ∧ bits x.pkt.hdr1 32 32 ≠ s.step.number % 2 ^ 32
      ∧ (bits x.pkt.hdr1 32 32 + 1) % 2 ^ 32 ≠ s.step.number % 2 ^ 32)
    ∧ (∃ s op x, redAt s (3 : BitVec 16).toNat = some op ∧ peekRx s 0 (isType 11) = some x
      ∧ mustWait s (bits x.pkt.hdr1 0 16) (bits x.pkt.hdr1 32 32) = true ∧ peekRx s 0 (isG16 s) = none)
    ∧ (∃ s op x b, redAt s (3 : BitVec 16).toNat = some op ∧ peekRx s 0 (isG16 s) = some x ∧ packetBlocks x.pkt = [b] ∧ bits x.pkt.hdr1 0 16 = 3
      ∧ bits x.pkt.hdr1 32 32 = s.step.number % 2 ^ 32 ∧ op.step % 2 ^ 32 = bits x.pkt.hdr1 32 32 ∧ b.block < redBlocks s op
      ∧ bit x.pkt.hdr1 16 = false ∧ isCut s (x.vc - 2) = false ∧ op.fired.contains b.block = false
      ∧ (redChildren s (x.vc - 2)).any (fun c => c.1 == ((s.lnk.topo.bind (fun t => t.posOf x.pkt.src)).map (· + 1)).getD 0) = true)
    ∧ (∃ s op x b, redAt s (3 : BitVec 16).toNat = some op ∧ peekRx s 0 (isG16 s) = some x ∧ packetBlocks x.pkt = [b] ∧ bits x.pkt.hdr1 0 16 = 3
      ∧ bits x.pkt.hdr1 32 32 = s.step.number % 2 ^ 32 ∧ op.step % 2 ^ 32 = bits x.pkt.hdr1 32 32 ∧ b.block < redBlocks s op
      ∧ bit x.pkt.hdr1 16 = true ∧ hasResult op b.block = false ∧ b.lost = false ∧ residue b.q = b.res)
    ∧ (∃ s op x b, redAt s (3 : BitVec 16).toNat = some op ∧ peekRx s 0 (isG16 s) = some x ∧ packetBlocks x.pkt = [b] ∧ bits x.pkt.hdr1 0 16 = 3
      ∧ bits x.pkt.hdr1 32 32 = s.step.number % 2 ^ 32 ∧ op.step % 2 ^ 32 = bits x.pkt.hdr1 32 32 ∧ b.block < redBlocks s op
      ∧ bit x.pkt.hdr1 16 = true ∧ hasResult op b.block = false ∧ b.lost = false ∧ residue b.q ≠ b.res) := by
  refine ⟨⟨reduction (reducing 0 fun o => { o with formed := 15 }), _, Desc.ofWords (tileDesc 0 0 1 7), rfl, ?_⟩,
    ⟨reduction (reducing 0 fun o => { o with formed := 16 }), _, Desc.ofWords (tileDesc 0 0 1 7), rfl, ?_⟩, ?_,
    ⟨reduction (reducing 0 id), _, rfl, ?_⟩, ⟨reduction (reducing 0 fun o => { o with closed := true }), _, rfl, ?_⟩,
    ⟨reduction (reducing 0 fun o => { o with inputs := [(0, bothInputs)] }), _, rfl, ?_⟩, ?_,
    ⟨blockRx (reducing 0 id) false 7 zeroBlock, _, blockPkt false 7 zeroBlock, rfl, ?_⟩,
    ⟨blockRx (reducing 0 id) false 0 zeroBlock |> fun s => s.setPort 0 { s.port 0 with inbox := [pkt 11 true (4 + 2 ^ 17) zeroBlock.bytes] }, _, pkt 11 true (4 + 2 ^ 17) zeroBlock.bytes, rfl, ?_⟩,
    ⟨blockRx (reducing 0 id) false 0 zeroBlock, _, blockPkt false 0 zeroBlock, zeroBlock, rfl, ?_⟩,
    ⟨blockRx (reducing 0 id) true 0 zeroBlock, _, blockPkt true 0 zeroBlock, zeroBlock, rfl, ?_⟩,
    ⟨blockRx (reducing 0 id) true 0 { zeroBlock with res := 1 }, _, blockPkt true 0 { zeroBlock with res := 1 }, { zeroBlock with res := 1 }, rfl, ?_⟩⟩
  case refine_7 =>
    rintro cut (rfl | rfl)
    · exact ⟨cutOff (reduction (reducing 0 id)), _, rfl, by decide +kernel⟩
    · exact ⟨reduction (reducing 0 id), _, rfl, by decide +kernel⟩
  all_goals decide +kernel

/-- An image whose carry-in area is tag 1, and an entry of its first half taken. -/
def carrying (e : List CarryEntry) : State :=
  { linked with image := some { digest := [], tenant := 0, minFw := 0, sections := [(7, [0, 0, 1, 0])] }, red := { linked.red with carry := e } }

/-- What becomes of a block that comes late, that comes twice, or that its parent lost. -/
theorem witness_BlocksReceivedLate :
    (∃ s op, redAt s 3 = some op ∧ op.step % 2 ^ 32 = 0 ∧ isCut s op.group = false ∧ (redChildren s op.group).any (fun c => c.1 == 2) = true
      ∧ zeroBlock.block < redBlocks s op ∧ op.fired.contains zeroBlock.block = true)
    ∧ (∃ s op, redAt s 3 = some op ∧ hasResult op zeroBlock.block = true)
    ∧ (∃ s op, redAt s 3 = some op ∧ hasResult op (G16.gone 0).block = false ∧ (G16.gone 0).block < redBlocks s op ∧ (G16.gone 0).lost = true)
    ∧ (∃ s op, redAt s 3 = some op ∧ op.step % 2 ^ 32 ≠ 7)
    ∧ (redAt linked 3 = none ∧ FMap.find linked.red.history 3 = none)
    ∧ (∀ cut, cut = true ∨ cut = false → ∃ s : State, redAt s 3 = none ∧ FMap.find s.red.history 3 = some (false, 0, 5) ∧ isCut s 0 = cut)
    ∧ (∃ s : State, (∀ op, redAt s 3 = some op → op.step % 2 ^ 32 ≠ 7) ∧ (redAt s 3).isSome = true)
    ∧ carryArea linked = none
    ∧ (∃ n, carryArea (carrying []) = some (1, n) ∧ 0 < n)
    ∧ (∃ s : State, carryArea s = some (1, 0)) := by
  refine ⟨⟨reduction (reducing 0 fun o => { o with fired := [0] }), _, rfl, ?_⟩,
    ⟨reduction (reducing 0 fun o => { o with results := [(0, zeroBlock)] }), _, rfl, ?_⟩, ⟨reduction (reducing 0 id), _, rfl, ?_⟩,
    ⟨reduction (reducing 0 id), _, rfl, ?_⟩, ?_, ?_,
    ⟨reduction (reducing 0 id), ?_⟩, ?_,
    ⟨((carryArea (carrying [])).getD (0, 0)).2, ?_⟩, ⟨withTag (carrying []) 1 0 0 0 0, ?_⟩⟩
  case refine_6 =>
    rintro cut (rfl | rfl)
    · exact ⟨cutOff { linked with red := { linked.red with history := [(3, (false, 0, 5))] } }, by decide +kernel⟩
    · exact ⟨{ linked with red := { linked.red with history := [(3, (false, 0, 5))] } }, by decide +kernel⟩
  case refine_7 => exact ⟨by rintro op ⟨rfl⟩; decide +kernel, by decide +kernel⟩
  all_goals decide +kernel

/-- The conditions under which a REDUCE with descriptors 12 and 13 is launched. -/
def reduceGoes (s : State) (d e : Desc) : Bool :=
  namedDesc s 12 == some d && namedDesc s 13 == some e && d.cls == Desc.clsLink && e.cls == Desc.clsResult && e.fmt == 0 && e.layout == 1 && d.sizes == e.sizes
    && decide (16 * e.tiles ≤ 2 ^ 28) && redAt s 3 == none && redMask s 0 != 0 && decide (s.reduces.length < redLimit)
    && (gate s 3 (Work.ofDescs s { link := 16 * 136 * e.tiles } [12, 13])).1.isSome

/-- The ringmaster of group 0 adjusts deadlines of its own accord, and step 4 of that group awaits review. -/
def reviewing (part : Bool) : State :=
  let u := withRegs linked [(CTL_STATUS.BOOT, 1), (RED_ADJ_CFG.AUTO, 1)]
  { u with latched := u.regs, red := { u.red with review := [(0, 4, part, some 10001)] } }

theorem witness_ReductionsBeginAndEnd :
    (∃ s d e, AtInsn s 3 (.reduce 0 12 13 0 true 3 (2 ^ 40 - 1)) ∧ reduceGoes s d e = true)
    ∧ (∃ s op, redAt s (3 : BitVec 16).toNat = some op ∧ op.deadline + Int.ofNat (max 1 (s.held RED_CFG.RESULT_WAIT)) ≤ Int.ofNat s.tick
      ∧ (List.range (redBlocks s op)).filter (fun b => !hasResult op b) ≠ [])
    ∧ (∃ s op, redAt s (3 : BitVec 16).toNat = some op ∧ redBlocks s op ≤ 16 * op.done.length ∧ op.inputs = [])
    ∧ (∀ part, part = true ∨ part = false → (reviewing part).red.review.find? (fun r => r.1 == (0 : Fin 4).val) = some ((0 : Fin 4).val, 4, part, some 10001)
      ∧ (reviewing part).held RED_ADJ_CFG.AUTO ≠ 0 ∧ redRm (reviewing part) 0 = some (ownPos (reviewing part)) ∧ fwRuns (reviewing part) = true
      ∧ Int.ofNat ((reviewing part).held RED_ADJ_CFG.TARGET) < 10001)
    ∧ (∃ s : State, s.red.review.find? (fun r => r.1 == (0 : Fin 4).val) = some ((0 : Fin 4).val, 4, true, none) ∧ s.held RED_ADJ_CFG.AUTO = 0)
    ∧ (redAt linked (3 : BitVec 16).toNat = none ∧ linked.red.review = [])
    ∧ (∃ s op, redAt s (3 : BitVec 16).toNat = some op ∧ Int.ofNat s.tick < op.deadline + Int.ofNat (max 1 (s.held RED_CFG.RESULT_WAIT))
      ∧ 16 * op.done.length < redBlocks s op)
    ∧ (∃ s : State, redLimit ≤ s.reduces.length) := by
  refine ⟨⟨running linked 3 (.reduce 0 12 13 0 true 3 (2 ^ 40 - 1)), Desc.ofWords (tileDesc 0 0 1 7),
      Desc.ofWords [0 + 1 * 2 ^ 56 + 4 * 2 ^ 58, 0, 32, 32, 1, 1, 1, 1], at_of (by decide +kernel), by decide +kernel⟩,
    ⟨withRegs (reduction (reducing 0 id)) [(CAD_TICK.COUNT, 5000)], _, rfl, by decide +kernel⟩,
    ⟨reduction (reducing 0 fun o => { o with done := [0] }), _, rfl, by decide +kernel⟩, ?_,
    ⟨{ linked with red := { linked.red with review := [(0, 4, true, none)] } }, by decide +kernel⟩, by decide +kernel,
    ⟨reduction (reducing 0 id), _, rfl, by decide +kernel⟩,
    ⟨{ linked with reduces := List.replicate redLimit (reducing 0 id) }, by decide +kernel⟩⟩
  rintro part (rfl | rfl) <;> decide +kernel
/-! Steps and the cadence. -/

/-- An image is loaded, the count is set, and the first step starts at tick 1024. -/
def ready : State :=
  let u := withRegs linked [(CAD_STATUS.SYNCED, 1), (LNK_STATUS.CENSUS_OK, 1), (CAD_TICK.COUNT, 1024)]
  { u with image := some allocImage, step := { u.step with next := some 1024, baseTick := 0, based := true } }

theorem witness_StepsStartAndComplete :
    (ready.step.next = some 1024 ∧ canStart ready 1024 = true ∧ (ready.seqr 0).running = false ∧ (ready.seqr 0).hooks = [])
    ∧ (∃ s : State, s.step.next = some 1024 ∧ canStart s 1024 = true ∧ (s.seqr 3).running = true)
    ∧ (∃ s : State, s.step.running = true ∧ s.seqs.toList.all SeqState.halted = true ∧ s.flag FLT_STATUS.YIELD_PENDING = true)
    ∧ (∃ s : State, s.seqs.toList.all SeqState.halted = false)
    ∧ (State.reset.step.next = none ∧ State.reset.step.running = false)
    ∧ (∃ s : State, s.step.next = some 1024 ∧ canStart s 1024 = false) := by
  refine ⟨?_, ⟨ready.setSeqr 3 { SeqState.reset with running := true }, ?_⟩, ⟨stepping (withRegs .reset [(FLT_STATUS.YIELD_PENDING, 1)]), ?_⟩,
    ⟨running .reset 3 .halt, ?_⟩, ?_, ⟨withRegs ready [(CAD_TICK.COUNT, 1023)], ?_⟩⟩
  all_goals decide +kernel

/-- The count runs, an edge has been accepted, and 1023 spacings are known. -/
def ticking (holdover : Nat) (regain : Nat) : State :=
  let u := withRegs linked [(CAD_STATUS.HOLDOVER, holdover)]
  { u with cad := { u.cad with running := true, edge := true, regain := regain } }

theorem witness_TheCountAdvancesAndTimecodesTakeEffect :
    (∃ s : State, s.cad.running = true ∧ s.cad.edge = false)
    ∧ ((ticking 0 0).cad.running = true ∧ (ticking 0 0).cad.edge = true ∧ edgeTooSoon (ticking 0 0) (24 : BitVec 32).toNat = true
      ∧ edgeTooSoon (ticking 0 0) (25 : BitVec 32).toNat = false ∧ (ticking 0 0).get CAD_STATUS.HOLDOVER = 0 ∧ (ticking 0 0).cad.tickSet = none)
    ∧ ((ticking 1 16).cad.running = true ∧ edgeTooSoon (ticking 1 16) (90 : BitVec 32).toNat = false ∧ (ticking 1 16).flag CAD_STATUS.HOLDOVER = true
      ∧ (ticking 1 16).cad.regain = 16 ∧ (90 : BitVec 32).toNat * 100000 ≤ 11 * tickPs (ticking 1 16) ∧ 9 * tickPs (ticking 1 16) ≤ (90 : BitVec 32).toNat * 100000)
    ∧ (∀ regain ∈ [0, 1, 15], (ticking 1 regain).cad.running = true ∧ edgeTooSoon (ticking 1 regain) (90 : BitVec 32).toNat = false
      ∧ (ticking 1 regain).flag CAD_STATUS.HOLDOVER = true ∧ (if (ticking 1 regain).cad.regain = 0 then 1 else (ticking 1 regain).cad.regain + 1) < 17)
    ∧ ((ticking 0 0).flag CAD_STATUS.HOLDOVER = false ∧ State.reset.cad.running = false)
    ∧ (isBellwether .reset = false ∧ linked.cad.tcDue = 0 ∧ peekRx linked 0 (isType 2) = none)
    ∧ isBellwether linked = true
    ∧ (∃ s : State, isBellwether s = true ∧ s.cad.tcDue ≠ 0)
    ∧ (peekRx (received linked 2 true 9 []) 0 (isType 2) = some (pkt 2 true 9 []) ∧ fromBellwether (takeRx (received linked 2 true 9 []) 0 (isType 2)) (pkt 2 true 9 []).pkt.src = false)
    ∧ (∃ s u : State, peekRx s 0 (isType 2) = some (pkt 2 true 9 []) ∧ u = takeRx s 0 (isType 2) ∧ fromBellwether u (pkt 2 true 9 []).pkt.src = true
      ∧ (pkt 2 true 9 []).pkt.src ≠ u.lnk.ownId ∧ u.cad.applied.contains (bits (pkt 2 true 9 []).pkt.hdr1 0 32) = false)
    ∧ (∃ s u : State, peekRx s 0 (isType 2) = some (pkt 2 true 9 []) ∧ u = takeRx s 0 (isType 2) ∧ fromBellwether u (pkt 2 true 9 []).pkt.src = true
      ∧ u.cad.applied.contains (bits (pkt 2 true 9 []).pkt.hdr1 0 32) = true) := by
  refine ⟨⟨{ linked with cad := { linked.cad with running := true } }, ?_⟩, ?_, ?_, ?_, ?_, ?_, ?_, ⟨{ linked with cad := { linked.cad with tcDue := 1 } }, ?_⟩, ?_,
    ⟨received { linked with lnk := { linked.lnk with topo := some { ring with bellwether := 1 } } } 2 true 9 [], _, ?_, rfl, ?_⟩,
    ⟨received { linked with lnk := { linked.lnk with topo := some { ring with bellwether := 1 } }, cad := { linked.cad with applied := [9] } } 2 true 9 [], _, ?_, rfl, ?_⟩⟩
  all_goals decide +kernel

/-- A word 1 of a schedule entry of a kind, with a budget of 700 W and the cap lifted. -/
def schedWord (kind : Nat) : BitVec 64 := BitVec.ofNat 64 (1 + kind * 2 + 700 * 2 ^ 8 + 2 * 2 ^ 24)

/-- An entry of a kind is due. -/
def dueOf (kind : Nat) : DueEntry := { entry := 63, tick := 2049, word := (schedWord kind).toNat, late := true }
def due (kind : Nat) : State :=
  let u := withRegs ready [(CAD_TICK.COUNT, 2049)]
  { u with step := { u.step with next := some 3072 }, cad := { u.cad with due := [dueOf kind] } }

/-- Two launches are held, the second longer than its limit, in timing mode `mode`. -/
def held (mode : Nat) (cycles : Nat) : State :=
  let u := withRegs linked [(CAD_CFG.MODE, mode)]
  { u with latched := u.regs, cad := { u.cad with bucket := 10, held := [⟨0, 5, 3, cycles⟩] } }

/-- A launch is held by the supply. -/
def hot : State := withRegs (held 2 0) [(PWR_STATUS.STAGE, 4)]

theorem witness_ScheduleAndGovernorTakeEffect :
    (bits (schedWord 3).toNat 1 2 = 3 ∧ bits (schedWord 1).toNat 1 2 ≠ 3 ∧ bits (schedWord 2).toNat 1 2 = 2 ∧ bit (schedWord 1).toNat 0 = true)
    ∧ (∃ s : State, s.tick < s.get (CAD_SCHED0.TICK 63) ∧ ∀ e ∈ s.cad.armed, s.tick < e.2)
    ∧ (∃ s : State, s.get (CAD_SCHED0.TICK 63) ≤ s.tick ∧ s.cad.armed = [])
    ∧ ((due 1).cad.due = [dueOf 1] ∧ bits (dueOf 1).word 1 2 = 1 ∧ (dueOf 1).waits (due 1) = false)
    ∧ ((dueOf 1).waits { due 1 with step := ready.step } = true ∧ (∃ s : State, s.step.next = none ∧ tickWaitDue s = true))
    ∧ (∃ s : State, tickWaitDue s = false ∧ s.cad.due = [{ dueOf 1 with tick := 0 }] ∧ ({ dueOf 1 with tick := 0 } : DueEntry).waits s = true)
    ∧ ((due 2).cad.due = [dueOf 2] ∧ bits (dueOf 2).word 1 2 = 2 ∧ (dueOf 2).waits (due 2) = false ∧ stepBelow (due 2) (dueOf 2).tick = some 2 ∧ bit (dueOf 2).word 26 = false
      ∧ stepDone (due 2) 2 = false)
    ∧ (∃ s : State, s.cad.due = [dueOf 2] ∧ stepBelow s (dueOf 2).tick = some 2 ∧ (dueOf 2).waits s = false ∧ stepDone s 2 = true)
    ∧ (∃ l, choice (held 1 0) = some l) ∧ (∀ x ∈ (held 1 0).cad.held, x.cycles ≤ vetoMax (held 1 0)) ∧ headroom (held 1 0) ≤ Int.ofNat ((held 1 0).get CAD_THERM_CFG.HR_LOW)
    ∧ (supplyHolds (held 1 0) = false ∧ (held 1 0).cad.held ≠ [] ∧ timingMode (held 1 0) = 1)
    ∧ (timingMode (held 2 0) = 2 ∧ (held 2 0).cad.held = [⟨0, 5, 3, 0⟩])
    ∧ ((held 2 1048575).cad.held.find? (fun x => x.seqr == (0 : Fin 4).val) = some ⟨0, 5, 3, 1048575⟩ ∧ vetoMax (held 2 1048575) ≤ 1048575 + (1 : BitVec 32).toNat)
    ∧ ((held 2 0).cad.held.all (fun l => decide (l.cycles + (1 : BitVec 32).toNat < vetoMax (held 2 0))) = true)
    ∧ (timingMode (held 0 0) = 0 ∧ supplyHolds (held 0 0) = false ∧ (held 0 0).cad.held ≠ [])
    ∧ (supplyHolds hot = true ∧ hot.cad.held ≠ [])
    ∧ (choice State.reset = none ∧ State.reset.cad.held = [] ∧ State.reset.cad.sinceSample < 1024)
    ∧ (∃ s : State, 1024 ≤ s.cad.sinceSample ∧ 63 ≤ s.cad.eSamples.length)
    ∧ (∃ s : State, Int.ofNat (s.get CAD_THERM_CFG.HR_LOW) < headroom s ∧ Int.ofNat (s.get CAD_THERM_CFG.HR_HIGH) ≤ headroom s) := by
  refine ⟨by decide +kernel, ⟨withRegs .reset [(CAD_SCHED0.TICK 63, 1)], ?_⟩, ⟨.reset, ?_⟩, ?_,
    ⟨by decide +kernel, (running .reset 1 (.waitTick false 0)).setSeqr 1 { SeqState.reset with running := true, stall := .wait }, ?_⟩, ⟨{ received { linked with lnk := { linked.lnk with topo := some { ring with bellwether := 1 } } } 2 true 9 [] with cad := { linked.cad with due := [{ dueOf 1 with tick := 0 }] } }, ?_⟩, ?_,
    ⟨{ due 2 with step := { (due 2).step with began := some 2, lastDone := some 2 } }, ?_⟩, ⟨⟨0, 5, 3, 0⟩, ?_⟩, ?_, ?_, ?_, ?_, ?_, ?_, ?_, ?_, ?_,
    ⟨{ State.reset with cad := { CadState.reset with sinceSample := 1024, eSamples := List.replicate 63 (0, 0) } }, ?_⟩,
    ⟨withRegs .reset [(CAD_PRED.T_SAMPLES, 64), (CAD_PRED.T_EST, 85)], ?_⟩⟩
  all_goals decide +kernel
/-! Ingest and the shuffle. -/

/-- A transport stream of four packets and an ISO file, made outside from their standards. -/
def tsStream : List Byte := toBytes 752 0x332211211c0100210580800000c0010000ffffffffffffffffffffffffffffffffffffffffffffffffffffffffffffffffffffffffffffffffffffffffffffffffffffffffffffffffffffffffffffffffffffffffffffffffffffffffffffffffffffffffffffffffffffffffffffffffffffffffffffffffffffffffffffffffffffffffffffffffffffffffffffffffffffffffffffffffffffffffffffffffffffffffffffffffffffffffffffffffffffffffff00a6300241470901000013cf158d290580800000e0010000ffffffffffffffffffffffffffffffffffffffffffffffffffffffffffffffffffffffffffffffffffffffffffffffffffffffffffffffffffffffffffffffffffffffffffffffffffffffffffffffffffffffffffffffffffffffffffffffffffffffffffffffffffffffffffffffffffffffffffffffffffffffffffffffffffffffffffffffffffffffffffffffffffffffffffffffffffffffffffffffffffffffff00a535014147ffffffffffffffffffffffffffffffffffffffffffffffffffffffffffffffffffffffffffffffffffffffffffffffffffffffffffffffffffffffffffffffffffffffffffffffffffffffffffffffffffffffffffffffffffffffffffffffffffffffffffffffffffffffffffffffffffffffffffffffffffffffffffffffffffffffffffffffffffffffffffffffffffffffffffffffffffffffffffddc6289e00f002e10f00f001e11b00f001e10000c1010017b0020010004147ffffffffffffffffffffffffffffffffffffffffffffffffffffffffffffffffffffffffffffffffffffffffffffffffffffffffffffffffffffffffffffffffffffffffffffffffffffffffffffffffffffffffffffffffffffffffffffffffffffffffffffffffffffffffffffffffffffffffffffffffffffffffffffffffffffffffffffffffffffffffffffffffffffffffffffffffffffffffffffffffffffffffffffff7d5ef9e800e101000000c101000db0000010004047
def isoFile : List Byte := toBytes 447 0x7461646d10000000b701000001000000000000006f6374731400000005000000030000000200000000000000000000007a7374731c0000000100000002000000010000000100000000000000637374731c00000002000000010000000100000001000000020000000000000073747463200000000100000002000000010000000000000073747473180000000000000000000000000000000000000000000000000000000000000000000000000000000000000000000000000000000000000000000000000000000000000000000000000000000000000000003163766856000000010000000000000064737473660000006c627473f2000000666e696dfa00000000000000000000000000000000656469760000000000000000726c6468210000000000c4553c0000001e0000000000000000000000000000006468646d200000006169646d4301000000000000000000000000000000000000000000000000000000000000000000000000000000000000000000000000000000000000000000000000000000000000000000000900000000000000000000000700000064686b745c0000006b617274a7010000766f6f6daf010000

/-- `n` bytes, zero but for those listed. -/
def bytesWith (n : Nat) (l : List (Nat × Nat)) : List Byte := (List.range n).map (fun i => BitVec.ofNat 8 ((FMap.find l i).getD 0))

/-- The INGEST section of one queue pair (8 reads deep, its packets of 1 KiB, RETRY 7), whose manifest, fetch areas of a page and staging are tag 0, and
the SHUFFLE section of 4 samples, 2 for each module. -/
def ingestImage : Image :=
  { allocImage with sections := [(1, [0, 4, 0, 0] ++ List.replicate 16 0),
      (9, bytesWith 0x480 [(0, 10), (3, 1), (0x20, 2), (0x21, 3), (0x22, 1), (0x28, 1), (0x48, 0), (0x50, 1), (0x440, 1 + 8 * 8), (0x462, 0xE0)]),
      (10, bytesWith 0x28 [(0, 4), (8, 2), (0xC, 1), (0x10, 1)])] }

/-- The shuffle is enabled. -/
def ingesting : State :=
  let u := withRegs linked [(DRV_SHUF_CFG.ENABLE, 1), (ING_E0_STATUS.UP, 1)]
  { u with latched := u.regs, image := some ingestImage, pwr := { u.pwr with fabric := true } }

/-- A sample of 2048 bytes on queue pair 0, all of it asked for up to `asked`, `received` of it received. -/
def sample (asked received : Nat) : IngSample :=
  { id := 0, entry := 0, pass := 0, istep := 0, dstep := 0, q := 0, qp := 0, area := some 0, addr := 0, rkey := 0, length := 2048, container := 0, select := 0, recipe := 0
    start := 0, asked := asked, received := received, stream := [], failed := false, unsupported := false, pipe := none, info := none, codec := none, stored := 0, half := none, bad := [], decided := [], dropped := []
    tokens := [], pts := none, logged := false }

def withSample (x : IngSample) : State := setIng ingesting { ingesting.ing with samples := [x] }

/-- A read of 2048 bytes outstanding on queue pair 0, after `tries` resends. -/
def readOp : ReadOp := { sample := some 0, addr := 0, rkey := 0, off := 0, len := 2048, mtu := 1024, psn := 0xFFFFFF, got := 0, bytes := 0 }
def waiting (tries : Nat) : State :=
  setIng ingesting { ingesting.ing with samples := [sample 2048 0], qps := [(0, { psn := 1, reads := [readOp], tries := tries, resetDue := false, due := false })] }

theorem witness_TheShuffleIsAPermutation : 4 < 5 ∧ (shufPosition [1, 2, 3, 4] 5 0 4).1 < 5 := by decide +kernel

theorem witness_IngestPortsAndFetchesTakeEffect :
    ingesting.pwr.fabric = true
    ∧ (9216 ≤ 9216 ∧ 1 ≤ 1 ∧ ownIpv4 ingesting 0 (0x0A000001 : BitVec 32).toNat = true ∧ ownIpv6 ingesting 1 (0 : BitVec 128).toNat = true)
    ∧ ((imgSection ingesting 9).isEmpty = false ∧ ingField ingesting 0x21 1 = (3 : Fin 8).val ∧ ingField ingesting 0x21 1 ≠ (7 : Fin 8).val)
    ∧ (ingestOn ingesting = true ∧ nextPlace ingesting = some (0, 0) ∧ freeArea ingesting = some 0
      ∧ chooseQp ingesting 0 0 (shufSample (shufKeys ingesting) (shufN ingesting) 0 0).1 = some 0 ∧ 0 ≤ areaSize ingesting * 4096)
    ∧ (∃ s x, ingestOn s = true ∧ readsHeld s = false ∧ qpUsable s 0 = true ∧ (qpAt s 0).resetDue = false
      ∧ (qpAt s 0).reads.length < max 1 (bits (qpWord s 0 0) 3 4) ∧ readsOut s < 4096 ∧ portUp s (qpPort s 0) = true ∧ portPaused s (qpPort s 0) = false
      ∧ s.ing.samples.find? (fun x => x.qp == 0 && !x.failed && decide (x.asked < x.length)) = some x)
    ∧ ((qpAt (waiting 0) 0).reads = [readOp] ∧ (5 : BitVec 24).toNat ≠ (readOp.psn + readOp.got) % 2 ^ 24)
    ∧ ((0xFFFFFF : BitVec 24).toNat = (readOp.psn + readOp.got) % 2 ^ 24 ∧ readOp.sample = some 0 ∧ sampleById (waiting 0) 0 = some (sample 2048 0)
      ∧ (sample 2048 0).area = some 0 ∧ readOp.part = .first
      ∧ min readOp.mtu (readOp.len - readOp.bytes) = 1024 ∧ readOp.got + 1 < ceilDiv readOp.len readOp.mtu)
    ∧ (localQp ingesting (0x1000 : BitVec 24).toNat = some 0 ∧ localQp ingesting (0x1001 : BitVec 24).toNat = none ∧ localQp ingesting (0xFFF : BitVec 24).toNat = none)
    ∧ (ReadPart.middle ≠ readOp.part ∧ ({ readOp with got := 1, bytes := 1024 } : ReadOp).part = .last ∧ (waiting 0).ing.notified.contains 0 = false)
    ∧ (∃ s : State, s.ing.notified.contains 0 = true ∧ localQp s (0x1000 : BitVec 24).toNat = some 0)
    ∧ (∃ s : State, (qpAt s 0).reads ≠ [] ∧ portPaused s (qpPort s 0) = true ∧ (qpAt s 0).due = true
      ∧ (s.ing.qps.filter (fun x => x.2.due && qpPort s x.1 == (0 : Fin 2).val)).length = 1)
    ∧ (∃ x : IngSample, x.demux.errors < { x with received := x.received + 188, stream := x.stream ++ tsStream.drop 376 }.demux.errors)
    ∧ ((qpAt (waiting 6) 0).reads ≠ [] ∧ (qpAt (waiting 6) 0).resetDue = false ∧ (qpAt (waiting 6) 0).tries < bits (qpWord (waiting 6) 0 4) 21 3
      ∧ 8191 < qpTimeout (waiting 6) 0 ∧ qpTimeout (waiting 6) 0 ≤ 8192)
    ∧ ((qpAt (waiting 7) 0).reads ≠ [] ∧ bits (qpWord (waiting 7) 0 4) 21 3 ≤ (qpAt (waiting 7) 0).tries)
    ∧ (qpAt ingesting 0).reads = []
    ∧ (∃ s, qpErr s 4095 = true ∧ (qpAt s 4095).reads = [])
    ∧ (State.reset.pwr.fabric = false ∧ ingestOn .reset = false ∧ (imgSection .reset 9).isEmpty = true ∧ ingesting.ing.samples = [])
    ∧ ((1 : Nat) < 2 ∧ ownIpv4 ingesting 0 (1 : BitVec 32).toNat = false ∧ ownIpv6 ingesting 1 (1 : BitVec 128).toNat = false)
    ∧ (∃ s : State, ingestOn s = true ∧ (nextPlace s).isSome = true ∧ freeArea s = none)
    ∧ (∃ s : State, ceilDiv readOp.len readOp.mtu ≤ ({ readOp with got := 1 } : ReadOp).got + 1 ∧ (qpAt s 0).reads = [{ readOp with got := 1 }]
      ∧ (qpAt s 0).resetDue = true) := by
  refine ⟨?_, ?_, ?_, ?_, ⟨withSample (sample 2047 0), sample 2047 0, ?_⟩, ?_, ?_, ?_, ?_,
    ⟨setIng ingesting { ingesting.ing with notified := [0] }, ?_⟩,
    ⟨withRegs (setIng ingesting { ingesting.ing with qps := [(0, { psn := 1, reads := [readOp], tries := 1, resetDue := false, due := true })] }) [(ING_E0_STATUS.PFC_PAUSED, 1)], ?_⟩,
    ⟨{ sample 752 376 with length := 752, stream := tsStream.take 376 |>.set 200 1 }, ?_⟩, ?_, ?_, ?_, ⟨setQpErr ingesting 4095 true, ?_⟩, ?_, ?_,
    ⟨withSample { sample 2048 0 with q := 1 } |> fun s => setIng s { s.ing with samples := (List.range 64).map (fun n => { sample 2048 0 with id := n, area := some n }) }, ?_⟩,
    ⟨setIng ingesting { ingesting.ing with qps := [(0, { psn := 1, reads := [{ readOp with got := 1 }], tries := 0, resetDue := true, due := false })] }, ?_⟩⟩
  all_goals decide +kernel

/-- An H.264 stream of 4 by 4 grey pictures, of a level that Table 13.3 has or not, coded field by field or not; and a grey picture of one sample. -/
def streamInfo (level : Nat) (fields : Bool) : StreamInfo :=
  { profile := .main, level := level, sampled := true, mono := true, depth := 8, width := 4, height := 4, interlaced := fields, fieldSeq := fields, refs := 2 }
def picture : Picture :=
  { width := 1, height := 1, depth := 8, mono := true, interlaced := false, matrix := none, fullRange := none, luma := [128], cb := [], cr := [] }
def frame (error : Bool) (predicted : List Nat) : FrameResult :=
  { number := 0, random := false, nonref := true, second := false, error := error, predicted := predicted, units := [0], first := true, pts := 5 }

/-- The sample of recipe 0, all of whose stream has arrived; on pipe 47; and of an HEVC stream coded field by field, of which one field waits. -/
def clip : IngSample := { sample 752 752 with length := 752, stream := tsStream }
def piped (bad : List Nat) : IngSample := { clip with pipe := some 47, info := some (streamInfo 52 false), codec := some 1, bad := bad }
def fielded (half : Option FrameResult) : IngSample :=
  { clip with pipe := some 47, info := some (streamInfo 51 true), codec := some 2, half := half.map (fun f => (f, picture)) }

/-- A sample of data step 0 waits for the shuffle, and `count` steps have started. -/
def delivering (count : Nat) : State :=
  { setIng ingesting { ingesting.ing with ready := [⟨0, 0, 0, 0, 0, 0, 0⟩] } with step := { StepState.reset with count := count } }

/-- The search of PIPE_ASSIGN. -/
def found (x : IngSample) : Bool :=
  x.pipe.isNone && !x.unsupported && !x.failed && decide (0 < x.received) && (x.demux.ready || decide (2 ≤ x.container) || x.received == x.length)

set_option maxRecDepth 100000 in
theorem witness_SamplesAreDecodedAndDelivered :
    ((withSample clip).ing.samples.find? found = some clip ∧ freePipe (withSample clip) = some 0 ∧ clip.demux.ready = true
      ∧ streamOk (withSample clip) clip clip.demux (streamInfo 52 false) = true ∧ streamOk (withSample clip) clip clip.demux (streamInfo 53 false) = false)
    ∧ (found { clip with stream := [] } = true ∧ clip.container < 2 ∧ ({ clip with stream := [] } : IngSample).demux.ready = false
      ∧ found { clip with container := 2, stream := [], received := 1 } = true)
    ∧ (∃ s : State, s.ing.samples.find? (fun x => x.pipe == some (47 : Fin 48).val) = some (piped []) ∧ (piped []).info ≠ none
      ∧ (∀ k ∈ (frame false []).units, k < (piped []).demux.units.length)
      ∧ skipsPicture (recipeAt s 0) (piped []) (frame false []) = false ∧ (frame false []).error = false
      ∧ (∀ k ∈ (frame false []).units, (((piped []).demux.units[k]?).map (·.errored)) = some false)
      ∧ (∀ n ∈ (frame false []).predicted, n ∉ (piped []).bad)
      ∧ (∀ k ∈ s.ing.frames, k.place ≠ framePlace s 47 (piped []) (pictureSize picture))
      ∧ keptIndex (recipeAt s 0) (piped []).start (frame false []).number = some 0 ∧ 0 ∉ (piped []).decided)
    ∧ (∃ s : State, s.ing.samples.find? (fun x => x.pipe == some (47 : Fin 48).val) = some (piped [3])
      ∧ ∃ n ∈ (frame false [3]).predicted, n ∈ (piped [3]).bad)
    ∧ (∃ s : State, ∃ k ∈ s.ing.frames, k.place = framePlace s 47 (piped []) (pictureSize picture))
    ∧ (skipsPicture (recipeAt ingesting 0) { piped [] with decided := [0] } (frame false []) = true
      ∧ (∀ k, keptIndex (recipeAt ingesting 0) 0 7 = some k → k ∈ (piped []).decided))
    ∧ ((piped []).codec ≠ some 2 ∧ (fielded none).codec = some 2 ∧ (∃ i, (fielded none).info = some i ∧ i.fieldSeq = true) ∧ (fielded none).half = none)
    ∧ (∀ g ∈ [({ frame false [] with number := 1 } : FrameResult), frame false [], { frame false [] with second := true }],
      (withSample (fielded (some g))).ing.samples.find? (fun x => x.pipe == some (47 : Fin 48).val) = some (fielded (some g))
      ∧ (fielded (some g)).half = some (g, picture))
    ∧ ((sample 752 0).info = none ∧ ({ piped [] with received := 376, stream := tsStream.take 376 } : IngSample).demux.units.length ≤ 0)
    ∧ (∃ s : State, s.ing.frames = [{ sample := 0, index := 0, place := 0, head := picture }] ∧ sampleById s 0 = some (piped []))
    ∧ (∃ (s : State) (x : IngSample), s.ing.samples[0]? = some x ∧ 0 < (tagEntry s (stagingTag s)).slots ∧ (slotAt s (stagingTag s) 0).st = .empty
      ∧ ingestOn s = true ∧ sampleDone s x true = true ∧ startPassed s x.dstep = false ∧ x.demux.audio.length = 3)
    ∧ ((tagEntry ingesting (stagingTag ingesting)).slots ≤ 2 ∧ (slotAt (setSlot ingesting 0 1 .full) (stagingTag ingesting) 1).st ≠ .empty)
    ∧ (∃ (s : State) (x : IngSample), s.ing.samples.find? (fun x => startPassed s x.dstep) = some x)
    ∧ (∀ count ∈ [0, 1], ∃ (s : State) (x : ReadySample), s.ing.ready = [x] ∧ s.held DRV_SHUF_CFG.ENABLE ≠ 0 ∧ sampleHeld s x = false ∧ (s.get DRV_ROUTE_CFG.SHUF_SHARE ≠ 0 ∨ routeSending s = false) ∧ s.step.count = count ∧ x.dstep = 0)
    ∧ (freePipe .reset = some 0 ∧ State.reset.ing.samples = [] ∧ State.reset.ing.frames = [] ∧ State.reset.ing.ready = [] ∧ ingestOn .reset = false)
    ∧ (∃ (s : State) (x : IngSample), s.ing.samples[0]? = some x ∧ ingestOn s = true ∧ sampleDone s x false = false)
    ∧ (∃ s : State, s.ing.frames = [{ sample := 9, index := 0, place := 0, head := picture }] ∧ sampleById s 9 = none)
    ∧ (∃ s : State, ingestOn s = true ∧ shufB s ≤ shufN s ∧ s.ing.dstep ≤ s.step.count)
    ∧ (∃ (s : State) (x : ReadySample), s.ing.ready = [x] ∧ s.held DRV_SHUF_CFG.ENABLE ≠ 0 ∧ s.step.count ≤ x.dstep ∧ sampleHeld s x = true) := by
  refine ⟨?_, ?_, ⟨withSample (piped []), ?_⟩, ⟨withSample (piped [3]), ?_⟩,
    ⟨setIng ingesting { ingesting.ing with frames := [{ sample := 0, index := 0, place := framePlace ingesting 47 (piped []) 1, head := picture }] }, ?_⟩,
    ⟨?_, ?_⟩, ⟨by decide +kernel, by decide +kernel, ⟨_, rfl, by decide +kernel⟩, rfl⟩, ?_, ?_,
    ⟨setIng (withSample (piped [])) { (withSample (piped [])).ing with frames := [{ sample := 0, index := 0, place := 0, head := picture }] }, ?_⟩,
    ⟨withSample (piped []), piped [], ?_⟩, ?_, ⟨{ withSample (piped []) with step := { StepState.reset with count := 1 } }, piped [], ?_⟩, ?_, ?_,
    ⟨withSample (sample 2048 0), sample 2048 0, ?_⟩,
    ⟨setIng ingesting { ingesting.ing with frames := [{ sample := 9, index := 0, place := 0, head := picture }] }, ?_⟩, ⟨ingesting, ?_⟩,
    ⟨{ setIng ingesting { ingesting.ing with ready := [⟨0, 2, 0, 0, 0, 0, 0⟩] } with step := { StepState.reset with running := true, count := 1 } },
      ⟨0, 2, 0, 0, 0, 0, 0⟩, ?_⟩⟩
  case refine_14 =>
    intro count h
    simp only [List.mem_cons, List.not_mem_nil, or_false] at h
    rcases h with rfl | rfl
    · exact ⟨delivering 0, ⟨0, 0, 0, 0, 0, 0, 0⟩, by decide +kernel⟩
    · exact ⟨delivering 1, ⟨0, 0, 0, 0, 0, 0, 0⟩, by decide +kernel⟩
  case refine_7 =>
    intro k h
    have : keptIndex (recipeAt ingesting 0) 0 7 = none := by decide +kernel
    rw [this] at h
    cases h
  all_goals decide +kernel

/-- A transport stream is taken apart: its PAT, its PMT, a PES packet of H.264 with its time and one of audio; a byte that falsifies the PAT's CRC_32. -/
theorem test_transport_stream :
    demux 0 0 752 tsStream = ⟨0, true, some 1, false, [⟨false, some 0x123456789⟩], [0x11, 0x22, 0x33]⟩
    ∧ (demux 0 0 752 (tsStream.set 20 1)).errors = 1 := by decide +kernel

/-- An ISO file whose moov box comes first: an HEVC track of two samples with composition offsets; the same cut short by a byte. -/
theorem test_iso_file :
    demux 1 0 447 isoFile = ⟨0, true, some 2, false, [⟨false, some 3000⟩, ⟨false, some 9000⟩], []⟩
    ∧ (demux 1 0 446 (isoFile.take 446)).units = [⟨false, some 3000⟩, ⟨true, some 9000⟩] := by decide +kernel

/-! Images and firmware. -/

/-- An image operation on slot 3 runs. -/
def asked (s : State) (op : Nat) (opened : Bool) : State :=
  { trusting s with ctl := { (trusting s).ctl with op := some { op := op, slot := 3, opened := opened } } }

/-- The image in the staging region. -/
def staging (s : State) : State := { s with ctl := { s.ctl with staging := stagedAs imgBytes } }

/-- The image waits for its boundary. -/
def awaitingImage : State :=
  { trusting (withRegs .reset [(PWR_LAST_TENANT.TENANT, 9)]) with ctl := { (trusting .reset).ctl with load := some { op := 3, slot := 3, bytes := imgBytes, change := none } } }

/-- Its installation, before its tables are written or with its fills under way. -/
def installing (filling : Bool) : State :=
  let s := trusting .reset
  { s with
    image := some (parseImage imgBytes)
    ctl := { s.ctl with installing := some { load := { op := 3, slot := 3, bytes := imgBytes, change := none }, old := 0, scrubs := true, filling := filling } } }

/-- The image waits after an image of the same tenant. -/
def sameTenant : State :=
  let s := withRegs awaitingImage [(PWR_LAST_TENANT.TENANT, (parseImage imgBytes).tenant)]
  { s with ctl := { s.ctl with unscrubbed := false } }

/-- An image of one tag, which is to be filled with zeros. -/
def zeroing : State :=
  { withTag .reset 0 (1 + 2 ^ 5) 1 0 0 with image := some { digest := [], tenant := 0, minFw := 0, sections := [(2, List.replicate 32 0)] } }

/-- Recovery boot. -/
def recovery : State := withRegs .reset [(CTL_STATUS.BOOT, 2)]

/-- The staging region is open from byte 5 on. -/
def opened5 : State := { State.reset with ctl := { CtlState.reset with stageNext := some 5 } }

/-- A journal of one record, that counts, of `n` bytes. -/
def oneRecord (d : List Byte) : CtlState :=
  { CtlState.reset with journal := [{ typ := recLOG, key := 0, data := d, seq := 1 }, { typ := recCOMMIT, key := 1, data := [], seq := 2 }] }

/-- A journal more than 75 % full: one record of 378 MiB; and one that is full: one of 504 MiB. -/
theorem high_journal : ∃ d : List Byte, (oneRecord d).journalHigh = true := by
  obtain ⟨d, hd⟩ : ∃ d : List Byte, d.length = 396492800 := ⟨_, List.length_replicate (a := 0)⟩
  refine ⟨d, ?_⟩
  simp only [CtlState.journalHigh, oneRecord, pagesOf, List.foldl, JournalRec.pages, hd, CtlState.journalPages, journalBlocks, blockPages, CtlState.reset, ceilDiv,
    decide_eq_true_eq, List.length_nil]
  omega

theorem full_journal : ∃ d : List Byte, ∀ r : JournalRec, journalFits (oneRecord d) r = false := by
  obtain ⟨d, hd⟩ : ∃ d : List Byte, d.length = 528470016 := ⟨_, List.length_replicate (a := 0)⟩
  refine ⟨d, fun r => ?_⟩
  have h : compacted (oneRecord d).journal = [{ typ := recLOG, key := 0, data := d, seq := 3 }, { typ := recCOMMIT, key := 3, data := [], seq := 4, flags := 1 }] := rfl
  rw [journalFits, h]
  simp only [oneRecord, pagesOf, List.foldl, JournalRec.pages, hd, CtlState.journalPages, journalBlocks, blockPages, CtlState.reset, ceilDiv, Bool.or_eq_false_iff,
    decide_eq_false_iff_not, List.length_nil]
  omega

theorem filled_img : filledBytes (stagedAs imgBytes) = imgBytes := filled_staged imgBytes (by decide +kernel)

set_option maxRecDepth 100000 in
theorem img_fits : journalFits CtlState.reset { typ := recIMAGE, key := 3, data := imgBytes.take (ImageFile.signedSize imgBytes + 64) } = true := by decide +kernel

theorem judge_staged : (judgeImage (asked (staging .reset) 2 true) imgBytes).code = 0 ∧ (judgeImage (asked (storing .reset) 3 false) imgBytes).code = 0 := by
  have h {s : State} (ho : s.ctl.owners = (trusting .reset).ctl.owners) (hf : s.ctl.firmware = (trusting .reset).ctl.firmware) :
      (judgeImage s imgBytes).code = 0 := by rw [judge_of imgBytes ho hf, img_accepted]; rfl
  exact ⟨h rfl rfl, h rfl rfl⟩

set_option maxRecDepth 100000 in
theorem witness_ImageOperationsTakeEffect :
    (State.reset.flag CTL_IMG_STATUS.BUSY = false ∧ (withRegs .reset [(CTL_IMG_STATUS.BUSY, 1)]).flag CTL_IMG_STATUS.BUSY = true)
    ∧ (∀ op opened, (asked .reset op opened).ctl.op = some { op := op, slot := 3, opened := opened } ∧ fwRuns (asked .reset op opened) = true)
    ∧ (judgeImage (asked .reset 2 true) (filledBytes (asked .reset 2 true).ctl.staging)).code ≠ 0
    ∧ ((asked (staging .reset) 2 true).ctl.staging = stagedAs imgBytes ∧ filledBytes (stagedAs imgBytes) = imgBytes
      ∧ (judgeImage (asked (staging .reset) 2 true) imgBytes).code = 0
      ∧ journalFits (noteProgFails (asked (staging .reset) 2 true) 0).ctl
          { typ := recIMAGE, key := 3, data := imgBytes.take (ImageFile.signedSize imgBytes + 64) } = true)
    ∧ (slotImage (asked (storing .reset) 3 false) 3 = some imgBytes ∧ (judgeImage (asked (storing .reset) 3 false) imgBytes).code = 0
      ∧ (asked (storing .reset) 3 false).ctl.load = none)
    ∧ slotImage (asked .reset 7 false) 3 = none
    ∧ (slotImage (asked (storing .reset) 5 false) 3 ≠ none ∧ deleteFits (asked (storing .reset) 5 false) = true)
    ∧ journalFits (asked (storing .reset) 6 false).ctl { typ := recDEFAULT, key := 0, data := toBytes 1 3 } = true
    ∧ ownerRefused (asked .reset 8 true) ((List.range 256).map (fun i => (FMap.find (asked .reset 8 true).ctl.staging i).getD 0xFF)) = true
    ∧ deleteFits (asked .reset 9 false) = true
    ∧ (∃ s : State, s.ctl.op = some { op := 2, slot := 3, opened := true } ∧ fwRuns s = true
      ∧ ∀ r, journalFits (noteProgFails s 0).ctl r = false)
    ∧ ((∃ l, awaitingImage.ctl.load = some l ∧ l.bytes = imgBytes ∧ l.change = none) ∧ awaitingImage.step.running = false
      ∧ awaitingImage.flag CTL_FW_STATUS.SWITCH_PENDING = false ∧ fwRuns awaitingImage = true ∧ ImageFile.minFw imgBytes ≤ fwVersion awaitingImage
      ∧ awaitingImage.get PWR_LAST_TENANT.TENANT ≠ ImageFile.tenant imgBytes)
    ∧ ((asked .reset 1 true).ctl.op.isSome = true ∧ State.reset.ctl.op = none ∧ State.reset.ctl.installing = none ∧ State.reset.ctl.load = none)
    ∧ (isSysRm (asked (storing .reset) 7 false) = false ∧ isSysRm (asked (storing linked) 7 false) = true)
    ∧ (scrubDue (takeLoad awaitingImage) (parseImage imgBytes).tenant = true ∧ scrubDue (takeLoad sameTenant) (parseImage imgBytes).tenant = false
      ∧ (parseImage imgBytes).minFw ≤ fwVersion awaitingImage)
    ∧ (∀ filling ∈ [true, false], (installing filling).step.running = false ∧ fwRuns (installing filling) = true
      ∧ (installing filling).ctl.installing = some { load := { op := 3, slot := 3, bytes := imgBytes, change := none }, old := 0, scrubs := true, filling := filling }
      ∧ (installing filling).image = some (parseImage imgBytes))
    ∧ (∃ w : State, zeroDue w = true) ∧ zeroDue .reset = false
    ∧ (recovery.get CTL_STATUS.BOOT = 2 ∧ (393215 : BitVec 22).toNat + [(1 : Byte)].length ≤ 393216 ∧ State.reset.ctl.stageNext = none
      ∧ State.reset.get CTL_STATUS.BOOT ≠ 2)
    ∧ (opened5.get CTL_STATUS.BOOT ≠ 2 ∧ opened5.ctl.stageNext = some 5 ∧ 5 ≤ (5 : BitVec 22).toNat ∧ (4 : BitVec 22).toNat < 5
      ∧ 2 ^ 22 < (BitVec.allOnes 22).toNat + 2) := by
  have full : ∃ s : State, s.ctl.op = some { op := 2, slot := 3, opened := true } ∧ fwRuns s = true ∧ ∀ r, journalFits (noteProgFails s 0).ctl r = false := by
    obtain ⟨d, h⟩ := full_journal
    exact ⟨{ trusting .reset with ctl := { oneRecord d with op := some { op := 2, slot := 3, opened := true } } }, rfl, rfl, fun r => by rw [← h]; rfl⟩
  refine ⟨⟨?_, ?_⟩, fun op opened => ⟨rfl, rfl⟩, ?_, ⟨rfl, filled_img, judge_staged.1, by rw [← img_fits]; rfl⟩, ⟨rfl, judge_staged.2, rfl⟩, ?_, ⟨?_, ?_⟩, ?_, ?_, ?_, full,
    ⟨⟨_, rfl, rfl, rfl⟩, ?_⟩, ?_, ?_, ?_, ?_, ⟨zeroing, ?_⟩, ?_, ?_, ?_⟩
  all_goals decide +kernel

/-- A firmware copy, and a state in which it runs, is staged and waits for its boundary. -/
def fwCopy : Firmware := { version := 7, svn := 1, file := [1, 2, 3] }
def holding (s : State) : State :=
  let u := withRegs s [(CTL_STATUS.BOOT, 1), (CTL_FW_STATUS.SWITCH_PENDING, 1)]
  { u with ctl := { u.ctl with firmware := some fwCopy, staged := some { fwCopy with version := 8 }, fwOp := some false } }

/-- A compaction runs, whose copies are committed or not. -/
def compacting (done : Bool) : State :=
  { holding .reset with ctl := { (holding .reset).ctl with compacting := some { first := 2, done := done } } }

theorem witness_FirmwareJournalAndQuotesTakeEffect :
    (State.reset.flag CTL_FW_STATUS.BUSY = false ∧ (holding .reset).flag CTL_FW_STATUS.BUSY = false ∧ (holding .reset).ctl.staged = some { fwCopy with version := 8 })
    ∧ (counted (storing .reset).ctl.journal = (storing .reset).ctl.journal ∧ recIMAGE ≠ recDELETE ∧ recIMAGE ≠ recCOMMIT)
    ∧ ((holding .reset).step.running = false ∧ (holding .reset).flag CTL_FW_STATUS.SWITCH_PENDING = true ∧ fwRuns (holding .reset) = true
      ∧ (holding .reset).ctl.installing = none)
    ∧ (∃ s : State, s.ctl.staged = some fwCopy ∧ s.ctl.switching = true)
    ∧ ((holding .reset).ctl.fwOp = some false
      ∧ journalFits (noteProgFails (holding .reset) 1).ctl { typ := recFIRMWARE, key := 0, data := fwCopy.file } = true)
    ∧ (∃ s : State, s.ctl.fwOp = some false ∧ fwRuns s = true ∧ s.ctl.staged = some fwCopy
      ∧ journalFits (noteProgFails s 0).ctl { typ := recFIRMWARE, key := 0, data := fwCopy.file } = false)
    ∧ (∃ s : State, fwRuns s = true ∧ s.ctl.compacting = none ∧ s.ctl.journalHigh = true)
    ∧ (∀ done, fwRuns (compacting done) = true ∧ (compacting done).ctl.compacting = some { first := 2, done := done })
    ∧ (∀ d : List Byte, d.length = 96 + 8 * (holding .reset).ctl.life.bad.length →
      journalFits (holding .reset).ctl { typ := recLIFETIME, key := 0, data := d } = true)
    ∧ State.reset.flag CTL_ATT_STATUS.BUSY = false
    ∧ (∃ s : State, s.get CTL_ATT_STATUS.BUSY ≠ 0 ∧ s.ctl.quote.length = 144)
    ∧ ((withRegs .reset [(CTL_FW_STATUS.BUSY, 1)]).flag CTL_FW_STATUS.BUSY = true ∧ State.reset.ctl.staged = none ∧ State.reset.ctl.fwOp = none
      ∧ State.reset.get CTL_FW_STATUS.SWITCH_PENDING = 0 ∧ fwRuns (withRegs .reset [(CTL_STATUS.BOOT, 4)]) = false
      ∧ State.reset.ctl.compacting = none ∧ State.reset.ctl.journalHigh = false ∧ (withRegs .reset [(CTL_ATT_STATUS.BUSY, 1)]).flag CTL_ATT_STATUS.BUSY = true
      ∧ State.reset.get CTL_ATT_STATUS.BUSY = 0)
    ∧ (∃ s : State, s.ctl.fwOp = some true ∧ s.get CTL_STATUS.BOOT ≠ 2 ∧ fwRuns s = true)
    ∧ (∃ s : State, s.ctl.fwOp = some true ∧ s.get CTL_STATUS.BOOT = 2 ∧ judgeFirmware s (filledBytes s.ctl.recovery) ≠ 0)
    ∧ (∃ s : State, s.ctl.fwOp = some false ∧ fwRuns s = true ∧ s.ctl.staged = none) := by
  refine ⟨by decide +kernel, ⟨rfl, by decide, by decide⟩, by decide +kernel,
    ⟨{ State.reset with ctl := { CtlState.reset with staged := some fwCopy, switching := true } }, by decide +kernel⟩, by decide +kernel, ?_, ?_,
    fun done => ⟨rfl, rfl⟩, ?_,
    by decide +kernel, ⟨{ withRegs .reset [(CTL_ATT_STATUS.BUSY, 1)] with ctl := { CtlState.reset with quote := List.replicate 144 0 } }, by decide +kernel⟩,
    by decide +kernel, ⟨{ holding .reset with ctl := { (holding .reset).ctl with fwOp := some true } }, by decide +kernel⟩,
    ⟨{ recovery with ctl := { recovery.ctl with fwOp := some true } }, by decide +kernel⟩,
    ⟨{ holding .reset with ctl := { (holding .reset).ctl with staged := none } }, by decide +kernel⟩⟩
  · obtain ⟨d, h⟩ := full_journal
    exact ⟨{ holding .reset with ctl := { oneRecord d with staged := some fwCopy, fwOp := some false } }, rfl, rfl, rfl, by rw [← h]; rfl⟩
  · obtain ⟨d, h⟩ := high_journal
    exact ⟨{ holding .reset with ctl := oneRecord d }, rfl, rfl, h⟩
  intro d hd
  have : (holding .reset).ctl.journal = [] := rfl
  have hl : (holding .reset).ctl.life.bad = [] := rfl
  simp only [journalFits, this, CtlState.journalPages, hl, JournalRec.pages, hd]
  decide +kernel

/-! Faults and the control space. -/

/-- Power is on, release is complete, firmware runs, and a step runs; the cores lock up with or without an earlier lock-up. -/
def poweredOn (s : State) : State :=
  let u := withRegs s [(CTL_STATUS.BOOT, 1)]
  { u with pwr := { u.pwr with on := true } }

def lockedUp (b : Bool) : State := { poweredOn .reset with flt := { (poweredOn .reset).flt with lockedUp := b } }

/-- The control domain restarts, and the copy that ran is there. -/
def restarting : State :=
  let u := withRegs (poweredOn .reset) [(FLT_STATUS.RESTARTING, 1)]
  { u with ctl := { u.ctl with firmware := some fwCopy } }

/-- The release after a reset of source `code` is in progress, at step 6, and firmware runs. -/
def resetting (code : Nat) : State :=
  let u := withRegs (poweredOn .reset) [(PWR_STATUS.RELEASE, 6)]
  { u with pwr := { u.pwr with sources := [code] } }

/-- An entry waits to be written at the ring's last place. -/
def logged : State :=
  let u := withRegs .reset [(FLT_LOG_HEAD.NEXT, 16383)]
  { u with logIn := { u.logIn with queue := [{ region := 3, event := 7, level := 2, action := 1 }] } }

theorem witness_FaultsAreContained :
    (coresRun (lockedUp false) = true ∧ coresRun (lockedUp true) = true ∧ (true && (lockedUp true).flt.lockedUp) = true
      ∧ (true && (lockedUp false).flt.lockedUp) = false)
    ∧ (fwRuns (poweredOn .reset) = true ∧ sourcesLeft (poweredOn .reset) = [] ∧ (∀ e ∈ (poweredOn .reset).flt.fwq, e.stops = false))
    ∧ (coresRun (resetting 3) = true ∧ ((sourcesLeft (resetting 3) ++ [9]).any chipSource) = true ∧ fwRuns (resetting 3) = true)
    ∧ (coresRun (resetting 5) = true ∧ ((sourcesLeft (resetting 5) ++ [4]).any chipSource) = false ∧ (∃ d ∈ sourcesLeft (resetting 5) ++ [4], d ≠ 4 ∧ d ≠ 9))
    ∧ (∃ s : State, fwRuns s = true ∧ (∃ e ∈ s.flt.fwq, e.stops = true))
    ∧ (restarting.get FLT_STATUS.RESTARTING ≠ 0 ∧ restarting.get CTL_STATUS.BOOT ≠ 2 ∧ restarting.ctl.firmware = some fwCopy
      ∧ restarting.get CTL_STATUS.BOOT = 1 ∧ restarting.ctl.switching = false)
    ∧ (fwRuns State.reset = false ∧ State.reset.flt.fwq.length < 256)
    ∧ (∃ s : State, fwRuns s = false ∧ 256 ≤ s.flt.fwq.length)
    ∧ (coresRun .reset = false ∧ State.reset.get FLT_STATUS.RESTARTING = 0 ∧ State.reset.logIn.queue = [])
    ∧ flashFirmware restarting = none
    ∧ ((stepping .reset).step.running = true ∧ State.reset.step.running = false)
    ∧ (0x5B : BitVec 8) ≠ 0x5A
    ∧ (∃ e rest, logged.logIn.queue = e :: rest ∧ logged.get FLT_LOG_HEAD.NEXT = 16383) := by
  refine ⟨?_, ?_, ?_, ⟨?_, ?_, ⟨5, ?_⟩⟩, ⟨{ poweredOn .reset with flt := { (poweredOn .reset).flt with fwq := [.stage4] } }, ?_⟩, ?_, ?_, ⟨{ State.reset with flt := { State.reset.flt with fwq := List.replicate 256 .snapshot } }, ?_⟩, ?_,
    ?_, ?_, ?_, ⟨_, _, rfl, ?_⟩⟩
  all_goals decide +kernel

theorem witness_RegisterAccessesTakeEffect :
    (0x800020 = (0x100004 : BitVec 21).toNat * 8 ∧ schedAt 0x800020 = none ∧ winAt 0x800020 = none ∧ 0x800020 < 0xD0F000 ∧ 0xA0 ≤ 0x800020
      ∧ (0x800020 < 0x908000) ∧ (∀ u x q, writeActs u 0x800020 x q = u) ∧ CAD_CFG.TC_PERIOD ∈ regFields groups 0x800020 ∧ CAD_CFG.TC_PERIOD.acc = .rw)
    ∧ (0xA00008 = (0x140001 : BitVec 21).toNat * 8 ∧ schedAt 0xA00008 = none ∧ winAt 0xA00008 = none ∧ (∀ u x q, writeActs u 0xA00008 x q = u)
      ∧ FLT_FLAGS.LOCKUP ∈ regFields groups 0xA00008 ∧ FLT_FLAGS.LOCKUP.acc = .w1c ∧ hasFlags 0xA00008 = true)
    ∧ (State.reset.get HST_LINK.RATE = 0 ∧ (withRegs .reset [(HST_LINK.RATE, 6)]).get HST_LINK.RATE ≠ 0)
    ∧ (inMap (BitVec.allOnes 44).toNat = false ∧ State.reset.logIn.queue.length < 64 ∧ inMap (0 : BitVec 44).toNat = true)
    ∧ (∃ s : State, s.commitNow.isSome = true) ∧ (withRegs .reset [(CTL_ATT_STATUS.BUSY, 1)]).flag CTL_ATT_STATUS.BUSY = true
    ∧ (∃ reg : BitVec 21, (schedAt (reg.toNat * 8)).isSome = true)
    ∧ (∃ reg : BitVec 21, schedAt (reg.toNat * 8) = none ∧ (winAt (reg.toNat * 8)).isSome = true)
    ∧ (∃ reg : BitVec 21, reg.toNat * 8 = 0xD0F000) ∧ (∃ reg : BitVec 21, reg.toNat * 8 = 0xD0F008) ∧ hasFlags 0x800020 = false := by
  refine ⟨⟨rfl, by decide, by decide, by decide, by decide, by decide, fun _ _ _ => rfl, by decide +kernel, rfl⟩,
    ⟨rfl, by decide, by decide, fun _ _ _ => rfl, by decide +kernel, rfl, by decide +kernel⟩, by decide +kernel, by decide +kernel, ⟨{ State.reset with commitNow := some (0, []) }, rfl⟩, by decide +kernel,
    ⟨0x100201, by decide +kernel⟩, ⟨0x1A0201, by decide +kernel⟩, ⟨0x1A1E00, by decide +kernel⟩, ⟨0x1A1E01, by decide +kernel⟩, by decide +kernel⟩

/-! Supply, resets and release. -/

/-- Release stands at a step. -/
def atRelease (n : Nat) : State := withRegs (poweredOn .reset) [(PWR_STATUS.RELEASE, n)]

/-- The last release step, where slot 3 holds the default image; or where it is being installed. -/
def atDefault : State :=
  let s := withRegs (trusting (poweredOn .reset)) [(PWR_STATUS.RELEASE, 7), (PWR_OPT.DEFAULT_EN, 1)]
  { s with ctl := { s.ctl with journal := [{ typ := recIMAGE, key := 3, data := imgBytes }, commitRec [] 0, { typ := recDEFAULT, key := 0, data := [3] }, commitRec [] 0] } }

/-- The supply has sagged: three samples at 45.4 V, and stage 1 called for; entry to stage 4 waits for its commit. -/
def sagging : State :=
  let u := poweredOn .reset
  { u with pwr := { u.pwr with vins := [45400, 45400, 45400], vstage := 1 }, flt := { u.flt with fwq := [.stage4] } }

/-- The same while an image operation and a store of firmware run. -/
def storingAt4 (op : Nat) : State :=
  { sagging with ctl := { sagging.ctl with op := some { op := op, slot := 3, opened := true }, fwOp := some false, staged := some fwCopy } }

theorem witness_SupplyAndTemperatureAreJudged :
    (judgeStage (4 * 45400) 4 1 = 3 ∧ judgeStage (4 * 49000) 4 1 = 1 ∧ judgeStage (4 * 50000 + 1) 4 1 = 0)
    ∧ (sagging.pwr.on = true ∧ sagging.pwr.vstage ≤ 4 ∧ ((45400 : BitVec 16).toNat :: sagging.pwr.vins).take 4 = [45400, 45400, 45400, 45400])
    ∧ (fwRuns sagging = true ∧ firstOf FwEvent.supply sagging.flt.fwq = some (true, [])
      ∧ firstOf FwEvent.supply [FwEvent.stage4Log] = some (false, []))
    ∧ ((⟨true, 262144⟩ : Stage4Write).complete = true ∧ ¬ ((⟨true, 262145⟩ : Stage4Write).left ≤ 262144) ∧ (⟨false, 0⟩ : Stage4Write).complete = false)
    ∧ ((storingAt4 2).ctl.op = some { op := 2, slot := 3, opened := true } ∧ fwRuns (storingAt4 2) = true)
    ∧ ((storingAt4 1).ctl.fwOp = some false ∧ (storingAt4 1).ctl.staged = some fwCopy ∧ (∀ o, (storingAt4 1).ctl.op = some o → o.op ≠ 2 ∧ o.op ≠ 4))
    ∧ (State.reset.pwr.on = false ∧ fwRuns .reset = false ∧ (atRelease 1).get PWR_STATUS.RELEASE = 1)
    ∧ (sagging.get PWR_STATUS.RELEASE ≠ 1 ∧ 115 ≤ max (115 : BitVec 8).toNat (3 : BitVec 8).toNat)
    ∧ firstOf FwEvent.supply State.reset.flt.fwq = none := by
  refine ⟨?_, ?_, ?_, ?_, ?_, ⟨by decide +kernel, by decide +kernel, ?_⟩, ?_, ?_, ?_⟩
  case refine_6 => rintro o ⟨rfl⟩; exact ⟨by decide, by decide⟩
  all_goals decide +kernel

set_option maxRecDepth 100000 in
theorem witness_ResetsAndReleaseTakeEffect :
    ((poweredOn .reset).pwr.on = true ∧ (poweredOn .reset).pwr.holdBrown = false ∧ (poweredOn .reset).pwr.holdOver = false
      ∧ (poweredOn .reset).pwr.holdPin = false ∧ (poweredOn .reset).pwr.holdClock = false ∧ (poweredOn .reset).logIn.queue.length < 63
      ∧ (withRegs (poweredOn .reset) [(PWR_OPT.DEBUG_EN, 1)]).flag PWR_OPT.DEBUG_EN = true)
    ∧ State.reset.pwr.on = false
    ∧ (atDefault.get PWR_STATUS.RELEASE = 7 ∧ fwRuns atDefault = true ∧ atDefault.ctl.installing = none ∧ defaultSlot atDefault = some 3
      ∧ atDefault.flag PWR_OPT.DEFAULT_EN = true ∧ slotImage atDefault 3 = some imgBytes ∧ (judgeImage atDefault imgBytes).code = 0
      ∧ scrubDue (takeLoad atDefault) (parseImage imgBytes).tenant = true ∧ (∀ e, Upset.record recDEFAULT 0 e ∉ atDefault.upsets))
    ∧ (∃ s : State, s.upsets = [.record recDEFAULT 0 .persistent] ∧ s.get PWR_STATUS.RELEASE = 7 ∧ fwRuns s = true ∧ s.ctl.installing = none
      ∧ defaultSlot s ≠ none)
    ∧ ((sourcesLeft (resetting 5)).any chipSource = false ∧ (sourcesLeft (resetting 3)).any chipSource = true ∧ (∀ d ∈ sourcesLeft (resetting 3) ++ [6], 2 < d))
    ∧ (∃ s : State, s.get PWR_STATUS.RELEASE = 7 ∧ fwRuns s = true ∧ defaultSlot s = some 3 ∧ s.flag PWR_OPT.DEFAULT_EN = true ∧ slotImage s 3 = none)
    ∧ (∃ s : State, s.get PWR_STATUS.RELEASE = 7 ∧ fwRuns s = true ∧ s.image = some (parseImage imgBytes)
      ∧ s.ctl.installing = some { load := { op := 3, slot := 3, bytes := imgBytes, change := none }, old := 0, scrubs := true, filling := true })
    ∧ (∃ s : State, s.get PWR_STATUS.RELEASE = 4 ∧ fwRuns s = false ∧ s.get CTL_STATUS.BOOT = 0 ∧ flashFirmware s = none)
    ∧ (∃ s : State, s.get PWR_STATUS.RELEASE = 5 ∧ journalGet s.ctl.journal recRETIRE 0 = some (toBytes 8 (2 ^ 24 + 7)))
    ∧ (∃ s : State, s.pwr.on = true ∧ s.pwr.holdPin = true)
    ∧ (∀ n ∈ [1, 2, 3, 4, 5, 6, 7], (atRelease n).pwr.on = true ∧ (atRelease n).get PWR_STATUS.RELEASE = n ∧ fwRuns (atRelease n) = true
      ∧ (atRelease n).pwr.holdBrown = false ∧ (atRelease n).pwr.holdOver = false ∧ (atRelease n).pwr.holdPin = false ∧ (atRelease n).pwr.holdClock = false
      ∧ journalGet (atRelease n).ctl.journal recRETIRE 0 = none ∧ defaultSlot (atRelease n) = none) := by
  refine ⟨by decide +kernel, by decide +kernel,
    ⟨by decide +kernel, by decide +kernel, by decide +kernel, by decide +kernel, by decide +kernel, by decide +kernel, ?_, by decide +kernel, fun _ h => nomatch h⟩,
    ⟨{ atDefault with upsets := [.record recDEFAULT 0 .persistent] }, by decide +kernel⟩, by decide +kernel,
    ⟨{ atDefault with ctl := { atDefault.ctl with journal := [{ typ := recDEFAULT, key := 0, data := [3] }, commitRec [] 0] } }, by decide +kernel⟩,
    ⟨withRegs (installing true) [(PWR_STATUS.RELEASE, 7)], by decide +kernel⟩, ⟨withRegs .reset [(PWR_STATUS.RELEASE, 4)], by decide +kernel⟩,
    ⟨{ atRelease 5 with ctl := { (atRelease 5).ctl with journal := [{ typ := recRETIRE, key := 0, data := toBytes 8 (2 ^ 24 + 7) }, commitRec [] 0] } }, by decide +kernel⟩,
    ⟨{ poweredOn .reset with pwr := { PowerState.reset with on := true, holdPin := true } }, by decide +kernel⟩, by decide +kernel⟩
  rw [judge_of (s := atDefault) (u := trusting .reset) imgBytes rfl rfl, img_accepted]
  rfl

/-- The lane that R507 places: port P9, lane 5, is in column 56 of J2. -/
theorem test_lane_column : (Lane.fabric 9 5).column = (2, 56) := by decide

/-! The host port and observation. -/

/-- Window 5 is open on tag 1 with writes; the link is up and the function a master. -/
def hosting : State :=
  let u := withRegs tagged [(HST_WIN.VALID 5, 1), (HST_WIN.TAG 5, 1), (HST_WIN.WR 5, 1), (HST_LINK.RATE, 5), (HST_LINK.BME, 1), (HST_MIRROR.ENABLE, 1),
    (HST_ATTN_EN.EN, 2 ^ 7), (HST_ATTN.ATTN, 2 ^ 7)]
  { u with image := some allocImage }

/-- The same with the vector masked or not, the holdoff running or not, and a message pending or kept back. -/
def messaging (masked holdoff pending kept : Bool) : State :=
  { hosting with host := { hosting.host with masked := masked, holdoff := holdoff, msgPending := pending, msgDue := kept } }

theorem witness_TheHostPortTakesEffect :
    (State.reset.logIn.queue.length < 64 ∧ windowOpen hosting 5 = true ∧ hosting.get (HST_WIN.WR 5) ≠ 0 ∧ windowOpen hosting 63 = false)
    ∧ (hosting.get HST_LINK.RATE ≠ 0 ∧ configured (poweredOn .reset) = true)
    ∧ (State.reset.get HST_LINK.RATE = 0 ∧ configured .reset = false ∧ State.reset.flag HST_MIRROR.ENABLE = false)
    ∧ (∃ s : State, windowOpen s 5 = true ∧ s.get (HST_WIN.WR 5) = 0)
    ∧ (Upset.hostLink ∉ hosting.upsets ∧ ∃ s : State, Upset.hostLink ∈ s.upsets)
    ∧ (63 ∉ hosting.host.winArmed ∧ ∃ s : State, windowOpen s 63 = false ∧ (63 : Fin 64).val ∈ s.host.winArmed)
    ∧ (linkMode 6 4 true = true ∧ linkMode 6 4 false = false ∧ linkMode 5 4 false = true ∧ linkMode 7 4 true = false ∧ FnReset.flr ≠ .perst)
    ∧ (∃ s : State, s.get CTL_STATUS.BOOT = 1 ∧ s.ctl.installing = none ∧ s.ctl.switching = true)
    ∧ (∃ u s : State, u = (s.setFlag HST_LINK.BME true).setFlag HST_LINK.D3HOT false ∧ mayRequest u = true ∧ s.host.msgDue = false
      ∧ s.flag HST_MIRROR.ENABLE = true ∧ s.host.mirrored ≠ some (hostWord u))
    ∧ (mayRequest hosting = true ∧ hosting.flag HST_MIRROR.ENABLE = true)
    ∧ (∀ masked holdoff pending kept, summary (messaging masked holdoff pending kept) = true ∧ (messaging masked holdoff pending kept).host.summary = false
      ∧ mayRequest (messaging masked holdoff pending kept) = true)
    ∧ (∃ (s : State) (x : Installation), s.get CTL_STATUS.BOOT = 1 ∧ s.ctl.installing = some x)
    ∧ (∃ s : State, s.get CTL_STATUS.BOOT = 1 ∧ s.ctl.installing = none ∧ s.flag FLT_STATUS.WITHDRAWN = false ∧ s.flag FLT_STATUS.ADOPTING = false
      ∧ supplyHolds s = false ∧ s.image.isSome = true ∧ s.step.running = true)
    ∧ (∃ s : State, s.host.msgDue = true ∧ s.host.masked = false ∧ mayRequest s = true ∧ summary s = false) := by
  refine ⟨by decide +kernel, by decide +kernel, by decide +kernel, ⟨withRegs hosting [(HST_WIN.WR 5, 0)], by decide +kernel⟩,
    ⟨by decide +kernel, { State.reset with upsets := [.hostLink] }, by decide +kernel⟩,
    ⟨by decide +kernel, { hosting with host := { hosting.host with winArmed := [63] } }, by decide +kernel⟩, by decide +kernel,
    ⟨{ withRegs .reset [(CTL_STATUS.BOOT, 1)] with ctl := { CtlState.reset with switching := true } }, by decide +kernel⟩, ⟨_, hosting, rfl, by decide +kernel⟩,
    by decide +kernel, by decide +kernel,
    ⟨{ withRegs hosting [(CTL_STATUS.BOOT, 1)] with ctl := { hosting.ctl with installing := some ⟨⟨3, 3, [], none⟩, 0, false, false⟩ } }, _, by decide +kernel, rfl⟩,
    ⟨{ withRegs hosting [(CTL_STATUS.BOOT, 1)] with step := { hosting.step with running := true } }, by decide +kernel⟩,
    ⟨withRegs (messaging false true false true) [(HST_ATTN_EN.EN, 0)], by decide +kernel⟩⟩

/-- The module is configured, has a dynamic address and may request interrupts; its reset flag is set. -/
def onBus (ibi : Option Nat) : State :=
  let u := withRegs (poweredOn .reset) [(HST_I3C.IBI_EN, 1), (HST_I3C.DVALID, 1)]
  { u with host := { u.host with ibi := ibi } }

theorem witness_I3cTransfersAreAnswered :
    (configured (poweredOn .reset) = true ∧ (poweredOn .reset).get HST_I3C.DVALID = 0 ∧ (0x5F : BitVec 7).toNat = (poweredOn .reset).get HST_I3C.SADDR)
    ∧ (answersAt (poweredOn .reset) ((poweredOn .reset).get HST_I3C.SADDR) = true ∧ answersAt (poweredOn .reset) 0 = false)
    ∧ (alertCond (onBus none) = true ∧ (onBus none).host.alert = false ∧ mayInterrupt (onBus none) = true)
    ∧ ((onBus (some 1)).host.ibi = some 1 ∧ mayInterrupt (onBus (some 1)) = true ∧ configured (onBus (some 1)) = true)
    ∧ (configured .reset = false ∧ alertCond .reset = false ∧ State.reset.host.ibi = none)
    ∧ (∃ s : State, alertCond s = true ∧ s.host.alert = false ∧ mayInterrupt s = false)
    ∧ (∃ s : State, s.host.ibi = some 1 ∧ mayInterrupt s = false)
    ∧ (∃ s : State, configured s = true ∧ s.flag HST_I3C.DVALID = true)
    ∧ (bit (0xF1 : BitVec 8).toNat 0 = true ∧ (List.replicate 8 (0xFF : Byte)).length = 8 ∧ bit (0xF0 : BitVec 8).toNat 0 = false) := by
  refine ⟨by decide +kernel, by decide +kernel, by decide +kernel, by decide +kernel, by decide +kernel, ⟨poweredOn .reset, by decide +kernel⟩,
    ⟨{ State.reset with host := { HostState.reset with ibi := some 1 } }, by decide +kernel⟩, ⟨onBus none, by decide +kernel⟩, by decide +kernel⟩

/-- The sampler may start, or runs with records of a kind and number in its staging buffer. -/
def sampling (run : Nat) (full : Bool) (n : Nat) : State :=
  let u := withRegs tagged [(OBS_RING.TAG, 1), (OBS_RING.SIZE, 16), (OBS_CTL.RUN, run)]
  { u with
    image := some allocImage
    obs := { u.obs with full := full, tag := 1, size := 16, staging := List.replicate n (List.replicate (if full then 512 else 64) 0) } }

theorem witness_TheSamplerTakesEffect :
    (runCode (sampling 0 false 0) = 0 ∧ (sampling 0 false 0).get OBS_CTL.RUN = 0)
    ∧ (runCode State.reset ≠ 0 ∧ State.reset.get OBS_CTL.RUN = 0)
    ∧ ((sampling 1 false 0).get OBS_CTL.RUN ≠ 0 ∧ (sampling 1 false 0).obs.staging = [] ∧ (sampling 1 false 0).obs.bursts = [])
    ∧ ((sampling 1 true 7).get PWR_STATUS.STAGE = 0 ∧ (sampling 1 true 7).get OBS_STATUS.ARMED = 0 ∧ (sampling 1 true 7).obs.period ≤ (sampling 1 true 7).obs.phase + 1024
      ∧ (sampling 1 true 7).obs.phase + 1023 < (sampling 1 true 7).obs.period ∧ ((sampling 1 true 7).obs.staging.length + 1) * 512 ≤ 4096
      ∧ 4096 < ((sampling 1 true 8).obs.staging.length + 1) * 512)
    ∧ (2048 ≤ (stagedBurst (sampling 1 false 32)).1.flatten.length
      ∧ (sampling 1 false 32).obs.next + (stagedBurst (sampling 1 false 32)).1.flatten.length / 64 < (sampling 1 false 32).obs.size * 64
      ∧ (tagEntry (sampling 1 false 32) 1).allows true (Int.ofNat 0) (stagedBurst (sampling 1 false 32)).1.flatten.length = true
      ∧ (tagEntry (sampling 1 false 32) 99).allows true (Int.ofNat 0) (stagedBurst (sampling 1 false 32)).1.flatten.length = false)
    ∧ (∃ s : State, s.obs.bursts = [(32, 32, true)]) := by
  refine ⟨by decide +kernel, by decide +kernel, by decide +kernel, by decide +kernel, by decide +kernel, ⟨{ State.reset with obs := { ObsState.reset with bursts := _ } }, rfl⟩⟩

/-! Formats and the machine as a whole. -/

theorem witness_FormatsAndRoundingsAreCorrect :
    (∀ f ∈ [FpFmt.binary32, .binary16, .bf16, .e4m3, .e5m2, .e2m3, .e3m2, .e2m1, .w48], 1 < 2 ^ (1 + f.eb + f.mb) ∧ (f.decode 1).isNan = false)
    ∧ (FpFmt.w48.subnormals = false ∧ bits (2 ^ FpFmt.w48.mb) FpFmt.w48.mb FpFmt.w48.eb ≠ 0)
    ∧ (0 < 16 ∧ 65535 < 65536) := by decide +kernel

theorem witness_StepsKeepTheStateInOrder :
    State.inOrder { State.reset with pending := [.powerOn] } = true ∧ ∃ t, step { State.reset with pending := [.powerOn] } = .next t := by
  exact ⟨by decide +kernel, _, rfl⟩

theorem witness_SequencerWordsDecodeToTheirInstructions : SeqInsn.wf (.loop 14 4095) = true ∧ SeqInsn.wf (.setc 0 true 0xFFFFFFFF) = true := by decide

/-! Instruction words, written out from Table 9.3. -/

/-- A word decodes to an instruction. -/
def decodesTo (w : Nat) (i : SeqInsn) : Bool :=
  match SeqInsn.decode w with
  | .ok j => j == i
  | .error _ => false

/-- A word decodes to no instruction. -/
def undecodable (w : Nat) : Bool :=
  match SeqInsn.decode w with
  | .ok _ => false
  | .error _ => true

theorem test_words_control :
    decodesTo (1 * 2 ^ 119 + 77) .halt = true
    ∧ decodesTo (0x01 * 2 ^ 120 + 1 * 2 ^ 117 + 5) (.waitTick true 5) = true
    ∧ decodesTo (0x01 * 2 ^ 120 + 1 * 2 ^ 118 + 1 * 2 ^ 116 + 3 * 2 ^ 112 + 0xABC * 2 ^ 100 + 63 * 2 ^ 94 + 0b0101 * 2 ^ 90)
      (.waitSlot true 3 0xABC 63 0b0101) = true
    ∧ decodesTo (0x01 * 2 ^ 120 + 2 * 2 ^ 118) .waitDone = true
    ∧ decodesTo (0x02 * 2 ^ 120 + 1 * 2 ^ 119 + 2 * 2 ^ 117 + 3 * 2 ^ 115 + 1 * 2 ^ 114 + 9 * 2 ^ 110 + 5 * 2 ^ 98 + 7 * 2 ^ 92 + 64 * 2 ^ 85)
      (.signal true 2 3 true 9 5 7 64) = true
    ∧ decodesTo (0x03 * 2 ^ 120 + 14 * 2 ^ 116 + 1 * 2 ^ 115 + 0xFFFFFFFF) (.setc 14 true 0xFFFFFFFF) = true
    ∧ decodesTo (0x04 * 2 ^ 120 + 2 * 2 ^ 116 + 4095) (.loop 2 4095) = true
    ∧ decodesTo (0x05 * 2 ^ 120 + 15 * 2 ^ 116 + 4 * 2 ^ 112 + 0x80000001 * 2 ^ 12 + 3) (.br 15 4 0x80000001 3) = true
    ∧ decodesTo (0x06 * 2 ^ 120 + 100) (.call 100) = true ∧ decodesTo (0x07 * 2 ^ 120) .ret = true
    ∧ decodesTo (0x08 * 2 ^ 120 + 0xABC * 2 ^ 100 + 0x123456 * 2 ^ 76 + 62 * 2 ^ 70 + 2 * 2 ^ 63) (.lds 0xABC 0x123456 62 2) = true := by decide +kernel

theorem test_words_dense :
    decodesTo (0x10 * 2 ^ 120 + 0x21 * 2 ^ 112 + 0x801 * 2 ^ 100 + 1 * 2 ^ 98 + 2 * 2 ^ 96) (.loadw 0x21 0x801 1 2) = true
    ∧ decodesTo (0x11 * 2 ^ 120 + 0x21 * 2 ^ 112 + 0x801 * 2 ^ 100 + 3 * 2 ^ 98 + 1 * 2 ^ 97 + 0x402 * 2 ^ 85) (.stream 0x21 0x801 3 true 0x402) = true
    ∧ decodesTo (0x12 * 2 ^ 120 + 0x21 * 2 ^ 112 + 0x801 * 2 ^ 100 + 2 * 2 ^ 98 + 5 * 2 ^ 94 + 1 * 2 ^ 93 + 0x8001 * 2 ^ 77) (.drain 0x21 0x801 2 5 true 0x8001) = true := by
  decide +kernel

theorem test_words_drover :
    decodesTo (0x21 * 2 ^ 120 + 0x11 * 2 ^ 112 + 1 * 2 ^ 100 + 2 * 2 ^ 88 + 3 * 2 ^ 76 + 4 * 2 ^ 64 + 0x04 * 2 ^ 56 + 5 * 2 ^ 52 + 0xE4 * 2 ^ 44 + 6 * 2 ^ 38
        + 7 * 2 ^ 32 + 2 * 2 ^ 30 + 1 * 2 ^ 28)
      (.vec { doff := 0x11, a := 1, b := 2, c := 3, d := 4, func := 0x04, cvt := 5, hints := 0xE4, s1 := 6, s2 := 7, mode := 2, init := false, rowout := true }) = true
    ∧ decodesTo (0x20 * 2 ^ 120 + 1 * 2 ^ 100 + 4 * 2 ^ 64 + 0x40 * 2 ^ 56 + 1 * 2 ^ 29)
      (.gsm { doff := 0, a := 1, b := 0, c := 0, d := 4, func := 0x40, cvt := 0, hints := 0, s1 := 0, s2 := 0, mode := 0, init := true, rowout := false }) = true
    ∧ decodesTo (0x22 * 2 ^ 120 + 1 * 2 ^ 100 + 4 * 2 ^ 64 + 3 * 2 ^ 60 + 8 * 2 ^ 56 + 1 * 2 ^ 52 + 2 * 2 ^ 44 + 1 * 2 ^ 42 + 1 * 2 ^ 41)
      (.route { doff := 0, a := 1, b := 0, c := 0, d := 4, subop := 3, k := 8, cvt := 1, hints := 2, gate := 1, scale := true }) = true
    ∧ decodesTo (0x28 * 2 ^ 120 + 0x12 * 2 ^ 112 + 9 * 2 ^ 100 + 8 * 2 ^ 88 + 7 * 2 ^ 64 + 6 * 2 ^ 32 + 5) (.tally 0x12 9 8 7 6 5) = true
    ∧ decodesTo (0x29 * 2 ^ 120 + 9 * 2 ^ 100 + 8 * 2 ^ 76 + 3 * 2 ^ 72 + 0xFF * 2 ^ 64 + 1 * 2 ^ 63) (.check 9 8 3 0xFF true) = true := by decide +kernel

theorem test_words_transfers :
    decodesTo (0x30 * 2 ^ 120 + 0x21 * 2 ^ 112 + 5 * 2 ^ 100 + 6 * 2 ^ 88 + 1 * 2 ^ 84 + 2 * 2 ^ 82 + 1 * 2 ^ 81) (.xferLocal ⟨0x21, 5, 6, 1, 2, true⟩) = true
    ∧ decodesTo (0x30 * 2 ^ 120 + 5 * 2 ^ 100 + 1 * 2 ^ 86 + 0x1234 * 2 ^ 64 + 0x56 * 2 ^ 56 + 0x789ABCDEF0 * 2 ^ 16)
      (.xferWindow false ⟨0, 5, 0, 0, 0, false⟩ 0x1234 0x56 0x789ABCDEF0) = true
    ∧ decodesTo (0x30 * 2 ^ 120 + 6 * 2 ^ 88 + 3 * 2 ^ 86 + 0x1234 * 2 ^ 64 + 0x56 * 2 ^ 56 + 0x789ABCDEF0 * 2 ^ 16)
      (.xferWindow true ⟨0, 0, 6, 0, 0, false⟩ 0x1234 0x56 0x789ABCDEF0) = true
    ∧ decodesTo (0x30 * 2 ^ 120 + 5 * 2 ^ 100 + 6 * 2 ^ 88 + 2 * 2 ^ 86 + 5 * 2 ^ 77) (.xferNeighbour ⟨0, 5, 6, 0, 0, false⟩ 5) = true
    ∧ decodesTo (0x38 * 2 ^ 120 + 0x21 * 2 ^ 112 + 5 * 2 ^ 100 + 6 * 2 ^ 88 + 3 * 2 ^ 86 + 1 * 2 ^ 85 + 0x8001 * 2 ^ 69 + 0xFFFFFFFFFF * 2 ^ 29)
      (.reduce 0x21 5 6 3 true 0x8001 0xFFFFFFFFFF) = true := by decide +kernel

/-- A reserved opcode, a reserved MODE of WAIT, and reserved bits that are not zero. -/
theorem test_words_reserved :
    undecodable (0xFF * 2 ^ 120) = true ∧ undecodable (0x09 * 2 ^ 120) = true ∧ undecodable (0x01 * 2 ^ 120 + 3 * 2 ^ 118) = true
    ∧ undecodable (0x07 * 2 ^ 120 + 1) = true ∧ undecodable (0x04 * 2 ^ 120 + 1 * 2 ^ 12) = true ∧ undecodable (0x38 * 2 ^ 120 + 1) = true := by decide +kernel

/-! Commands that are not well formed, one for each check. -/

set_option maxRecDepth 10000 in
theorem test_ill_formed :
    ∀ c ∈ [Instr.checkTileComplete 0 [(32, 0, 0)], .checkTileComplete 0 [(0, 192, 0)], .checkInj 0 4, .combineFire 0 0 [2, 2, 2, 2], .combineFire 0 0 [1], .combineFire 0 0 [22], .pcieLinkUp 0 4 true, .pcieLinkUp 7 4 true, .pcieLinkUp 6 4 false, .pcieLinkUp 1 3 true,
      .frameDecode 0 ⟨0, false, true, false, false, [], [], true, 0⟩ ⟨1, 1, 8, true, false, none, none, [255], [], []⟩, .patrolRead 0 [.record (2 ^ 8) 0 .single],
      .patrolRead 0 [.record 0 (2 ^ 32) .single],
      .hookQueue 4096 none, .hookQueue 0 (some (2 ^ 24)), .memRequest 0 .keep (BitVec.ofNat 40 stackSize) (.read 1) [] [],
      .memRequest 0 .keep 2047 (.read 2) [] [], .memRequest 0 .keep 0 (.write []) [] [], .cacheFillArrive lineCount [], .cacheFillArrive 0 [.readBurst 0 (List.replicate 4 ⟨true, []⟩)],
      .memRequest 0 .keep 0 (.read 1) [] [.line lineCount .single], .patrolRead 0 [.word 4 .single], .slotStallResume .drain ⟨1, 2, 0⟩,
      .slotReadTimeout .drain ⟨1, 0, 2⟩, .slotWriteTimeout .drain ⟨1, 2, 0⟩, .reduceClose ⟨0, [(0, [1])]⟩, .prefetchIssue lineCount 0,
      .prefetchDrop lineCount, .flitReceive 0 [], .quickRetrain 0 true true 0 (List.replicate 17 0), .imageWindowWrite (BitVec.allOnes 22) [0, 0],
      .windowRead 1 (BitVec.allOnes 22) 2, .windowWrite 1 (BitVec.allOnes 22) [0, 0], .sampleTake 0 ⟨false, false, false, []⟩,
      .writeBurstRejected (BitVec.ofNat 40 stackSize) 1 0, .writeBurstRejected 2047 2 0], c.wf = false := by decide +kernel

/-- A picture of one sample of 8 bits cannot hold 256; one of 9 bits is none. -/
theorem test_ill_formed_picture :
    Instr.wf (.frameDecode 0 ⟨0, false, true, false, false, [], [0], true, 0⟩ ⟨1, 1, 8, true, false, none, none, [256], [], []⟩) = false
    ∧ Instr.wf (.frameDecode 0 ⟨0, false, true, false, false, [], [0], true, 0⟩ ⟨1, 1, 9, true, false, none, none, [0], [], []⟩) = false
    ∧ Instr.wf (.frameDecode 0 ⟨0, false, true, false, false, [], [0], true, 0⟩ ⟨1, 2, 8, true, false, none, none, [0], [], []⟩) = false
    ∧ Instr.wf (.frameDecode 0 ⟨0, false, true, false, false, [], [0], true, 0⟩ ⟨1, 1, 8, true, false, none, none, [255], [], []⟩) = true := by decide +kernel

/-! Single steps, worked out by hand from the rules cited. -/

/-- The state after a command, where it answers one. -/
def afterCmd (c : Instr) (s : State) : State :=
  match exec c s with
  | .next t => t
  | _ => s

/-- R269: LOOP at one falls through and leaves zero; at zero too; at two it branches. -/
theorem test_loop :
    ∀ x ∈ [(0, 1, 0), (1, 1, 0), (2, 7, 1)],
      ∀ t, t = afterCmd (.loop 1) (withRegs (running .reset 1 (.loop 3 7)) [(SEQ_CNT.C 19, x.1)]) →
        (t.seqr 1).pc = x.2.1 ∧ counter t 1 3 = x.2.2 := by
  rintro x hx t rfl
  revert x
  decide +kernel

/-- R490 (Table 17.2): a mean of 45.4 V from stage 1 is stage 3; a rise to 49.9 V lies within the hysteresis of stage 1. -/
theorem test_supply :
    (afterCmd (.supplySample 45400) sagging).get PWR_STATUS.STAGE = 3 ∧ judgeStage (4 * 49900) 4 1 = 1 ∧ judgeStage (4 * 50001) 4 1 = 0 := by decide +kernel

/-- R14: a counter holds at all ones. -/
theorem test_counter_saturates :
    ((withRegs .reset [(CTL_ADDR_ERR_CNT, 2 ^ 48 - 1)]).count CTL_ADDR_ERR_CNT 5).get CTL_ADDR_ERR_CNT = 2 ^ 48 - 1 := by decide +kernel

end Sys2Proof.Tests
end

section
/-!
PROOFS. The number formats and roundings of 02_number_formats.md: the encoder gives a decoded pattern back, and each rounding mode is the quotient or its
successor.
-/

namespace Sys2Proof.NumberFormats

open Sys2Proof.Machine

/-! Rounding to a multiple of a power of two (R62, R63). -/

/-- A magnitude that is a multiple already is not rounded. -/
theorem roundMag_sub (rm : RMode) (r m : Nat) (e : Int) (d : Nat) : roundMag rm r m e (e - d) = m * 2 ^ d := by
  have hq : e - d ≤ e := by omega
  have hd : (e - (e - d)).toNat = d := by omega
  rw [roundMag, if_pos hq, hd, Nat.shiftLeft_eq]

theorem roundMag_self (rm : RMode) (r m : Nat) (e : Int) : roundMag rm r m e e = m := by
  have h := roundMag_sub rm r m e 0
  rwa [Int.natCast_zero, Int.sub_zero, Nat.pow_zero, Nat.mul_one] at h

theorem not_add_le_self (e : Int) {d : Nat} (hd : 0 < d) : ¬ e + d ≤ e := by omega

theorem toNat_add_sub_self (e : Int) (d : Nat) : (e + d - e).toNat = d := by omega

theorem roundMag_zero_add (r m : Nat) (e : Int) (d : Nat) : roundMag .zero r m e (e + d) = m / 2 ^ d := by
  rcases Nat.eq_zero_or_pos d with rfl | hd
  · rw [Int.natCast_zero, Int.add_zero, roundMag_self, Nat.pow_zero, Nat.div_one]
  · simp only [roundMag, if_neg (not_add_le_self e hd), toNat_add_sub_self, Nat.shiftRight_eq_div_pow]

theorem roundMag_nearest_add (r m : Nat) (e : Int) {d : Nat} (hd : 0 < d) :
    roundMag .nearest r m e (e + d) =
      if 2 * (m % 2 ^ d) > 2 ^ d ∨ 2 * (m % 2 ^ d) = 2 ^ d ∧ m / 2 ^ d % 2 = 1 then m / 2 ^ d + 1 else m / 2 ^ d := by
  simp only [roundMag, if_neg (not_add_le_self e hd), toNat_add_sub_self, Nat.shiftRight_eq_div_pow]

theorem roundMag_stochastic_add (r m : Nat) (e : Int) {d : Nat} (hd : 0 < d) :
    roundMag .stochastic r m e (e + d) =
      if 65536 ≤ topDiscarded (m % 2 ^ d) d + r then m / 2 ^ d + 1 else m / 2 ^ d := by
  simp only [roundMag, if_neg (not_add_le_self e hd), toNat_add_sub_self, Nat.shiftRight_eq_div_pow, ge_iff_le]

theorem topDiscarded_zero (d : Nat) : topDiscarded 0 d = 0 := by
  unfold topDiscarded
  split
  · exact Nat.zero_shiftLeft _
  · exact Nat.zero_shiftRight _

theorem topDiscarded_of_le (rem : Nat) {d : Nat} (hd : d ≤ 16) : topDiscarded rem d = rem * 2 ^ (16 - d) := by
  rw [topDiscarded, if_pos hd, Nat.shiftLeft_eq]

/-- Nearest is within half of the multiple, and even at a tie (R62). -/
theorem roundMag_nearest_spec (r m : Nat) (e : Int) {d : Nat} (hd : 0 < d) {n : Nat} (hn : n = roundMag .nearest r m e (e + d)) :
    2 * m ≤ (2 * n + 1) * 2 ^ d ∧ 2 * n * 2 ^ d ≤ 2 * m + 2 ^ d
      ∧ (2 * m = (2 * n + 1) * 2 ^ d ∨ 2 * n * 2 ^ d = 2 * m + 2 ^ d → n % 2 = 0) := by
  rw [roundMag_nearest_add r m e hd] at hn
  have hm := Nat.div_add_mod m (2 ^ d)
  have hr := Nat.mod_lt m (Nat.two_pow_pos d)
  generalize 2 ^ d = D at *
  generalize m / D = k at *
  generalize m % D = b at *
  have hup : 2 * (k + 1) * D = 2 * (D * k) + 2 * D := by
    rw [Nat.mul_assoc, Nat.add_mul, Nat.one_mul, Nat.mul_comm k, Nat.mul_add]
  have hdown : 2 * k * D = 2 * (D * k) := by rw [Nat.mul_assoc, Nat.mul_comm k]
  split at hn <;> subst hn <;> rw [Nat.add_mul, Nat.one_mul] <;> omega

/-- Toward zero is the largest multiple that the magnitude reaches (R62). -/
theorem roundMag_zero_spec (r m : Nat) (e : Int) (d : Nat) {n : Nat} (hn : n = roundMag .zero r m e (e + d)) :
    n * 2 ^ d ≤ m ∧ m < (n + 1) * 2 ^ d := by
  rw [roundMag_zero_add] at hn
  subst hn
  exact ⟨Nat.div_mul_le_self m _, Nat.lt_mul_of_div_lt (Nat.lt_succ_self _) (Nat.two_pow_pos d)⟩

/-- Stochastic is one of the two neighbours, and an exact value stays (R63). -/
theorem roundMag_stochastic_spec {r : Nat} (hr : r < 65536) (m : Nat) (e : Int) (d : Nat) {n : Nat}
    (hn : n = roundMag .stochastic r m e (e + d)) :
    (n = m / 2 ^ d ∨ n = m / 2 ^ d + 1) ∧ (m % 2 ^ d = 0 → n * 2 ^ d = m) := by
  rcases Nat.eq_zero_or_pos d with rfl | hd
  · rw [Int.natCast_zero, Int.add_zero, roundMag_self] at hn
    rw [hn, Nat.pow_zero, Nat.div_one, Nat.mul_one]
    exact ⟨.inl rfl, fun _ => rfl⟩
  · rw [roundMag_stochastic_add r m e hd] at hn
    refine ⟨by split at hn <;> omega, fun h0 => ?_⟩
    rw [h0, topDiscarded_zero, if_neg (by omega)] at hn
    rw [hn, Nat.div_mul_cancel (Nat.dvd_of_mod_eq_zero h0)]

/-- Of the numbers below `N`, those not below `a`. -/
theorem length_filter_range_le (a N : Nat) : ((List.range N).filter fun r => decide (a ≤ r)).length = N - a := by
  induction N with
  | zero => rw [Nat.zero_sub]; rfl
  | succ N ih =>
    rw [List.range_succ, List.filter_append, List.length_append, ih]
    by_cases h : a ≤ N
    · rw [List.filter_cons_of_pos (p := fun r => decide (a ≤ r)) (decide_eq_true h), List.filter_nil, List.length_singleton]
      omega
    · rw [List.filter_cons_of_neg (p := fun r => decide (a ≤ r)) (by rw [decide_eq_true_eq]; exact h), List.filter_nil, List.length_nil]
      omega

/-- Stochastic rounds up for as many of the 65536 random numbers as the discarded bits say (R63). -/
theorem roundMag_stochastic_share (m : Nat) (e : Int) {d : Nat} (hd : 0 < d) (hd16 : d ≤ 16) :
    ((List.range 65536).filter fun r => decide (m / 2 ^ d < roundMag .stochastic r m e (e + d))).length * 2 ^ d
      = m % 2 ^ d * 65536 := by
  have hpow : 2 ^ (16 - d) * 2 ^ d = 65536 := by
    rw [← Nat.pow_add, Nat.sub_add_cancel hd16]
  have htop : topDiscarded (m % 2 ^ d) d ≤ 65536 := by
    rw [topDiscarded_of_le _ hd16, ← hpow, Nat.mul_comm]
    exact Nat.mul_le_mul_left _ (Nat.le_of_lt (Nat.mod_lt m (Nat.two_pow_pos d)))
  have hup (r : Nat) : m / 2 ^ d < roundMag .stochastic r m e (e + d) ↔ 65536 - topDiscarded (m % 2 ^ d) d ≤ r := by
    rw [roundMag_stochastic_add r m e hd]
    split <;> omega
  simp only [hup, length_filter_range_le]
  rw [Nat.sub_sub_self htop, topDiscarded_of_le _ hd16, Nat.mul_assoc, hpow]

/-! Bit patterns (R42 to R44, R52). -/

/-- A pattern is its sign, its exponent field and its fraction. -/
theorem pattern_eq {eb mb w : Nat} (hw : w < 2 ^ (1 + eb + mb)) :
    w = b2n (bit w (eb + mb)) * 2 ^ (eb + mb) + bits w mb eb * 2 ^ mb + bits w 0 mb := by
  have hsign : w / 2 ^ (eb + mb) < 2 := by
    rwa [Nat.div_lt_iff_lt_mul (Nat.two_pow_pos _), Nat.mul_comm, ← Nat.pow_succ, show (eb + mb).succ = 1 + eb + mb by omega]
  have hbit : b2n (bit w (eb + mb)) = w / 2 ^ (eb + mb) := by
    rw [bit, bits, Nat.shiftRight_eq_div_pow, Nat.pow_one, Nat.mod_eq_of_lt hsign]
    generalize w / 2 ^ (eb + mb) = k at hsign ⊢
    match k, hsign with
    | 0, _ => rfl
    | 1, _ => rfl
  have hexp : w / 2 ^ mb = w / 2 ^ (eb + mb) * 2 ^ eb + bits w mb eb := by
    rw [bits, Nat.shiftRight_eq_div_pow, Nat.add_comm eb, Nat.pow_add, ← Nat.div_div_eq_div_mul, Nat.div_add_mod']
  calc w = w / 2 ^ mb * 2 ^ mb + bits w 0 mb := by rw [bits, Nat.shiftRight_zero, Nat.div_add_mod']
    _ = _ := by rw [hexp, hbit, Nat.pow_add, Nat.add_mul, Nat.mul_assoc]

/-- Magnitudes compare as their multiples of any power of two below both. -/
theorem cmpMag_at {e f k : Int} (he : k ≤ e) (hf : k ≤ f) (m n : Nat) :
    (Val.cmpMag m e n f = .gt ↔ n * 2 ^ (f - k).toNat < m * 2 ^ (e - k).toNat)
      ∧ (Val.cmpMag m e n f = .lt ↔ m * 2 ^ (e - k).toNat < n * 2 ^ (f - k).toNat) := by
  have hsplit {x : Int} (h : min e f ≤ x) : (x - k).toNat = (x - min e f).toNat + (min e f - k).toNat := by omega
  rw [hsplit (Int.min_le_left e f), hsplit (Int.min_le_right e f)]
  simp only [Val.cmpMag, Nat.shiftLeft_eq, Nat.compare_eq_gt, Nat.compare_eq_lt, Nat.pow_add, ← Nat.mul_assoc,
    Nat.mul_lt_mul_right (Nat.two_pow_pos _), and_self]

/-- A value is in the normal form of its format: `m` is the significand and `x` the exponent field of a pattern that is no special one, the exponent field of
a subnormal value taken as 1 (R43). -/
structure Canonical (f : FpFmt) (m x : Nat) : Prop where
  exp_pos : 1 ≤ x
  sig_pos : m ≠ 0
  sig_lt : m < 2 ^ (f.mb + 1)
  normal : 2 ^ f.mb ≤ m ∨ x = 1 ∧ f.subnormals = true
  inRange : (x : Int) < f.emax + f.bias ∨ (x : Int) = f.emax + f.bias ∧ m ≤ f.maxSig

namespace Canonical

variable {f : FpFmt} {m x : Nat}

/-- The exponent at which the encoder rounds is that of the pattern. -/
theorem exponent_eq (h : Canonical f m x) :
    (if f.subnormals then max (Int.ofNat (Nat.log2 m) + ((x : Int) - f.bias - f.mb)) f.emin
      else Int.ofNat (Nat.log2 m) + ((x : Int) - f.bias - f.mb)) = x - f.bias := by
  have hpos := h.exp_pos
  have hlog : Nat.log2 m < f.mb + 1 := (Nat.log2_lt h.sig_pos).2 h.sig_lt
  have hofNat (n : Nat) : Int.ofNat n = n := rfl
  rcases h.normal with hn | ⟨rfl, hsub⟩
  · have hge : f.mb ≤ Nat.log2 m := (Nat.le_log2 h.sig_pos).2 hn
    simp only [FpFmt.emin, hofNat]
    split <;> omega
  · simp only [hsub, if_true, FpFmt.emin, hofNat]
    omega

/-- The value is not above the largest of the format. -/
theorem not_above (h : Canonical f m x) (hmax : 2 ^ (f.mb + 1) ≤ 2 * f.maxSig) :
    Val.cmpMag m (x - f.bias - f.mb) f.maxSig (f.emax - f.mb) ≠ .gt := by
  have hpos := h.exp_pos
  have hx : (x : Int) - f.bias - f.mb ≤ f.emax - f.mb := by rcases h.inRange with hr | ⟨hr, -⟩ <;> omega
  rw [Ne, (cmpMag_at (Int.le_refl _) hx _ _).1, Nat.not_lt, Int.sub_self, Int.toNat_zero, Nat.pow_zero, Nat.mul_one]
  rcases h.inRange with hr | ⟨hr, hm⟩
  · obtain ⟨j, hj⟩ : ∃ j, (f.emax - f.mb - ((x : Int) - f.bias - f.mb)).toNat = j + 1 := ⟨_, (Nat.sub_add_cancel (by omega)).symm⟩
    have hlt := h.sig_lt
    calc m ≤ f.maxSig * 2 := by omega
      _ ≤ f.maxSig * 2 ^ (j + 1) := Nat.mul_le_mul_left _ (Nat.le_self_pow (Nat.succ_ne_zero j) 2)
      _ = _ := by rw [hj]
  · exact Nat.le_trans hm (Nat.le_mul_of_pos_right _ (Nat.two_pow_pos _))

/-- Where a format has no subnormal values the value is not below its smallest. -/
theorem not_flushed (h : Canonical f m x) :
    ¬ (Val.cmpMag m (x - f.bias - f.mb) 1 f.emin = .lt ∧ f.subnormals = false) := by
  rintro ⟨hlt, hsub⟩
  have hn : 2 ^ f.mb ≤ m := h.normal.resolve_right fun hsubnormal => Bool.false_ne_true (hsub.symm.trans hsubnormal.2)
  have hpos := h.exp_pos
  have hemin : f.emin = 1 - (f.bias : Int) := rfl
  rw [(cmpMag_at (k := f.emin - f.mb) (by omega) (by omega) _ _).2, Nat.one_mul,
    show (f.emin - (f.emin - f.mb)).toNat = f.mb by omega] at hlt
  exact absurd hlt (Nat.not_lt.2 (Nat.le_trans hn (Nat.le_mul_of_pos_right _ (Nat.two_pow_pos _))))

/-- The encoder writes the sign, the exponent field and the fraction of a value in the normal form, and rounds nothing. -/
theorem encode_eq (h : Canonical f m x) (hmax : 2 ^ (f.mb + 1) ≤ 2 * f.maxSig) (c : Cvt) (r : Nat) (s : Bool) :
    (f.encode c r (.fin s m (x - f.bias - f.mb))).1 = b2n s * 2 ^ (f.eb + f.mb) + (x - 1) * 2 ^ f.mb + m := by
  have hx : ((x : Int) - f.bias - f.mb + f.mb + f.bias - 1).toNat = x - 1 := by omega
  have hq := h.exponent_eq
  have hofNat (n : Nat) : Int.ofNat n = n := rfl
  simp only [hofNat] at hq
  simp only [FpFmt.encode, hofNat, hq, roundMag_self, h.sig_pos, h.not_above hmax, h.not_flushed, if_false, hx]

end Canonical

theorem two_pow_le_two_mul_maxSig (f : FpFmt) (hmb : 1 ≤ f.mb) : 2 ^ (f.mb + 1) ≤ 2 * f.maxSig := by
  have h : 2 ^ 2 ≤ 2 ^ (f.mb + 1) := Nat.pow_le_pow_right Nat.two_pos (by omega)
  unfold FpFmt.maxSig
  split <;> omega

theorem encode_inf {f : FpFmt} (h : f.specials = .ieee) (c : Cvt) (r : Nat) (s : Bool) : (f.encode c r (.inf s)).1 = f.infBits s := by
  rw [FpFmt.encode, if_pos h]

theorem encode_finite_zero (f : FpFmt) (c : Cvt) (r : Nat) (s : Bool) (e : Int) : (f.encode c r (.fin s 0 e)).1 = b2n s * 2 ^ (f.eb + f.mb) := rfl

/-- The exponent field of the largest finite value (Table 2.2). -/
theorem emax_add_bias (f : FpFmt) : f.emax + f.bias = ((2 ^ f.eb - if f.specials = .ieee then 2 else 1 : Nat) : Int) := by
  unfold FpFmt.emax
  cases f.specials with
  | ieee => exact Int.sub_add_cancel _ _
  | e4m3 => exact Int.sub_add_cancel _ _
  | none => exact Int.sub_add_cancel _ _

/-- A pattern with a zero exponent field and a fraction, where the format has subnormal values (R43). -/
theorem canonical_of_subnormal {f : FpFmt} (heb : 2 ≤ f.eb) {m : Nat} (hm : m ≠ 0) (hlt : m < 2 ^ f.mb)
    (hsub : f.subnormals = true) : Canonical f m 1 where
  exp_pos := Nat.le_refl 1
  sig_pos := hm
  sig_lt := Nat.lt_trans hlt (Nat.pow_lt_pow_right Nat.one_lt_two (Nat.lt_succ_self _))
  normal := .inr ⟨rfl, hsub⟩
  inRange := by
    have htop : 2 ^ 2 ≤ 2 ^ f.eb := Nat.pow_le_pow_right Nat.two_pos heb
    rw [emax_add_bias]
    left
    split <;> omega

/-- A pattern with an exponent field that is not zero and that is neither an infinity nor NaN (R42, R44). -/
theorem canonical_of_normal {f : FpFmt} {m x : Nat} (hx : x ≠ 0) (hlt : m < 2 ^ f.mb) (htop : x ≤ 2 ^ f.eb - 1)
    (hieee : ¬ (f.specials = .ieee ∧ x = 2 ^ f.eb - 1))
    (hnan : ¬ (f.specials = .e4m3 ∧ x = 2 ^ f.eb - 1 ∧ m = 2 ^ f.mb - 1)) : Canonical f (2 ^ f.mb + m) x where
  exp_pos := Nat.one_le_iff_ne_zero.2 hx
  sig_pos := by omega
  sig_lt := by rw [Nat.pow_succ]; omega
  normal := .inl (Nat.le_add_right _ _)
  inRange := by
    rw [emax_add_bias, Int.ofNat_lt, Int.ofNat_inj]
    unfold FpFmt.maxSig
    cases hs : f.specials with
    | ieee =>
      have hx' : x ≠ 2 ^ f.eb - 1 := fun h => hieee ⟨hs, h⟩
      change x < 2 ^ f.eb - 2 ∨ x = 2 ^ f.eb - 2 ∧ 2 ^ f.mb + m ≤ 2 ^ (f.mb + 1) - 1
      rw [Nat.pow_succ]
      omega
    | e4m3 =>
      have hm : x = 2 ^ f.eb - 1 → m ≠ 2 ^ f.mb - 1 := fun h hm => hnan ⟨hs, h, hm⟩
      change x < 2 ^ f.eb - 1 ∨ x = 2 ^ f.eb - 1 ∧ 2 ^ f.mb + m ≤ 2 ^ (f.mb + 1) - 2
      rw [Nat.pow_succ]
      omega
    | none =>
      change x < 2 ^ f.eb - 1 ∨ x = 2 ^ f.eb - 1 ∧ 2 ^ f.mb + m ≤ 2 ^ (f.mb + 1) - 1
      rw [Nat.pow_succ]
      omega

/-- The value of a bit pattern goes back into the same pattern, whatever the rounding. -/
theorem encode_decode (f : FpFmt) (heb : 2 ≤ f.eb) (hmb : 1 ≤ f.mb) (c : Cvt) (r : Nat) {w : Nat} (hw : w < 2 ^ (1 + f.eb + f.mb))
    (hnan : (f.decode w).isNan = false) (hzero : f.subnormals = true ∨ bits w f.mb f.eb ≠ 0 ∨ bits w 0 f.mb = 0) :
    (f.encode c r (f.decode w)).1 = w := by
  have hmax := two_pow_le_two_mul_maxSig f hmb
  have hfrac : bits w 0 f.mb < 2 ^ f.mb := Nat.mod_lt _ (Nat.two_pow_pos _)
  have hexp : bits w f.mb f.eb < 2 ^ f.eb := Nat.mod_lt _ (Nat.two_pow_pos _)
  have hpat := pattern_eq hw
  unfold FpFmt.decode at hnan ⊢
  dsimp only at hnan ⊢
  by_cases hinf : f.specials = .ieee ∧ bits w f.mb f.eb = 2 ^ f.eb - 1
  · rw [if_pos hinf] at hnan ⊢
    by_cases hfrac0 : bits w 0 f.mb = 0
    · rw [if_pos hfrac0]
      rw [hinf.2, hfrac0, Nat.add_zero] at hpat
      exact (encode_inf hinf.1 c r _).trans hpat.symm
    · rw [if_neg hfrac0] at hnan
      cases hnan
  rw [if_neg hinf] at hnan ⊢
  by_cases he4 : f.specials = .e4m3 ∧ bits w f.mb f.eb = 2 ^ f.eb - 1 ∧ bits w 0 f.mb = 2 ^ f.mb - 1
  · rw [if_pos he4] at hnan
    cases hnan
  rw [if_neg he4]
  by_cases hexp0 : bits w f.mb f.eb = 0
  · rw [if_pos hexp0]
    rw [hexp0, Nat.zero_mul, Nat.add_zero] at hpat
    by_cases hfrac0 : bits w 0 f.mb = 0
    · rw [hfrac0, Nat.add_zero] at hpat
      rw [hfrac0]
      split <;> exact (encode_finite_zero f c r _ _).trans hpat.symm
    · have hsub : f.subnormals = true := hzero.resolve_right fun h => h.elim (absurd hexp0) hfrac0
      have hcan := canonical_of_subnormal heb hfrac0 hfrac hsub
      have hemin : f.emin - Int.ofNat f.mb = ((1 : Nat) : Int) - f.bias - f.mb := rfl
      rw [if_pos hsub, hemin, hcan.encode_eq hmax, Nat.sub_self, Nat.zero_mul, Nat.add_zero]
      exact hpat.symm
  · rw [if_neg hexp0]
    have hcan := canonical_of_normal hexp0 hfrac (Nat.le_sub_one_of_lt hexp) hinf he4
    have hone : (bits w f.mb f.eb - 1) * 2 ^ f.mb + 2 ^ f.mb = bits w f.mb f.eb * 2 ^ f.mb := by
      rw [← Nat.succ_mul, Nat.succ_eq_add_one, Nat.sub_add_cancel hcan.exp_pos]
    exact (hcan.encode_eq hmax c r _).trans (by omega)

/-- The shapes of the formats of Table 2.2 and of W48. -/
theorem format_shape : ∀ f ∈ [FpFmt.binary32, .binary16, .bf16, .e4m3, .e5m2, .e2m3, .e3m2, .e2m1, .w48], 2 ≤ f.eb ∧ 1 ≤ f.mb := by
  decide

/-- Settles O59: a decoded pattern is in the normal form, which the encoder writes back, and each rounding mode is the quotient or its successor. -/
theorem formatsAndRoundingsAreCorrect : Obligations.FormatsAndRoundingsAreCorrect := by
  unfold Obligations.FormatsAndRoundingsAreCorrect
  refine ⟨fun f c r w hf hw hnan hzero => ?_, fun m e d => ⟨fun rm r => roundMag_sub rm r m e d, fun r n hn hd => roundMag_nearest_spec r m e hd hn,
    fun r n hn => roundMag_zero_spec r m e d hn, fun r n hn hr => roundMag_stochastic_spec hr m e d hn,
    fun hd hd16 => roundMag_stochastic_share m e hd hd16⟩⟩
  obtain ⟨heb, hmb⟩ := format_shape f hf
  exact encode_decode f heb hmb c r hw hnan hzero

end Sys2Proof.NumberFormats
end

section
/-!
PROOFS. The lane functions of 04_drover.md: the element-wise functions, the special values of Table 4.5 and the special rules of SOFTMAX.
-/

namespace Sys2Proof.LaneFunctions

open Sys2Proof.Machine

/-! The order of values (R46). -/

theorem lt_irrefl (a : Val) : Val.lt a a = false := by
  cases a with
  | nan => rfl
  | inf s => cases s <;> rfl
  | fin s m e => exact decide_eq_false (Int.lt_irrefl _)

theorem lt_asymm {a b : Val} (h : Val.lt a b = true) : Val.lt b a = false := by
  match a, b, h with
  | .inf s, .inf t, h => revert s t; decide
  | .inf s, .fin t n f, h =>
    have hs : s = true := h
    rw [hs]; rfl
  | .fin s m e, .inf t, h =>
    have ht : (!t) = true := h
    exact Bool.not_eq_true' t ▸ ht
  | .fin s m e, .fin t n f, h =>
    simp only [Val.lt, Int.min_comm f e, decide_eq_true_eq, decide_eq_false_iff_not, Int.not_lt] at h ⊢
    exact Int.le_of_lt h

/-! The larger and the smaller of two values (R46). -/

theorem max_isNan {a b : Val} (h : a.isNan = true ∨ b.isNan = true) : Val.max a b = .nan := by
  rw [Val.max, if_pos (Bool.or_eq_true _ _ ▸ h)]

theorem min_isNan {a b : Val} (h : a.isNan = true ∨ b.isNan = true) : Val.min a b = .nan := by
  rw [Val.min, if_pos (Bool.or_eq_true _ _ ▸ h)]

/-- The larger of two values that are not NaN is one of them, and neither is above it. -/
theorem max_spec {a b : Val} (ha : a.isNan = false) (hb : b.isNan = false) :
    Val.lt (Val.max a b) a = false ∧ Val.lt (Val.max a b) b = false ∧ (Val.max a b = a ∨ Val.max a b = b) := by
  have hnan : ¬ (a.isNan || b.isNan) = true := by rw [ha, hb]; decide
  rw [Val.max, if_neg hnan]
  by_cases hab : Val.lt a b = true
  · rw [if_pos hab]
    exact ⟨lt_asymm hab, lt_irrefl b, .inr rfl⟩
  by_cases hba : Val.lt b a = true
  · rw [if_neg hab, if_pos hba]
    exact ⟨lt_irrefl a, lt_asymm hba, .inl rfl⟩
  rw [if_neg hab, if_neg hba]
  split
  · exact ⟨Bool.eq_false_iff.2 hba, lt_irrefl b, .inr rfl⟩
  · exact ⟨lt_irrefl a, Bool.eq_false_iff.2 hab, .inl rfl⟩

/-- The smaller of two values that are not NaN is one of them, and neither is below it. -/
theorem min_spec {a b : Val} (ha : a.isNan = false) (hb : b.isNan = false) :
    Val.lt a (Val.min a b) = false ∧ Val.lt b (Val.min a b) = false ∧ (Val.min a b = a ∨ Val.min a b = b) := by
  have hnan : ¬ (a.isNan || b.isNan) = true := by rw [ha, hb]; decide
  rw [Val.min, if_neg hnan]
  by_cases hab : Val.lt a b = true
  · rw [if_pos hab]
    exact ⟨lt_irrefl a, lt_asymm hab, .inl rfl⟩
  by_cases hba : Val.lt b a = true
  · rw [if_neg hab, if_pos hba]
    exact ⟨lt_asymm hba, lt_irrefl b, .inr rfl⟩
  rw [if_neg hab, if_neg hba]
  split
  · exact ⟨lt_irrefl a, Bool.eq_false_iff.2 hba, .inl rfl⟩
  · exact ⟨Bool.eq_false_iff.2 hab, lt_irrefl b, .inr rfl⟩

/-! The largest element of a row, which decides SOFTMAX's special rules (R145). -/

theorem max_nan_left (b : Val) : Val.max .nan b = .nan := max_isNan (.inl rfl)

theorem max_nan_right (a : Val) : Val.max a .nan = .nan := max_isNan (.inr rfl)

/-- Nothing is above +infinity. -/
theorem max_posInf_left {b : Val} (hb : b.isNan = false) : Val.max (.inf false) b = .inf false := by
  cases b with
  | nan => cases hb
  | inf s => cases s <;> rfl
  | fin s m e => rfl

theorem max_posInf_right {a : Val} (ha : a.isNan = false) : Val.max a (.inf false) = .inf false := by
  cases a with
  | nan => cases ha
  | inf s => cases s <;> rfl
  | fin s m e => rfl

theorem foldl_max_nan (xs : List Val) : xs.foldl Val.max .nan = .nan := by
  induction xs with
  | nil => rfl
  | cons x xs ih => rw [List.foldl_cons, max_nan_left, ih]

theorem foldl_max_of_nan_mem {xs : List Val} (h : Val.nan ∈ xs) (a : Val) : xs.foldl Val.max a = .nan := by
  induction xs generalizing a with
  | nil => cases h
  | cons x xs ih =>
    rw [List.foldl_cons]
    rcases List.mem_cons.1 h with rfl | h
    · rw [max_nan_right, foldl_max_nan]
    · exact ih h _

theorem foldl_max_negInf {xs : List Val} (h : ∀ x ∈ xs, x = .inf true) : xs.foldl Val.max (.inf true) = .inf true := by
  induction xs with
  | nil => rfl
  | cons x xs ih =>
    rw [List.forall_mem_cons] at h
    rw [List.foldl_cons, h.1]
    exact ih h.2

/-- Once NaN or +infinity, always NaN or +infinity. -/
theorem foldl_max_posInf (xs : List Val) : xs.foldl Val.max (.inf false) = .nan ∨ xs.foldl Val.max (.inf false) = .inf false := by
  induction xs with
  | nil => exact .inr rfl
  | cons x xs ih =>
    rw [List.foldl_cons]
    cases hx : x.isNan with
    | true => exact .inl (by rw [max_isNan (.inr hx), foldl_max_nan])
    | false => rwa [max_posInf_left hx]

theorem foldl_max_of_posInf_mem {xs : List Val} (h : Val.inf false ∈ xs) (a : Val) :
    xs.foldl Val.max a = .nan ∨ xs.foldl Val.max a = .inf false := by
  induction xs generalizing a with
  | nil => cases h
  | cons x xs ih =>
    rw [List.foldl_cons]
    rcases List.mem_cons.1 h with rfl | h
    · cases ha : a.isNan with
      | true => exact .inl (by rw [max_isNan (.inl ha), foldl_max_nan])
      | false => rw [max_posInf_right ha]; exact foldl_max_posInf xs
    · exact ih h _

/-- SOFTMAX of a row whose largest element is an infinity or NaN (R145). -/
theorem softmaxRow_of_max_nan {xs : List Val} (h : xs.foldl Val.max (.inf true) = .nan) :
    (softmaxRow xs).1 = xs.map (fun _ => .nan) := by
  simp only [softmaxRow, h]

theorem softmaxRow_of_max_inf {xs : List Val} {s : Bool} (h : xs.foldl Val.max (.inf true) = .inf s) :
    (softmaxRow xs).1 = xs.map (fun _ => if s then .zero else .nan) := by
  simp only [softmaxRow, h]

theorem softmaxRow_special (xs : List Val) :
    ((∀ x ∈ xs, x = .inf true) → (softmaxRow xs).1 = xs.map (fun _ => .zero))
    ∧ (Val.nan ∈ xs → (softmaxRow xs).1 = xs.map (fun _ => .nan))
    ∧ (Val.inf false ∈ xs → (softmaxRow xs).1 = xs.map (fun _ => .nan)) := by
  refine ⟨fun h => softmaxRow_of_max_inf (foldl_max_negInf h), fun h => softmaxRow_of_max_nan (foldl_max_of_nan_mem h _), fun h => ?_⟩
  rcases foldl_max_of_posInf_mem h (.inf true) with hm | hm
  · exact softmaxRow_of_max_nan hm
  · exact softmaxRow_of_max_inf hm

/-! The special values of the special functions (Table 4.5). -/

theorem special_nan (code : Nat) : special code .nan = .nan := by
  unfold special
  rfl

/-- A finite value that is not zero is outside the domain where the function has no result below zero. -/
theorem special_negative {m : Nat} (hm : m ≠ 0) (e : Int) :
    special 0x11 (.fin true m e) = .nan ∧ special 0x12 (.fin true m e) = .nan ∧ special 0x14 (.fin true m e) = .nan :=
  ⟨if_neg hm, if_neg hm, if_neg hm⟩

/-! The element-wise functions (Table 4.7). -/

/-- RELU of a value that is not NaN is not NaN and not below zero. -/
theorem max_zero_spec {a : Val} (ha : a.isNan = false) :
    (Val.max a .zero).isNan = false ∧ Val.lt (Val.max a .zero) .zero = false := by
  obtain ⟨-, hzero, hor⟩ := max_spec (b := .zero) ha rfl
  refine ⟨?_, hzero⟩
  rcases hor with h | h
  · rw [h, ha]
  · rw [h]; rfl

theorem max_min_spec {a b : Val} (ha : a.isNan = false) (hb : b.isNan = false) :
    Val.lt (Val.max a b) a = false ∧ Val.lt (Val.max a b) b = false ∧ Val.lt a (Val.min a b) = false ∧ Val.lt b (Val.min a b) = false
      ∧ (Val.max a b = a ∨ Val.max a b = b) ∧ (Val.min a b = a ∨ Val.min a b = b) := by
  obtain ⟨hmaxa, hmaxb, hmax⟩ := max_spec ha hb
  obtain ⟨hmina, hminb, hmin⟩ := min_spec ha hb
  exact ⟨hmaxa, hmaxb, hmina, hminb, hmax, hmin⟩

/-- NOP writes nothing. -/
theorem drvEffect_nop {op : DrvOp} (h : op.func = 0) (s : State) : drvEffect op s = s := by
  simp only [drvEffect, h]

/-- Settles O19: MAX, MIN and RELU through the order of values, SOFTMAX through the largest element of its row; the other
values are those of the definitions. -/
theorem laneFunctionsAreExact : Obligations.LaneFunctionsAreExact := by
  unfold Obligations.LaneFunctionsAreExact
  refine ⟨fun s1 s2 a b c fn hfn => ?_, ⟨special_nan, ?_⟩, softmaxRow_special⟩
  · have hmax : fn 0x06 = Val.max a b := hfn 0x06
    have hmin : fn 0x07 = Val.min a b := hfn 0x07
    have hsel : fn 0x09 = if c.isZero then b else a := hfn 0x09
    have hrelu : fn 0x0A = Val.max a .zero := hfn 0x0A
    rw [hmax, hmin, hsel, hrelu]
    exact ⟨hfn 0x01, hfn 0x02, hfn 0x03, hfn 0x04, hfn 0x05, hfn 0x08, hfn 0x0B, fun h => if_pos h, fun h => if_neg (by rw [h]; decide),
      max_zero_spec, fun h => by rw [max_isNan (.inl h)]; rfl, max_min_spec,
      fun h => by rw [max_isNan h, min_isNan h]; exact ⟨rfl, rfl⟩, fun _ s h => drvEffect_nop h s⟩
  · exact ⟨fun _ _ => ⟨rfl, rfl⟩, fun _ _ => rfl, fun _ e hm => (special_negative hm e).1, fun _ => rfl,
      fun _ e hm => (special_negative hm e).2.1, rfl, rfl, fun _ _ => rfl, fun _ e hm => (special_negative hm e).2.2,
      rfl, rfl, rfl, rfl, rfl, rfl, rfl, rfl, rfl⟩

end Sys2Proof.LaneFunctions
end

section
/-!
PROOFS. LDS, TALLY and CHECK of 09_step_programs.md: what an issue changes, what each of the three delivers, and what a CHECK leaves as it was.
-/

namespace Sys2Proof.ScalarsAndTallies

open Sys2Proof.Machine Sys2Proof.Machine.Reg

/-! The issue of an instruction (R261). -/

/-- A word that decodes holds its instruction, with no reserved bit set (R264). -/
theorem parse_of_decode {w : Nat} {i : SeqInsn} (h : SeqInsn.decode w = .ok i) :
    SeqInsn.parse w = some i ∧ SeqInsn.reservedSet w = false := by
  unfold SeqInsn.decode at h
  split at h
  · cases h
  · rename_i j hj
    split at h
    · cases h
    · rename_i hres
      cases h
      exact ⟨hj, Bool.eq_false_iff.2 hres⟩

/-- A sequencer at an instruction that its command names and that its unit takes issues it. -/
theorem tryIssue_of_issued {s t : State} {q : Fin 4} {i : SeqInsn} {kind : Stall} {want : SeqInsn → Bool} {run : SeqInsn → State → Issue}
    (hat : AtInsn s q i) (hwant : want i = true) (hrun : run i s = .issued t) : tryIssue s q kind want run = t := by
  obtain ⟨hrunning, hdecode, hallowed⟩ := hat
  obtain ⟨hparse, hres⟩ := parse_of_decode hdecode
  simp only [tryIssue, hrunning, hparse, hwant, hallowed, hres, hrun, Bool.not_true, Bool.false_eq_true, if_false]

/-- A command that tries to issue the instruction at which its sequencer stands answers the state that its run issues. -/
theorem answers_of_issued {c : Instr} {s t : State} {q : Fin 4} {i : SeqInsn} {kind : Stall} {want : SeqInsn → Bool}
    {run : SeqInsn → State → Issue} {P : State → Prop} (hexec : exec c s = .next (tryIssue s q kind want run)) (hat : AtInsn s q i)
    (hwant : want i = true) (hrun : run i s = .issued t) (hP : P t) : Answers c s P :=
  ⟨t, by rw [hexec, tryIssue_of_issued hat hwant hrun], hP⟩

theorem issuedNext_frame (s : State) (q : Fin 4) :
    issuedNext s q = { s with
      regs := (issuedNext s q).regs, seqs := s.seqs.set q ((s.seqr q).stepped (((s.seqr q).pc + 1) % 4096)) } := by
  unfold issuedNext
  rw [State.count_frame]
  rfl

theorem issuedNext_regsKept (s : State) (q : Fin 4) : RegsKept (counterFields SEQ_ISSUE_CNT) s (issuedNext s q) :=
  State.count_regsKept _ SEQ_ISSUE_CNT 1

theorem issuedNext_counted (s : State) (q : Fin 4) : Counted SEQ_ISSUE_CNT 1 s (issuedNext s q) :=
  State.count_counted _ SEQ_ISSUE_CNT 1 (by decide)

/-- The fields that an issue counts in, by their places. -/
theorem issue_keys : (counterFields SEQ_ISSUE_CNT).map Field.key = [SEQ_ISSUE_CNT.key, (OBS_AON.COUNT 39).key] := by decide

/-- No scalar register lies where an issue counts. -/
theorem scalar_key_not_mem {n : Nat} (h : n < 64) : (SEQ_SCALAR.S n).key ∉ (counterFields SEQ_ISSUE_CNT).map Field.key := by
  rw [issue_keys]
  simp only [Field.key, SEQ_SCALAR.S, SEQ_ISSUE_CNT, OBS_AON.COUNT, List.mem_cons, List.not_mem_nil, or_false]
  omega

theorem set_regsKept (s : State) (f : Field) (v : Nat) : RegsKept [f] s (s.set f v) := by
  intro g hg
  rw [List.map_singleton, List.mem_singleton] at hg
  exact State.get_set_of_ne s v hg

/-- A tag that an instruction may name (Table 9.6, code 10). -/
theorem tagNamed_of {s : State} {tag : Nat} (hv : (tagEntry s tag).valid = true) (hr : (tagEntry s tag).rd = true) :
    tagNamed s tag = true := by
  rw [tagNamed, hv, hr]; rfl

/-! LDS (R270). -/

/-- LDS of one register loads the word that its read delivers, and issues. -/
theorem runLds_one {s : State} {q : Fin 4} {tag offset first : Nat} (hfirst : first < 64) (htag : tagNamed s tag = true) :
    runLds q (.lds tag offset first 1) s = .issued (issuedNext
      ((tagWord (s.newOp 0) tag (Int.ofNat (offset * 4)) 4).2.set (SEQ_SCALAR.S first)
        (tagWord (s.newOp 0) tag (Int.ofNat (offset * 4)) 4).1) q) := by
  have hfit : ¬ first + 1 > 64 := by omega
  simp only [runLds, if_neg hfit, htag, Bool.not_true, Bool.false_eq_true, if_false, loadScalars]

/-- A scalar register loaded with an issue after it: what it holds, and what is left as it was. -/
theorem issuedNext_set_scalar (u : State) (q : Fin 4) {n : Nat} (hn : n < 64) (v : Nat) {t : State} (ht : t = issuedNext (u.set (SEQ_SCALAR.S n) v) q) :
    scalar t n = v % 2 ^ 32
      ∧ t = { u with regs := t.regs, seqs := u.seqs.set q ((u.seqr q).stepped (((u.seqr q).pc + 1) % 4096)) }
      ∧ RegsKept (SEQ_SCALAR.S n :: counterFields SEQ_ISSUE_CNT) u t ∧ Counted SEQ_ISSUE_CNT 1 u t := by
  have hkey := scalar_key_not_mem hn
  have hkept := issuedNext_regsKept (u.set (SEQ_SCALAR.S n) v) q
  have hissue : (u.set (SEQ_SCALAR.S n) v).get SEQ_ISSUE_CNT = u.get SEQ_ISSUE_CNT := by
    refine State.get_set_of_ne u v fun h => hkey ?_
    rw [← h, issue_keys]
    exact List.mem_cons_self
  subst ht
  refine ⟨?_, issuedNext_frame _ q, (set_regsKept u _ v).trans hkept, ?_⟩
  · rw [scalar, hkept _ hkey, State.get_set_self]; rfl
  · have hcount := issuedNext_counted (u.set (SEQ_SCALAR.S n) v) q
    rwa [Counted, hissue] at hcount

/-! TALLY (R72, R274). -/

/-- TALLY writes the record that it makes of those of its range, and issues. -/
theorem runTally_of {s : State} {q : Fin 4} {doff a tag offset first count : Nat} {d : Desc} (hn : effDesc s q doff 0 a < 4096)
    (hd : descAt s (effDesc s q doff 0 a) = some d) (htag : tagNamed s tag = true) {r : List Tally × State}
    (hr : r = readTallies d first ((if count = 0 then d.tiles else min d.tiles (first + count)) - first) (s.newOp 0)) :
    runTally q (.tally doff a tag offset first count) s = .issued (issuedNext
      (tagWrite r.2 (rawChan r.2 tag) (Int.ofNat (offset * 8)) (toBytes 8 (Tally.combine d.fmt r.1).encode)) q) := by
  simp only [runTally, if_pos hn, hd, htag, Bool.not_true, Bool.false_eq_true, if_false, hr]

/-! CHECK (R274). -/

/-- The condition that CHECK judges, as Table 9.3 states it. -/
theorem checkHolds_eq (cond imm : Nat) (x : Tally) :
    checkHolds cond imm x = decide (cond = 0 ∧ x.ovf + x.nan ≠ 0 ∨ cond = 1 ∧ x.nan ≠ 0 ∨ cond = 2 ∧ x.stale = true
      ∨ cond = 3 ∧ x.maxexp ≥ imm ∨ cond = 4 ∧ x.maxexp < imm ∨ cond = 5 ∧ x.valid = false) := by
  rw [Bool.eq_iff_iff, decide_eq_true_eq]
  match cond with
  | 0 | 1 | 2 | 3 | 4 | 5 | n + 6 =>
    simp only [checkHolds, bne_iff_ne, decide_eq_true_eq, Bool.not_eq_true', Bool.false_eq_true, Nat.reduceEqDiff,
      true_and, false_and, or_false, false_or]

/-- What a CHECK leaves on its sequencer when it has judged. -/
def checked (u : State) (q : Fin 4) (holds : Bool) : State :=
  (issuedNext u q).setSeqr q { (issuedNext u q).seqr q with f := holds }

/-- The log entry of a CHECK that asks for attention. -/
def checkEvent (q : Fin 4) : LogEvent :=
  { region := regionSEQ, event := (Config.unlistedEvent 4).toNat, level := 2, action := 5, block := q }

/-- CHECK sets F to what it judges of the record that its read delivers, and asks for attention where it is to. -/
theorem runCheck_of {s : State} {q : Fin 4} {tag offset cond imm : Nat} {attn : Bool} (htag : tagNamed s tag = true) {r : Nat × State}
    (hr : r = tagWord (s.newOp 0) tag (Int.ofNat (offset * 8)) 8) {holds : Bool} (hholds : holds = checkHolds cond imm (Tally.decode r.1)) :
    runCheck q (.check tag offset cond imm attn) s = .issued
      (if attn && holds then ((checked r.2 q holds).log (checkEvent q)).attend 3 else checked r.2 q holds) := by
  simp only [runCheck, htag, Bool.not_true, Bool.false_eq_true, if_false, hholds, hr, checked, checkEvent]

theorem seqr_issuedNext (u : State) (q : Fin 4) :
    (issuedNext u q).seqr q = (u.seqr q).stepped (((u.seqr q).pc + 1) % 4096) := by
  rw [issuedNext_frame]
  exact Vector.getElem_set_self _

/-- A sequencer set twice holds what was set last. -/
theorem setSeqr_frame {u t : State} {q : Fin 4} {x : SeqState} (h : t = { u with regs := t.regs, seqs := u.seqs.set q x }) (y : SeqState) :
    t.setSeqr q y = { u with regs := (t.setSeqr q y).regs, seqs := u.seqs.set q y } := by
  change t.setSeqr q y = { u with regs := t.regs, seqs := u.seqs.set q y }
  generalize t.regs = regs at h ⊢
  subst h
  simp only [State.setSeqr, Vector.set_set]

theorem checked_frame (u : State) (q : Fin 4) (holds : Bool) :
    checked u q holds = { u with
      regs := (checked u q holds).regs
      seqs := u.seqs.set q { (u.seqr q).stepped (((u.seqr q).pc + 1) % 4096) with f := holds } } := by
  rw [← seqr_issuedNext]
  exact setSeqr_frame (issuedNext_frame u q) _

theorem checked_regsKept (u : State) (q : Fin 4) (holds : Bool) : RegsKept (counterFields SEQ_ISSUE_CNT) u (checked u q holds) :=
  issuedNext_regsKept u q

theorem checked_logIn (u : State) (q : Fin 4) (holds : Bool) : (checked u q holds).logIn = u.logIn := by
  rw [checked_frame]

/-- A log entry changes the registers, the log's queue and the free values alone. -/
theorem log_frame (s : State) (e : LogEvent) : s.log e = { s with regs := (s.log e).regs, logIn := (s.log e).logIn, free := (s.log e).free } := by
  unfold State.log
  dsimp only
  split
  · rw [State.count_frame]; rfl
  · rfl

/-- The bit of an attention reads 1 (R526). -/
theorem bit_attend (s : State) {b : Nat} (h : b < 12) : bit ((s.attend b).get HST_ATTN.ATTN) b = true := by
  have hw : HST_ATTN.ATTN.width = 12 := rfl
  have hb := Nat.testBit_eq_decide_div_mod_eq (x := (s.get HST_ATTN.ATTN ||| 2 ^ b) % 2 ^ 12) (i := b)
  rw [Nat.testBit_mod_two_pow, Nat.testBit_or, Nat.testBit_two_pow_self] at hb
  rw [State.attend, State.get_set_self, hw, bit, bits, Nat.shiftRight_eq_div_pow, Nat.pow_one]
  rw [decide_eq_true h, Bool.or_true, Bool.true_and] at hb
  rw [of_decide_eq_true hb.symm]
  rfl

/-- A CHECK that asks for attention: its log entry and the attention touch the registers, the log and the free values too. -/
theorem attend_checked_frame (u : State) (q : Fin 4) (holds : Bool) (b : Nat) {t : State}
    (ht : t = ((checked u q holds).log (checkEvent q)).attend b) :
    t = { u with
      regs := t.regs, logIn := t.logIn, free := t.free
      seqs := u.seqs.set q { (u.seqr q).stepped (((u.seqr q).pc + 1) % 4096) with f := holds } } := by
  rw [log_frame, checked_frame] at ht
  subst ht
  rfl

/-- What a CHECK does that judges `holds` after its read. -/
theorem checked_spec (u : State) (q : Fin 4) (attn holds : Bool) {t : State}
    (ht : t = if attn && holds then ((checked u q holds).log (checkEvent q)).attend 3 else checked u q holds) :
    t = { u with
        regs := t.regs, logIn := t.logIn, free := t.free
        seqs := u.seqs.set q { (u.seqr q).stepped (((u.seqr q).pc + 1) % 4096) with f := holds } }
      ∧ (attn = true ∧ holds = true → bit (t.get HST_ATTN.ATTN) 3 = true)
      ∧ (attn = false ∨ holds = false → RegsKept (counterFields SEQ_ISSUE_CNT) u t ∧ t.logIn = u.logIn) := by
  split at ht
  · rename_i hask
    rw [Bool.and_eq_true] at hask
    refine ⟨attend_checked_frame u q holds 3 ht, fun _ => ht ▸ bit_attend _ (by decide), fun hnot => ?_⟩
    rw [hask.1, hask.2] at hnot
    exact absurd hnot (by decide)
  · rename_i hask
    subst ht
    refine ⟨?_, fun h => absurd (Bool.and_eq_true _ _ ▸ h) hask, fun _ => ⟨checked_regsKept u q holds, checked_logIn u q holds⟩⟩
    rw [checked_frame]

/-- Settles O8: each of the three instructions issues, and what it does is said by its run and by the frames of an issue, a log entry and an attention. -/
theorem scalarsTalliesAndChecksTakeEffect : Obligations.ScalarsTalliesAndChecksTakeEffect := by
  unfold Obligations.ScalarsTalliesAndChecksTakeEffect
  refine fun s q => ⟨fun tag offset first hat hfirst hv hr => ?_, fun doff a tag offset first count d hat hn hd hv hr => ?_,
    fun tag offset cond imm attn hat hv hr => ?_⟩
  · refine answers_of_issued rfl hat rfl (runLds_one hfirst (tagNamed_of hv hr)) ?_
    rintro r rfl
    exact issuedNext_set_scalar _ q hfirst _ rfl
  · exact answers_of_issued rfl hat rfl (runTally_of hn hd (tagNamed_of hv hr) rfl) ⟨_, rfl, rfl⟩
  · refine answers_of_issued rfl hat rfl (runCheck_of (tagNamed_of hv hr) rfl rfl) ?_
    rintro r rfl x rfl holds hholds
    rw [← checkHolds_eq] at hholds
    exact checked_spec _ q attn holds (by rw [hholds])

end Sys2Proof.ScalarsAndTallies
end

section
/-!
PROOFS. The operations of 04_drover.md: what taking and leaving slots may change, how an operation starts, is issued and ends.
-/

namespace Sys2Proof.DroverOperations

open Sys2Proof.Machine Sys2Proof.Machine.Reg Sys2Proof.ScalarsAndTallies

/-! Registers. -/

theorem regsKept_mono {fs gs : List Field} {s t : State} (h : RegsKept fs s t) (hsub : fs ⊆ gs) : RegsKept gs s t :=
  fun f hf => h f fun hmem => hf (List.map_subset Field.key hsub hmem)

/-- An event offered to the log changes no register but those of a full log (R455). -/
theorem log_regsKept (s : State) (e : LogEvent) :
    RegsKept (counterFields FLT_LOG_DROP_CNT ++ [FLT_FLAGS.LOG_DROP]) s (s.log e) := by
  unfold State.log
  dsimp only
  split
  · exact RegsKept.trans (s := s) (State.count_regsKept _ FLT_LOG_DROP_CNT 1) (set_regsKept _ FLT_FLAGS.LOG_DROP 1)
  · exact fun f _ => rfl

/-- Two counters that share neither their fields nor their shadows both count (R14). -/
theorem counted_count_count (s : State) {f g : Field} (m n : Nat) (hfg : f.key ∉ (counterFields g).map Field.key)
    (hgf : g.key ∉ (counterFields f).map Field.key)
    (hf : ∀ i, shadowIndex f.off = some i → f.key ≠ (OBS_AON.COUNT i).key)
    (hg : ∀ i, shadowIndex g.off = some i → g.key ≠ (OBS_AON.COUNT i).key) :
    Counted f m s ((s.count f m).count g n) ∧ Counted g n s ((s.count f m).count g n) := by
  constructor
  · rw [Counted, State.count_regsKept _ g n f hfg]
    exact State.count_counted s f m hf
  · have hcount := State.count_counted (s.count f m) g n hg
    rwa [Counted, State.count_regsKept s f m g hgf] at hcount

/-! Slots taken and left (R206 to R210). -/

/-- The fields that the taking and the leaving of slots count and log in. -/
def slotFields : List Field :=
  counterFields TAG_FOREIGN_CNT ++ counterFields TAG_EXTRA_CLOSE_CNT ++ counterFields TAG_EXTRA_DRAIN_CNT
    ++ (counterFields FLT_LOG_DROP_CNT ++ [FLT_FLAGS.LOG_DROP])

/-- `t` is `s` but for what the taking and the leaving of slots may change: the slots, their counters and the log. -/
structure SlotsOnly (s t : State) : Prop where
  frame : t = { s with regs := t.regs, slots := t.slots, logIn := t.logIn, once := t.once, free := t.free }
  regs : RegsKept slotFields s t

theorem SlotsOnly.refl (s : State) : SlotsOnly s s := ⟨rfl, RegsKept.refl _ s⟩

theorem SlotsOnly.trans {s t u : State} (h : SlotsOnly s t) (k : SlotsOnly t u) : SlotsOnly s u :=
  ⟨by rw [k.frame, h.frame], regsKept_mono (h.regs.trans k.regs) (List.append_subset.2 ⟨List.Subset.refl _, List.Subset.refl _⟩)⟩

theorem SlotsOnly.foldl {α : Type} (f : State → α → State) (h : ∀ s x, SlotsOnly s (f s x)) :
    ∀ (xs : List α) (s : State), SlotsOnly s (xs.foldl f s)
  | [], s => .refl s
  | x :: xs, s => (h s x).trans (SlotsOnly.foldl f h xs (f s x))

theorem count_slotsOnly (s : State) {f : Field} (n : Nat) (hf : counterFields f ⊆ slotFields) : SlotsOnly s (s.count f n) :=
  ⟨by rw [State.count_frame], regsKept_mono (State.count_regsKept s f n) hf⟩

theorem putSlot_slotsOnly (s : State) (tag slot : Nat) (x : Slot) : SlotsOnly s (putSlot s tag slot x) :=
  ⟨rfl, fun _ _ => rfl⟩

theorem logOnce_slotsOnly (s : State) (kind : Nat) (e : LogEvent) : SlotsOnly s (s.logOnce kind e) := by
  unfold State.logOnce
  split
  · exact .refl s
  · exact ⟨by rw [log_frame], regsKept_mono (log_regsKept s e) (List.subset_append_right _ _)⟩

theorem foreign_slotsOnly (s : State) : SlotsOnly s (foreign s) :=
  (count_slotsOnly s 1 (by decide)).trans (logOnce_slotsOnly _ _ _)

theorem countClose_slotsOnly (s : State) (tag slot : Nat) : SlotsOnly s (countClose s tag slot) := by
  unfold countClose
  dsimp only
  split
  · exact count_slotsOnly s 1 (by decide)
  · exact putSlot_slotsOnly s _ _ _

theorem countDrain_slotsOnly (s : State) (tag slot : Nat) : SlotsOnly s (countDrain s tag slot) := by
  unfold countDrain
  dsimp only
  split
  · exact count_slotsOnly s 1 (by decide)
  · exact putSlot_slotsOnly s _ _ _

theorem closeSlot_slotsOnly (s : State) (unit tag slot : Nat) : SlotsOnly s (closeSlot s unit tag slot) := by
  unfold closeSlot
  dsimp only
  split
  · exact countClose_slotsOnly s tag slot
  · exact foreign_slotsOnly s

theorem drainSlot_slotsOnly (s : State) (unit tag slot : Nat) : SlotsOnly s (drainSlot s unit tag slot) := by
  unfold drainSlot
  dsimp only
  split
  · exact countDrain_slotsOnly s tag slot
  · exact foreign_slotsOnly s

theorem leaveSlot_slotsOnly (unit : Nat) (s : State) (u : SlotUse) : SlotsOnly s (leaveSlot unit s u) := by
  unfold leaveSlot
  split
  · exact closeSlot_slotsOnly s unit _ _
  · exact drainSlot_slotsOnly s unit _ _

theorem release_slotsOnly (s : State) (a : Acq) (p : SlotUse → Bool) : SlotsOnly s (release s a p).2 :=
  .foldl _ (leaveSlot_slotsOnly a.unit) _ s

theorem finishAcq_slotsOnly (s : State) (a : Acq) : SlotsOnly s (finishAcq s a) := release_slotsOnly s a _

theorem advanceGo_slotsOnly (old : Option SlotUse) (us : List SlotUse) :
    ∀ (a : Acq) (s : State), SlotsOnly s (advanceGo old a s us).2 := by
  induction us with
  | nil => exact fun a s => .refl s
  | cons u us ih =>
    intro a s
    unfold advanceGo
    dsimp only
    split
    · exact (putSlot_slotsOnly s _ _ _).trans (ih _ _)
    · split
      · exact ih _ s
      · exact .refl s

theorem askSlots_slotsOnly (s : State) (a : Acq) (us : List SlotUse) : SlotsOnly s (askSlots s a us).2 :=
  advanceGo_slotsOnly _ _ _ s

theorem askUses_slotsOnly (s : State) (a : Acq) (reads writes : List SlotUse) (last : SlotUse → Bool) :
    SlotsOnly s (askUses s a reads writes last).2 := by
  unfold askUses
  dsimp only
  split
  · exact askSlots_slotsOnly s a reads
  · exact ((askSlots_slotsOnly s a reads).trans (release_slotsOnly _ _ _)).trans (askSlots_slotsOnly _ _ writes)

theorem askPart_slotsOnly (s : State) (op : DrvOp) : SlotsOnly s (askPart s op).2 := askUses_slotsOnly s _ _ _ _

/-! The start of an operation (R118). -/

theorem advanceProducts_frame (s : State) (op : DrvOp) :
    advanceProducts s op = { s with regs := (advanceProducts s op).regs } := by
  unfold advanceProducts
  dsimp only
  split <;> rfl

/-- What an operation has become when it runs: its number, scalars, configuration and accesses are those of its start. -/
def StartedAs (op o : DrvOp) : Prop := o = { op with no := o.no, scalars := o.scalars, cfg := o.cfg, acq := o.acq }

/-- A start changes the registers, the slots, the log and the drover's own state alone; FUNC shows the function, and the operation runs. -/
theorem startDrv_spec (s : State) (op : DrvOp) {t : State} (ht : t = startDrv s op) :
    t = { s with
        regs := t.regs, slots := t.slots, drv := t.drv, logIn := t.logIn, ctx := t.ctx, opCount := t.opCount, once := t.once
        free := t.free }
      ∧ t.get DRV_STATUS.FUNC = op.func % 2 ^ 8
      ∧ ∃ o, t.drv.run = some o ∧ StartedAs op o := by
  unfold startDrv at ht
  extract_lets s₁ op₁ d s₂ a at ht
  have hs₂ : s₂ = { s with regs := s₁.regs, drv := s₂.drv, ctx := s₁.ctx, opCount := s₁.opCount, once := s₁.once } := by
    have hs₁ : s₁ = { s with regs := s₁.regs, ctx := s₁.ctx, opCount := s₁.opCount, once := s₁.once } := by
      simp only [s₁]
      rw [advanceProducts_frame]
      rfl
    simp only [s₂]
    split
    · rw [hs₁]; rfl
    · rw [hs₁]
  have ha : SlotsOnly s₂ a.2 ∧ StartedAs op a.1 := by
    simp only [a]
    split
    · exact ⟨.refl s₂, rfl⟩
    · exact ⟨askPart_slotsOnly s₂ op₁, rfl⟩
  have hfunc : s₂.get DRV_STATUS.FUNC = op.func % 2 ^ 8 := by
    have hset : s₁.get DRV_STATUS.FUNC = op.func % 2 ^ 8 := State.get_set_self _ DRV_STATUS.FUNC op.func
    simp only [s₂]
    split <;> exact hset
  obtain ⟨⟨hframe, hregs⟩, hop⟩ := ha
  refine ⟨?_, ?_, a.1, ?_, hop⟩
  · rw [ht, hframe, hs₂]; rfl
  · rw [ht, ← hfunc]; exact hregs _ (by decide)
  · rw [ht]; rfl

/-! Host-allocated dispatch at a start (R165, R166). -/

theorem hostAllocates_congr {s t : State} {op o : DrvOp} (hlatched : t.latched = s.latched) (hstart : StartedAs op o) :
    hostAllocates t o = hostAllocates s op := by
  rw [hstart, hostAllocates, hostAllocates, State.held, State.held, hlatched]

/-- The operation that may act is the one that runs. -/
theorem eq_of_drvReady {s : State} {op o : DrvOp} (hrun : s.drv.run = some op) (hready : drvReady s = some o) : o = op := by
  rw [drvReady, hrun, Option.bind_some] at hready
  split at hready
  · exact (Option.some.inj hready).symm
  · cases hready

/-- An operation that decides under no host allocation asks for none. -/
theorem routeBegin_of_not_hostAllocates {s : State} {op : DrvOp} (hrun : s.drv.run = some op) (h : hostAllocates s op = false) :
    routeBegin s = s := by
  unfold routeBegin
  split
  · rfl
  · rename_i o hready
    cases eq_of_drvReady hrun hready
    exact if_pos (.inl (by rw [h, Bool.not_false]))

theorem allocMissing_run (s : State) : (allocMissing s).drv.run = s.drv.run := rfl

/-- A demand posted leaves the operation running, with the scores that it has read. -/
theorem postDemand_run (s : State) (op : DrvOp) (tag : Nat) :
    ∃ o, (postDemand s op tag).drv.run = some o ∧ o.func = op.func := by
  unfold postDemand
  extract_lets a seq s₁ x s₂ s₃
  have hdrv : s₃.drv = s₂.drv := by rw [show MemoryOnly s₂ s₃ from tagWrite_memoryOnly s₂ _ _ _]
  refine ⟨{ op with got := { tiles := x.1, sectors := [] } }, ?_, rfl⟩
  change s₃.drv.run = _
  rw [hdrv]
  rfl

/-- What an operation does as it may act leaves it running. -/
theorem routeBegin_run {s : State} {op : DrvOp} (hrun : s.drv.run = some op) :
    ∃ o, (routeBegin s).drv.run = some o ∧ o.func = op.func := by
  unfold routeBegin
  split
  · exact ⟨op, hrun, rfl⟩
  · rename_i o hready
    cases eq_of_drvReady hrun hready
    split
    · exact ⟨op, hrun, rfl⟩
    · split
      · exact ⟨op, (allocMissing_run s).trans hrun, rfl⟩
      · dsimp only
        split
        · exact ⟨_, rfl, rfl⟩
        · exact postDemand_run _ _ _

/-! The issue of an operation (R118, R273, R423). -/

/-- The governor lets a launch go with changes to its own state alone (R424). -/
theorem gate_frame {s u : State} {q : Fin 4} {w : Work} {typ : Nat} (h : gate s q w = (some typ, u)) : u = { s with cad := u.cad } := by
  unfold gate at h
  dsimp only at h
  split at h
  · split at h <;> cases h
    rfl
  · split at h
    · cases h
    · split at h
      · cases h
      · split at h
        · cases h
        · split at h <;> cases h
          rfl
        · cases h
          rfl

/-- An operation that its unit accepts and the governor lets go is issued: it starts, or waits to start. -/
theorem issueDrv_of_admitted {s u : State} {q : Fin 4} {op : DrvOp} {typ : Nat} (begun : State → State)
    (hnamed : ∀ n ∈ op.readNums ++ op.writeNums, (namedDesc s n).isSome = true) (hupdate : isUpdate op.func = true → op.s1 ≤ 56)
    (hok : drvOk op (op.readNums.filterMap (namedDesc s)) (op.writeNums.filterMap (namedDesc s)) = true)
    (hwait : s.drv.wait = none) (hgate : gate s q (drvWork s op) = (some typ, u)) :
    issueDrv begun q op s = .issued (issuedNext
      (if u.drv.run.isSome then setDrv u { u.drv with wait := some { op with energy := typ } }
        else begun (startDrv u { op with energy := typ })) q) := by
  have hblock : ¬(isUpdate op.func = true ∧ op.s1 > 56) := fun h => absurd (hupdate h.1) (Nat.not_le.2 h.2)
  have hfind : (op.readNums ++ op.writeNums).find? (fun n => (namedDesc s n).isNone) = none :=
    List.find?_eq_none.2 fun n hn => by simp [Option.isSome_iff_ne_none.1 (hnamed n hn)]
  simp only [issueDrv, if_neg hblock, hfind, hok, hwait, hgate, Bool.not_true, Bool.false_eq_true, Option.isSome_none, if_false]

/-- The commands of GSM and VEC try to issue the function of their code. -/
theorem exec_fnCommand {q : Fin 4} {func : Nat} {c : Instr} (h : (func, c) ∈ fnCommands q) (s : State) :
    exec c s = .next (tryIssue s q .other (wantsFn func) (runFn q)) := by
  have hall : (fnCommands q).map (fun p => exec p.2 s)
      = (fnCommands q).map (fun p => .next (tryIssue s q .other (wantsFn p.1) (runFn q))) := rfl
  exact List.map_inj_left.1 hall _ h

/-- The commands of ROUTE try to issue their sub-operation. -/
theorem exec_routeCommand {q : Fin 4} {subop : Nat} {c : Instr} (h : (subop, c) ∈ routeCommands q) (s : State) :
    exec c s = .next (tryIssue s q .other (wantsRoute subop) (runRoute q)) := by
  have hall : (routeCommands q).map (fun p => exec p.2 s)
      = (routeCommands q).map (fun p => .next (tryIssue s q .other (wantsRoute p.1) (runRoute q))) := rfl
  exact List.map_inj_left.1 hall _ h

/-- VEC accepts the codes of the commands below 0x40, and GSM those from there on (R273, Table 4.7). -/
theorem code_of_fnCommand {q : Fin 4} {func : Nat} {c : Instr} (h : (func, c) ∈ fnCommands q) :
    (if func < 0x40 then vecCode func else gsmCode func) = true ∧ func < 0x46 := by
  have hall : (fnCommands q).all (fun p => (if p.1 < 0x40 then vecCode p.1 else gsmCode p.1) && decide (p.1 < 0x46)) = true := rfl
  have hcode := List.all_eq_true.1 hall _ h
  rwa [Bool.and_eq_true, decide_eq_true_eq] at hcode

/-- A VEC or GSM instruction with a code that its opcode accepts is an operation of that function. -/
theorem runFn_of_code (q : Fin 4) {f : DrvFields} (h : (if f.func < 0x40 then vecCode f.func else gsmCode f.func) = true) (s : State) :
    runFn q (if f.func < 0x40 then .vec f else .gsm f) s = issueDrv id q (opOfFields s q f) s := by
  split at h
  · rw [if_pos ‹_›, runFn, if_pos h]
  · rw [if_neg ‹_›, runFn, if_pos h]

/-- The command of a function names the instruction that carries its code. -/
theorem wantsFn_self (f : DrvFields) : wantsFn f.func (if f.func < 0x40 then .vec f else .gsm f) = true := by
  split <;> rw [wantsFn, beq_self_eq_true, Bool.true_or]

/-- A drover sequencer stands at the instruction of command `c`, whose operation is `op`. -/
def AtOp (s : State) (q : Fin 4) (op : DrvOp) (c : Instr) : Prop :=
  (∃ f, (op.func, c) ∈ fnCommands q ∧ op = opOfFields s q f ∧ AtInsn s q (if op.func < 0x40 then .vec f else .gsm f))
    ∨ (∃ f, (op.subop, c) ∈ routeCommands q ∧ op = opOfRoute s q f ∧ AtInsn s q (.route f))

theorem AtOp.part_eq {s : State} {q : Fin 4} {op : DrvOp} {c : Instr} (h : AtOp s q op c) : op.part = 0 := by
  obtain ⟨f, -, rfl, -⟩ | ⟨f, -, rfl, -⟩ := h <;> rfl

theorem AtOp.func_lt {s : State} {q : Fin 4} {op : DrvOp} {c : Instr} (h : AtOp s q op c) : op.func < 2 ^ 8 := by
  obtain ⟨f, hc, -, -⟩ | ⟨f, -, rfl, -⟩ := h
  · exact Nat.lt_trans (code_of_fnCommand hc).2 (by decide)
  · change 0x46 < 2 ^ 8
    decide

/-- What an operation does as soon as it may act: a routing operation alone does anything (R165). -/
def begun (op : DrvOp) (s : State) : State := if op.func = 0x46 then routeBegin s else s

/-- The command of an operation answers what the operation's issue does. -/
theorem AtOp.answers {s t : State} {q : Fin 4} {op : DrvOp} {c : Instr} {P : State → Prop} (h : AtOp s q op c)
    (hissue : issueDrv (begun op) q op s = .issued t) (hP : P t) : Answers c s P := by
  obtain ⟨f, hc, rfl, hat⟩ | ⟨f, hc, rfl, hat⟩ := h
  · obtain ⟨hcode, hlt⟩ := code_of_fnCommand hc
    have hid : begun (opOfFields s q f) = id := funext fun v => if_neg (Nat.ne_of_lt hlt)
    refine answers_of_issued (exec_fnCommand hc s) hat (wantsFn_self f) ?_ hP
    rw [← hissue, hid]
    exact runFn_of_code q hcode s
  · have hroute : begun (opOfRoute s q f) = routeBegin := funext fun v => if_pos rfl
    have hwant : wantsRoute f.subop (.route f) = true := by rw [wantsRoute, beq_self_eq_true, Bool.true_or]
    refine answers_of_issued (exec_routeCommand hc s) hat hwant ?_ hP
    rw [← hissue, hroute]
    rfl

/-- Settles O17: an operation that is issued starts or waits, and both leave memory, the descriptors and the sequencers as they were
but for the issue itself. -/
theorem droverOperationsAreLaunched : Obligations.DroverOperationsAreLaunched := by
  unfold Obligations.DroverOperationsAreLaunched
  intro s q op c typ u (hat : AtOp s q op c) hnamed hupdate hok hwait hgate
  have hu := gate_frame hgate
  have hdrv : u.drv = s.drv := by rw [hu]
  refine hat.answers (issueDrv_of_admitted (begun op) hnamed hupdate hok hwait hgate) ⟨fun hrun => ?_, fun hrun => ?_⟩
  · have hnone : ¬ u.drv.run.isSome = true := by rw [hdrv, hrun]; decide
    rw [if_neg hnone]
    obtain ⟨v, hv⟩ : ∃ v, v = startDrv u { op with energy := typ } := ⟨_, rfl⟩
    obtain ⟨hframe, hfunc, o, ho, hstart⟩ := startDrv_spec u _ hv
    obtain ⟨hmem, hmemory, hdescs, hlatched, hseqs⟩ :
        v.mem = s.mem ∧ v.memory = s.memory ∧ v.descs = s.descs ∧ v.latched = s.latched ∧ v.seqs = s.seqs := by
      rw [hframe, hu]
      exact ⟨rfl, rfl, rfl, rfl, rfl⟩
    rw [← hv]
    refine ⟨v, rfl, rfl, ⟨o, ho, ?_⟩, ?_, hmem, hmemory, hdescs, fun hhost => ?_⟩
    · rw [hstart]
      exact ⟨rfl, rfl, rfl, rfl, rfl, rfl, rfl, rfl, hat.part_eq⟩
    · rw [hfunc]
      exact Nat.mod_eq_of_lt hat.func_lt
    · have hbegun : begun op v = v := by
        rw [begun, routeBegin_of_not_hostAllocates ho ((hostAllocates_congr hlatched hstart).trans hhost), ite_self]
      rw [hbegun, seqr_issuedNext, State.seqr, hseqs]
      exact ⟨rfl, rfl⟩
  · have hsome : u.drv.run.isSome = true := by rw [hdrv]; exact Option.isSome_iff_ne_none.2 hrun
    rw [if_pos hsome, hdrv]
    refine ⟨rfl, ?_⟩
    rw [seqr_issuedNext, issuedNext_frame, hu]
    exact ⟨rfl, rfl, rfl, rfl, rfl⟩

/-! The end of an operation (R118, R208). -/

theorem startWaiting_of_none {s : State} (h : s.drv.wait = none) : startWaiting s = s := by
  unfold startWaiting
  rw [h]

/-- The operation that waits runs once it is started. -/
theorem startWaiting_run {s : State} {w : DrvOp} (h : s.drv.wait = some w) :
    ∃ o, (startWaiting s).drv.run = some o ∧ o.func = w.func := by
  obtain ⟨-, -, o, ho, hstart⟩ := startDrv_spec (setDrv s { s.drv with wait := none }) w rfl
  obtain ⟨o', ho', hfunc⟩ := routeBegin_run ho
  unfold startWaiting
  rw [h]
  exact ⟨o', ho', by rw [hfunc, hstart]⟩

/-- `f` with an operation over that has left its slots: it is counted, its energy is done, and none runs. -/
def ended (f : State) (op : DrvOp) (cycles : Nat) : State :=
  noteDone (((setDrv f { f.drv with run := none, opTotal := f.drv.opTotal + 1, posted := none, alloc := none }).count DRV_OP_CNT 1).count
    DRV_BUSY_CNT cycles) op.energy

theorem finishDrv_eq (s : State) (op : DrvOp) (cycles : Nat) :
    finishDrv s op cycles = startWaiting (ended (finishAcq s op.acq) op cycles) := rfl

theorem ended_frame (f : State) (op : DrvOp) (cycles : Nat) :
    ended f op cycles = { f with
      regs := (ended f op cycles).regs
      drv := { f.drv with run := none, opTotal := f.drv.opTotal + 1, posted := none, alloc := none }
      cad := { f.cad with done := f.cad.done + op.energy } } := by
  unfold ended
  rw [State.count_frame (State.count _ _ _), State.count_frame]
  rfl

theorem ended_counted (f : State) (op : DrvOp) (cycles : Nat) :
    Counted DRV_OP_CNT 1 f (ended f op cycles) ∧ Counted DRV_BUSY_CNT cycles f (ended f op cycles) :=
  counted_count_count (setDrv f _) 1 cycles (by decide) (by decide) (by decide) (by decide)

theorem ended_regsKept (f : State) (op : DrvOp) (cycles : Nat) :
    RegsKept (counterFields DRV_OP_CNT ++ counterFields DRV_BUSY_CNT) f (ended f op cycles) :=
  RegsKept.trans (s := f) (State.count_regsKept (setDrv f _) DRV_OP_CNT 1) (State.count_regsKept _ DRV_BUSY_CNT cycles)

/-- What DROVER_OP_COMPLETE does when it has walked the parts as far as it may: after the last part the operation ends, unless a close message is due. -/
def afterParts (e : State) (cycles : Nat) : State :=
  match drvReady e with
  | none => e
  | some o => if o.part ≥ drvParts e o ∧ !closesDue e then finishDrv e o cycles else e

/-- With no operation that may act the command does nothing. -/
theorem exec_droverOpComplete_of_held {s : State} (cycles : Nat)
    (h : drvReady s = none ∨ ∃ op, drvReady s = some op ∧ awaitsHost s op = true) :
    exec (.droverOpComplete cycles) s = .next s := by
  change execDroverOpComplete cycles s = .next s
  unfold execDroverOpComplete
  rcases h with hnone | ⟨op, hop, hhost⟩
  · simp only [hnone]
  · simp only [hop, hhost, if_true]

theorem exec_droverOpComplete_of_ready {s : State} {op : DrvOp} (cycles : Nat) (hop : drvReady s = some op) (hhost : awaitsHost s op = false) :
    exec (.droverOpComplete cycles) s = .next (afterParts (walkParts drvEffect (drvParts s op) (s.inOp 2)) cycles) := by
  change execDroverOpComplete cycles s = _
  unfold execDroverOpComplete
  simp only [hop, hhost, Bool.false_eq_true, if_false]
  rfl

theorem afterParts_of_open {e : State} (cycles : Nat)
    (h : drvReady e = none ∨ closesDue e = true ∨ ∃ o, drvReady e = some o ∧ o.part < drvParts e o) : afterParts e cycles = e := by
  unfold afterParts
  split
  · rfl
  · rename_i o ho
    refine if_neg fun ⟨hparts, hclosed⟩ => ?_
    rcases h with hnone | hdue | ⟨o', ho', hlt⟩
    · rw [hnone] at ho
      cases ho
    · rw [hdue] at hclosed
      cases hclosed
    · cases ho.symm.trans ho'
      exact absurd hlt (Nat.not_lt.2 hparts)

theorem afterParts_of_done {e : State} {o : DrvOp} (cycles : Nat) (ho : drvReady e = some o) (hparts : drvParts e o ≤ o.part)
    (hclosed : closesDue e = false) : afterParts e cycles = startWaiting (ended (finishAcq e o.acq) o cycles) := by
  unfold afterParts
  simp only [ho]
  rw [hclosed, if_pos ⟨hparts, rfl⟩, finishDrv_eq]

/-- Settles O18: the command walks the parts, and after the last of them the operation ends and the waiting one starts. -/
theorem droverOperationsComplete : Obligations.DroverOperationsComplete := by
  unfold Obligations.DroverOperationsComplete
  refine fun s cycles => ⟨fun hheld => ⟨s, exec_droverOpComplete_of_held cycles hheld, rfl⟩, fun op hop hhost =>
    ⟨_, exec_droverOpComplete_of_ready cycles hop hhost, _, rfl, fun hopen => afterParts_of_open cycles hopen, fun o ho hparts hclosed => ?_⟩⟩
  generalize walkParts drvEffect (drvParts s op) (s.inOp 2) = e at ho hparts hclosed ⊢
  obtain ⟨f, hf⟩ : ∃ f, f = finishAcq e o.acq := ⟨_, rfl⟩
  obtain ⟨v, hv⟩ : ∃ v, v = ended f o cycles := ⟨_, rfl⟩
  have hframe := ended_frame f o cycles
  obtain ⟨hcount, hbusy⟩ := ended_counted f o cycles
  have hkept := ended_regsKept f o cycles
  rw [← hv] at hframe hcount hbusy hkept
  have hwait : v.drv.wait = f.drv.wait := by rw [hframe]
  have hmem : v.mem = e.mem := by rw [hframe, hf, (finishAcq_slotsOnly e o.acq).frame]
  have ht : afterParts e cycles = startWaiting v := by rw [afterParts_of_done cycles ho hparts hclosed, hv, hf]
  rw [ht]
  exact ⟨f, v, hf, rfl, hframe, hmem, hcount, hbusy, hkept, fun hnone => startWaiting_of_none (hwait.trans hnone),
    fun w hw => startWaiting_run (hwait.trans hw)⟩

end Sys2Proof.DroverOperations
end

section
/-!
PROOFS. The shuffle of 05_routing_and_shuffle.md: cycle walks of a permutation and of its inverse undo each other, and the Feistel network is a permutation.
-/

namespace Sys2Proof.Shuffle

open Sys2Proof.Machine

/-! Cycle walking on a permutation of a range (R167). -/

/-- `f` and `g` permute the numbers below `m`, and each undoes the other. -/
structure Inverses (m : Nat) (f g : Nat → Nat) : Prop where
  fwd_lt : ∀ x, x < m → f x < m
  bwd_lt : ∀ x, x < m → g x < m
  bwd_fwd : ∀ x, x < m → g (f x) = x
  fwd_bwd : ∀ x, x < m → f (g x) = x

theorem Inverses.symm {m : Nat} {f g : Nat → Nat} (h : Inverses m f g) : Inverses m g f :=
  ⟨h.bwd_lt, h.fwd_lt, h.fwd_bwd, h.bwd_fwd⟩

theorem iter_succ (f : Nat → Nat) (k x : Nat) : iter f (k + 1) x = iter f k (f x) := rfl

/-- Some steps and then one more are one step and then as many. -/
theorem iter_succ_last (f : Nat → Nat) (k x : Nat) : iter f (k + 1) x = f (iter f k x) := by
  induction k generalizing x with
  | zero => rfl
  | succ k ih => exact ih (f x)

theorem Inverses.iter_lt {m : Nat} {f g : Nat → Nat} (h : Inverses m f g) {x : Nat} (hx : x < m) (k : Nat) : iter f k x < m := by
  induction k generalizing x with
  | zero => exact hx
  | succ k ih => exact ih (h.fwd_lt x hx)

/-- Going back undoes as many steps as it takes. -/
theorem Inverses.iter_bwd_fwd {m : Nat} {f g : Nat → Nat} (h : Inverses m f g) {x : Nat} (hx : x < m) (i j : Nat) :
    iter g i (iter f (i + j) x) = iter f j x := by
  induction i with
  | zero => rw [Nat.zero_add]; rfl
  | succ i ih => rw [Nat.succ_add, iter_succ_last f, iter_succ g, h.bwd_fwd _ (h.iter_lt hx _), ih]

/-- Of `m + 1` numbers below `m` two are equal. Where the last has no equal, it takes the place of `m` among the others. -/
theorem exists_lt_eq_of_lt (m : Nat) (a : Nat → Nat) (ha : ∀ i, i ≤ m → a i < m) : ∃ i j, i < j ∧ j ≤ m ∧ a i = a j := by
  induction m generalizing a with
  | zero => exact absurd (ha 0 (Nat.le_refl 0)) (Nat.not_lt_zero _)
  | succ m ih =>
    by_cases hlast : ∃ i, i ≤ m ∧ a i = a (m + 1)
    · obtain ⟨i, hi, heq⟩ := hlast
      exact ⟨i, m + 1, Nat.lt_succ_of_le hi, Nat.le_refl _, heq⟩
    · have hne : ∀ i, i ≤ m → a i ≠ a (m + 1) := fun i hi heq => hlast ⟨i, hi, heq⟩
      have hend : a (m + 1) < m + 1 := ha (m + 1) (Nat.le_refl _)
      obtain ⟨i, j, hij, hj, heq⟩ := ih (fun i => if a i = m then a (m + 1) else a i) fun i hi => by
        have hlt := ha i (Nat.le_succ_of_le hi)
        have hother := hne i hi
        split <;> omega
      have hi : i ≤ m := by omega
      have hi' := hne i hi
      have hj' := hne j hj
      refine ⟨i, j, hij, Nat.le_succ_of_le hj, ?_⟩
      split at heq <;> split at heq <;> omega

/-- Every cycle closes within `m` steps: two of the first `m + 1` values agree, and their common steps can be undone. -/
theorem Inverses.exists_period {m : Nat} {f g : Nat → Nat} (h : Inverses m f g) {x : Nat} (hx : x < m) :
    ∃ p, p < m ∧ iter f (p + 1) x = x := by
  obtain ⟨i, j, hij, hj, heq⟩ := exists_lt_eq_of_lt m (fun k => iter f k x) fun k _ => h.iter_lt hx k
  obtain ⟨p, rfl⟩ : ∃ p, j = i + (p + 1) := ⟨j - i - 1, by omega⟩
  refine ⟨p, by omega, ?_⟩
  calc iter f (p + 1) x = iter g i (iter f (i + (p + 1)) x) := (h.iter_bwd_fwd hx i (p + 1)).symm
    _ = iter g i (iter f i x) := congrArg (iter g i) heq.symm
    _ = x := h.iter_bwd_fwd hx i 0

/-- A walk of `f` from `x` comes back below `n` first at `y`, after `k` further steps. -/
structure FirstReturn (f : Nat → Nat) (n k x y : Nat) : Prop where
  arrives : iter f (k + 1) x = y
  below : y < n
  outside : ∀ j, j < k → n ≤ iter f (j + 1) x

/-- A walk that is below `n` after its first step has returned. -/
theorem FirstReturn.here {f : Nat → Nat} {n x : Nat} (hx : f x < n) : FirstReturn f n 0 x (f x) :=
  ⟨rfl, hx, fun j hj => absurd hj (Nat.not_lt_zero j)⟩

/-- A walk that is outside after its first step goes on from there. -/
theorem FirstReturn.further {f : Nat → Nat} {n k x y : Nat} (hx : n ≤ f x) (h : FirstReturn f n k (f x) y) : FirstReturn f n (k + 1) x y :=
  ⟨h.arrives, h.below, fun j hj => match j with
    | 0 => hx
    | j + 1 => h.outside j (Nat.lt_of_succ_lt_succ hj)⟩

/-- A walk that is below `n` at some step returns there first no later. -/
theorem exists_firstReturn_of_lt {f : Nat → Nat} {n : Nat} (p : Nat) {x : Nat} (hp : iter f (p + 1) x < n) :
    ∃ k y, k ≤ p ∧ FirstReturn f n k x y := by
  induction p generalizing x with
  | zero => exact ⟨0, f x, Nat.le_refl 0, .here hp⟩
  | succ p ih =>
    by_cases hx : f x < n
    · exact ⟨0, f x, Nat.zero_le _, .here hx⟩
    · obtain ⟨k, y, hk, hret⟩ := ih hp
      exact ⟨k + 1, y, Nat.succ_le_succ hk, hret.further (Nat.not_lt.1 hx)⟩

/-- The walk that starts one step after `x` ends where it first returns, if the fuel lasts. -/
theorem FirstReturn.walk_eq {f : Nat → Nat} {n k x y : Nat} (h : FirstReturn f n k x y) (fuel c : Nat) (hk : k < fuel) :
    (walk f n fuel (f x) c).1 = y := by
  induction fuel generalizing k x c with
  | zero => exact absurd hk (Nat.not_lt_zero k)
  | succ fuel ih =>
    cases k with
    | zero =>
      have hy : f x = y := h.arrives
      rw [walk, if_pos (hy ▸ h.below), hy]
    | succ k =>
      have hout : n ≤ f x := h.outside 0 (Nat.succ_pos k)
      rw [walk, if_neg (Nat.not_lt.2 hout)]
      exact ih (k := k) ⟨h.arrives, h.below, fun j hj => h.outside (j + 1) (Nat.succ_lt_succ hj)⟩ _ (Nat.lt_of_succ_lt_succ hk)

/-- From a value below `n` every walk of a permutation returns below `n` in fewer than `m` further steps. -/
theorem Inverses.exists_firstReturn {m n : Nat} {f g : Nat → Nat} (h : Inverses m f g) (hnm : n ≤ m) {x : Nat} (hx : x < n) :
    ∃ k y, k < m ∧ FirstReturn f n k x y := by
  obtain ⟨p, hp, hpx⟩ := h.exists_period (Nat.lt_of_lt_of_le hx hnm)
  obtain ⟨k, y, hk, hret⟩ := exists_firstReturn_of_lt (n := n) p (hpx.symm ▸ hx)
  exact ⟨k, y, Nat.lt_of_le_of_lt hk hp, hret⟩

/-- The first return walked backwards passes the same values, all of them outside, and is a first return too. -/
theorem FirstReturn.reverse {m n k x y : Nat} {f g : Nat → Nat} (hfg : Inverses m f g) (hxm : x < m) (hx : x < n)
    (h : FirstReturn f n k x y) : FirstReturn g n k y x := by
  have hback : ∀ i j, i + j = k + 1 → iter g i y = iter f j x := fun i j hij => by
    rw [← h.arrives, ← hij, hfg.iter_bwd_fwd hxm]
  refine ⟨hback (k + 1) 0 rfl, hx, fun j hj => ?_⟩
  rw [hback (j + 1) (k - j - 1 + 1) (by omega)]
  exact h.outside _ (by omega)

/-- Walks of a permutation and of its inverse, from values below `n`, undo each other. -/
theorem Inverses.walk_walk {m n : Nat} {f g : Nat → Nat} (h : Inverses m f g) (hnm : n ≤ m) {x : Nat} (hx : x < n) :
    (walk f n m (f x) 0).1 < n ∧ (walk g n m (g (walk f n m (f x) 0).1) 0).1 = x := by
  obtain ⟨k, y, hk, hret⟩ := h.exists_firstReturn hnm hx
  rw [hret.walk_eq m 0 hk]
  exact ⟨hret.below, (hret.reverse h (Nat.lt_of_lt_of_le hx hnm) hx).walk_eq m 0 hk⟩

/-! The Feistel network (R167). -/

/-- A round of `shufEnc`, and of `shufDec`, on the two halves. -/
def encRound (w : Nat) (k : Nat → Nat) (p : Nat × Nat) (i : Nat) : Nat × Nat := (p.2, p.1 ^^^ (mix (p.2 ^^^ k i) % 2 ^ w))
def decRound (w : Nat) (k : Nat → Nat) (p : Nat × Nat) (i : Nat) : Nat × Nat := (p.2 ^^^ (mix (p.1 ^^^ k i) % 2 ^ w), p.1)

/-- A value cut into its two halves, and two halves put together. -/
def cut (w v : Nat) : Nat × Nat := (v >>> w, v % 2 ^ w)
def join (w : Nat) (p : Nat × Nat) : Nat := p.1 <<< w ||| p.2

/-- Both halves are of `w` bits. -/
def HalvesFit (w : Nat) (p : Nat × Nat) : Prop := p.1 < 2 ^ w ∧ p.2 < 2 ^ w

theorem shufEnc_eq (w : Nat) (k : Nat → Nat) (v : Nat) : shufEnc w k v = join w ([0, 1, 2, 3].foldl (encRound w k) (cut w v)) := rfl
theorem shufDec_eq (w : Nat) (k : Nat → Nat) (v : Nat) : shufDec w k v = join w ([3, 2, 1, 0].foldl (decRound w k) (cut w v)) := rfl

theorem join_eq_add {w : Nat} {p : Nat × Nat} (h : HalvesFit w p) : join w p = 2 ^ w * p.1 + p.2 := by
  rw [join, Nat.shiftLeft_eq, Nat.mul_comm, Nat.two_pow_add_eq_or_of_lt h.2]

theorem join_lt {w : Nat} {p : Nat × Nat} (h : HalvesFit w p) : join w p < 2 ^ (2 * w) := by
  obtain ⟨hhi, hlo⟩ := h
  rw [join_eq_add ⟨hhi, hlo⟩, Nat.two_mul, Nat.pow_add]
  calc 2 ^ w * p.1 + p.2 < 2 ^ w * p.1 + 2 ^ w := by omega
    _ = 2 ^ w * (p.1 + 1) := rfl
    _ ≤ 2 ^ w * 2 ^ w := Nat.mul_le_mul_left _ hhi

theorem cut_join {w : Nat} {p : Nat × Nat} (h : HalvesFit w p) : cut w (join w p) = p := by
  have hpos : 0 < 2 ^ w := Nat.two_pow_pos w
  rw [join_eq_add h, cut, Nat.shiftRight_eq_div_pow, Nat.mul_add_div hpos, Nat.div_eq_of_lt h.2, Nat.mul_add_mod, Nat.mod_eq_of_lt h.2,
    Nat.add_zero]

theorem cut_fits {w v : Nat} (h : v < 2 ^ (2 * w)) : HalvesFit w (cut w v) := by
  rw [Nat.two_mul, Nat.pow_add] at h
  exact ⟨by rw [cut, Nat.shiftRight_eq_div_pow]; exact Nat.div_lt_of_lt_mul h, Nat.mod_lt _ (Nat.two_pow_pos w)⟩

theorem join_cut {w v : Nat} (h : v < 2 ^ (2 * w)) : join w (cut w v) = v := by
  rw [join_eq_add (cut_fits h), cut, Nat.shiftRight_eq_div_pow, Nat.div_add_mod]

theorem encRound_fits {w : Nat} {k : Nat → Nat} {p : Nat × Nat} (h : HalvesFit w p) (i : Nat) : HalvesFit w (encRound w k p i) :=
  ⟨h.2, Nat.xor_lt_two_pow h.1 (Nat.mod_lt _ (Nat.two_pow_pos w))⟩

theorem decRound_fits {w : Nat} {k : Nat → Nat} {p : Nat × Nat} (h : HalvesFit w p) (i : Nat) : HalvesFit w (decRound w k p i) :=
  ⟨Nat.xor_lt_two_pow h.2 (Nat.mod_lt _ (Nat.two_pow_pos w)), h.1⟩

/-- A round takes the same mask off the half on which the other has put it. -/
theorem decRound_encRound (w : Nat) (k : Nat → Nat) (p : Nat × Nat) (i : Nat) : decRound w k (encRound w k p i) i = p := by
  simp only [decRound, encRound, Nat.xor_assoc, Nat.xor_self, Nat.xor_zero]

theorem encRound_decRound (w : Nat) (k : Nat → Nat) (p : Nat × Nat) (i : Nat) : encRound w k (decRound w k p i) i = p := by
  simp only [decRound, encRound, Nat.xor_assoc, Nat.xor_self, Nat.xor_zero]

theorem rounds_fit {w : Nat} {r : Nat × Nat → Nat → Nat × Nat} (hr : ∀ p, HalvesFit w p → ∀ i, HalvesFit w (r p i)) (is : List Nat)
    {p : Nat × Nat} (h : HalvesFit w p) : HalvesFit w (is.foldl r p) := by
  induction is generalizing p with
  | nil => exact h
  | cons i is ih => exact ih (hr p h i)

/-- Rounds undone one by one in the reverse order give the halves back. -/
theorem rounds_undone {r r' : Nat × Nat → Nat → Nat × Nat} (hr : ∀ p i, r' (r p i) i = p) (is : List Nat) (p : Nat × Nat) :
    is.reverse.foldl r' (is.foldl r p) = p := by
  induction is generalizing p with
  | nil => rfl
  | cons i is ih => rw [List.foldl_cons, List.reverse_cons, List.foldl_append, ih]; exact hr p i

theorem shufEnc_shufDec_inverses (w : Nat) (k : Nat → Nat) : Inverses (2 ^ (2 * w)) (shufEnc w k) (shufDec w k) where
  fwd_lt x hx := join_lt (rounds_fit (fun _ h => encRound_fits h) _ (cut_fits hx))
  bwd_lt x hx := join_lt (rounds_fit (fun _ h => decRound_fits h) _ (cut_fits hx))
  bwd_fwd x hx := by
    rw [shufEnc_eq, shufDec_eq, cut_join (rounds_fit (fun _ h => encRound_fits h) _ (cut_fits hx))]
    exact (congrArg (join w) (rounds_undone (decRound_encRound w k) [0, 1, 2, 3] _)).trans (join_cut hx)
  fwd_bwd x hx := by
    rw [shufEnc_eq, shufDec_eq, cut_join (rounds_fit (fun _ h => decRound_fits h) _ (cut_fits hx))]
    exact (congrArg (join w) (rounds_undone (encRound_decRound w k) [3, 2, 1, 0] _)).trans (join_cut hx)

/-- The network is wide enough for all the samples. -/
theorem le_two_pow_shufHalf (n : Nat) : n ≤ 2 ^ (2 * shufHalf n) := by
  have hlog : n - 1 < 2 ^ (Nat.log2 (n - 1) + 1) := Nat.lt_log2_self
  have hwide : Nat.log2 (n - 1) + 1 ≤ 2 * shufHalf n := by unfold shufHalf; omega
  have hpow := Nat.pow_le_pow_right (n := 2) (by decide) hwide
  omega

/-- Settles O47: the network permutes the values of its width, and walks of a permutation and of its inverse undo each other. -/
theorem theShuffleIsAPermutation : Obligations.TheShuffleIsAPermutation := by
  unfold Obligations.TheShuffleIsAPermutation
  intro keys n pass v hv
  by_cases hn : n ≤ 1
  · have hzero : v = 0 := by omega
    simp only [shufPosition, shufSample, if_pos hn, hzero]
    exact ⟨by omega, trivial, trivial⟩
  · have hperm := shufEnc_shufDec_inverses (shufHalf n) (shufKey keys pass)
    have hwide := le_two_pow_shufHalf n
    simp only [shufPosition, shufSample, if_neg hn]
    obtain ⟨hlt, hsample⟩ := hperm.walk_walk hwide hv
    exact ⟨hlt, hsample, (hperm.symm.walk_walk hwide hv).2⟩

end Sys2Proof.Shuffle
end

section
/-!
PROOFS. Arriving data of 05_routing_and_shuffle.md and 10_nemico_link.md: the tiles of a neighbour send, routed rows, closes and sample pieces.
-/

namespace Sys2Proof.ArrivingData

open Sys2Proof.Machine

/-! Tiles from a neighbour (R314). -/

/-- A tile for no descriptor, for one of another class, or beyond its last has no route. -/
theorem takeTile_of_no_route {s : State} {port : Nat} {p : Packet}
    (h : descAt s (bits p.hdr1 0 12) = none
      ∨ ∃ d, descAt s (bits p.hdr1 0 12) = some d ∧ (d.cls ≠ Desc.clsLink ∨ d.tiles ≤ bits p.hdr1 12 32)) :
    takeTile s port p = (some (noRoute s port p.src), s) := by
  unfold takeTile
  rcases h with hnone | ⟨d, hd, hnot⟩
  · simp only [hnone]
  · simp only [hd]
    exact if_pos hnot

section
variable {s u : State} {port e k : Nat} {p : Packet} {d : Desc} {r : NbrRecv} {a : Acq × State}

/-- Tile `k` of `p` is one of the LINK descriptor `e`, which is `d`; `u` is the machine in the receiving operation, `r` that operation, and `a` what it
has after it asked for the tile's slots. -/
structure TileAsked (s : State) (p : Packet) (e k : Nat) (d : Desc) (u : State) (r : NbrRecv) (a : Acq × State) : Prop where
  desc : e = bits p.hdr1 0 12
  tile : k = bits p.hdr1 12 32
  found : descAt s e = some d
  link : d.cls = Desc.clsLink
  within : k < d.tiles
  acting : u = if (FMap.find s.lnk.nbrs e).isSome then s.inOp (2 ^ 30 + e) else s.newOp (2 ^ 30 + e)
  recv : r = (FMap.find s.lnk.nbrs e).getD { no := u.opCount, tiles := [], acq := Acq.none 7, close := false }
  asked : a = if r.acq.needs = [] then acquire u r.acq (moveUses u d k true) else (r.acq, u)

/-- The tile written through its descriptor. -/
def tileWritten (a : Acq × State) (d : Desc) (e k : Nat) (r : NbrRecv) (p : Packet) : State :=
  writeMove a.2 d (d.chan .normal (channel (2 ^ 30 + e) r.no 0)) k 0 (p.data.take d.unit)

/-- The receiving operation with the tile. -/
def withTile (r : NbrRecv) (k : Nat) (q : Acq) (close : Bool) : NbrRecv :=
  { no := r.no, tiles := if r.tiles.contains k then r.tiles else k :: r.tiles, acq := q, close := r.close || close }

/-- The receiving operations of a machine with one of them put in, or taken out. -/
def putNbr (s : State) (e : Nat) (r : NbrRecv) : State := { s with lnk := { s.lnk with nbrs := FMap.put s.lnk.nbrs e r } }
def dropNbr (s : State) (e : Nat) : State := { s with lnk := { s.lnk with nbrs := FMap.del s.lnk.nbrs e } }

/-- A send with its last tile ends, and closes the slots of its descriptor when it asks for that. -/
def sendEnded (v : State) (d : Desc) (e : Nat) (close : Bool) : State :=
  if close then closeSlots (dropNbr v e) 7 d.tag (d.slotsTouched (tagEntry (dropNbr v e) d.tag)) else dropNbr v e

theorem takeTile_of_asked (h : TileAsked s p e k d u r a) :
    takeTile s port p =
      if a.1.needs ≠ [] then (none, putNbr a.2 e { r with acq := a.1 })
      else if (withTile r k a.1 p.close).tiles.length < d.tiles then
        (some (putNbr (tileWritten a d e k r p) e (withTile r k a.1 p.close)), tileWritten a d e k r p)
      else (some (sendEnded (tileWritten a d e k r p) d e (r.close || p.close)), dropNbr (tileWritten a d e k r p) e) := by
  obtain ⟨he, hk, hd, hlink, hwithin, hu, hr, ha⟩ := h
  have hlnk : u.lnk = s.lnk := by rw [hu]; split <;> rfl
  have hadmitted : ¬(d.cls ≠ Desc.clsLink ∨ bits p.hdr1 12 32 ≥ d.tiles) := by
    rw [← hk]
    exact not_or.2 ⟨not_not_intro hlink, Nat.not_le.2 hwithin⟩
  rw [he] at hd hu hr ⊢
  unfold takeTile
  simp only [hd, if_neg hadmitted]
  rw [← hu, hlnk, ← hr, ← hk, ← ha]
  rfl

end

/-! The commands (R158, R159, R209, R314). -/

section
variable {s : State} {n : Fin 16}

theorem exec_neighbour_of_none (h : peekRx s n (isType 7) = none) : exec (.neighbour n) s = .next s := by
  change execNeighbour n s = _
  simp only [execNeighbour, h]

theorem exec_routedRow_of_none (h : peekRx s n (isType 8) = none) : exec (.routedRow n) s = .next s := by
  change execRoutedRow n s = _
  simp only [execRoutedRow, h]

theorem exec_routeClose_of_none (h : peekRx s n (isType 9) = none) : exec (.routeClose n) s = .next s := by
  change execRouteClose n s = _
  simp only [execRouteClose, h]

theorem exec_sample_of_none (h : peekRx s n (isType 10) = none) : exec (.sample n) s = .next s := by
  change execSample n s = _
  simp only [execSample, h]

variable {x : RxPkt}

/-- A tile that is taken leaves its buffer. -/
theorem exec_neighbour_of_taken {t v : State} (h : peekRx s n (isType 7) = some x) (ht : takeTile s n x.pkt = (some t, v)) :
    exec (.neighbour n) s = .next (takeRx t n (isType 7)) := by
  change execNeighbour n s = _
  simp only [execNeighbour, h, ht]

/-- A tile that must wait stays in its buffer. -/
theorem exec_neighbour_of_stalled {t : State} (h : peekRx s n (isType 7) = some x) (ht : takeTile s n x.pkt = (none, t)) :
    exec (.neighbour n) s = .next t := by
  change execNeighbour n s = _
  simp only [execNeighbour, h, ht]

theorem exec_routedRow_of_some (h : peekRx s n (isType 8) = some x) :
    exec (.routedRow n) s = .next (acceptRow (takeRx s n (isType 8)) x.pkt.src (bits x.pkt.hdr1 0 12) (bits x.pkt.hdr1 12 28)
      (bits x.pkt.hdr1 40 24) x.pkt.data) := by
  change execRoutedRow n s = _
  simp only [execRoutedRow, h]

theorem exec_routeClose_of_some (h : peekRx s n (isType 9) = some x) :
    exec (.routeClose n) s = .next (acceptClose (takeRx s n (isType 9)) (bits x.pkt.hdr1 0 12)) := by
  change execRouteClose n s = _
  simp only [execRouteClose, h]

theorem exec_sample_of_some (h : peekRx s n (isType 10) = some x) :
    exec (.sample n) s = .next (if pieceWaits s (bits x.pkt.hdr1 0 12) (16 * bits x.pkt.hdr1 12 36) then s
      else takeSample (takeRx s n (isType 10)) (bits x.pkt.hdr1 0 12) (16 * bits x.pkt.hdr1 12 36) x.pkt.last x.pkt.data) := by
  change execSample n s = _
  simp only [execSample, h]

/-- What the command does with a tile of a LINK descriptor that has it. -/
theorem answers_neighbour_of_asked {u : State} {e k : Nat} {d : Desc} {r : NbrRecv} {a : Acq × State} (hx : peekRx s n (isType 7) = some x)
    (h : TileAsked s x.pkt e k d u r a) : Answers (.neighbour n) s fun t =>
      (a.1.needs ≠ [] → t = putNbr a.2 e { r with acq := a.1 })
      ∧ (a.1.needs = [] → ∀ v o, v = tileWritten a d e k r x.pkt → o = withTile r k a.1 x.pkt.close →
        (o.tiles.length < d.tiles → t = takeRx (putNbr v e o) n (isType 7))
        ∧ (d.tiles ≤ o.tiles.length → t = takeRx (sendEnded v d e o.close) n (isType 7))) := by
  have htile := takeTile_of_asked (port := n) h
  by_cases hneeds : a.1.needs = []
  · rw [if_neg (not_not_intro hneeds)] at htile
    by_cases hlast : (withTile r k a.1 x.pkt.close).tiles.length < d.tiles
    · rw [if_pos hlast] at htile
      refine ⟨_, exec_neighbour_of_taken hx htile, fun hstalled => absurd hneeds hstalled, fun _ v o hv ho => ?_⟩
      subst hv ho
      exact ⟨fun _ => rfl, fun hle => absurd hlast (Nat.not_lt.2 hle)⟩
    · rw [if_neg hlast] at htile
      refine ⟨_, exec_neighbour_of_taken hx htile, fun hstalled => absurd hneeds hstalled, fun _ v o hv ho => ?_⟩
      subst hv ho
      exact ⟨fun hlt => absurd hlt hlast, fun _ => rfl⟩
  · rw [if_pos hneeds] at htile
    exact ⟨_, exec_neighbour_of_stalled hx htile, fun _ => rfl, fun hall => absurd hall hneeds⟩

end

/-- Settles O32: each command takes what is at the head of its channel to where the header says. -/
theorem arrivingDataTakesEffect : Obligations.ArrivingDataTakesEffect := by
  unfold Obligations.ArrivingDataTakesEffect
  refine fun s n => ⟨fun h => ⟨s, exec_neighbour_of_none h, rfl⟩, fun h => ⟨s, exec_routedRow_of_none h, rfl⟩,
    fun h => ⟨s, exec_routeClose_of_none h, rfl⟩, fun h => ⟨s, exec_sample_of_none h, rfl⟩, ?_⟩
  rintro x h rfl
  refine ⟨fun e k hx he hk => ⟨fun hno => ?_, fun d u r a hd hlink hwithin hu hr ha => ?_⟩,
    fun hx => ⟨_, exec_routedRow_of_some hx, rfl⟩, fun hx => ⟨_, exec_routeClose_of_some hx, rfl⟩, fun hx => ?_⟩
  · rw [he, hk] at hno
    exact ⟨_, exec_neighbour_of_taken hx (takeTile_of_no_route hno), rfl⟩
  · obtain ⟨t, ht, hstalled, htaken⟩ := answers_neighbour_of_asked hx ⟨he, hk, hd, hlink, hwithin, hu, hr, ha⟩
    refine ⟨t, ht, hstalled, fun hall v tiles o hv htiles ho => ?_⟩
    subst htiles ho
    obtain ⟨hmore, hlast⟩ := htaken hall v _ hv rfl
    exact ⟨hmore, fun hle w hw => hw ▸ hlast hle⟩
  · refine ⟨_, exec_sample_of_some hx, fun tag off u v htag hoff => ?_⟩
    rw [← htag, ← hoff]
    exact ⟨fun hwaits => if_pos hwaits, fun hplaced hu hv => by rw [if_neg (Bool.not_eq_true _ ▸ hplaced), hv, hu]; rfl⟩

end Sys2Proof.ArrivingData
end

section
/-!
PROOFS. Host-allocated dispatch of 05_routing_and_shuffle.md: the demand, the answer, and the wait that runs out.
-/

namespace Sys2Proof.HostAllocation

open Sys2Proof.Machine Sys2Proof.Machine.Reg Sys2Proof.ScalarsAndTallies Sys2Proof.DroverOperations

/-! Host-allocated dispatch (R165, R166). -/

theorem acquire_slotsOnly (s : State) (a : Acq) (us : List SlotUse) : SlotsOnly s (acquire s a us).2 := by
  unfold acquire
  dsimp only
  split
  · exact askSlots_slotsOnly s a us
  · exact (askSlots_slotsOnly s a us).trans (.foldl _ (fun t _ => foreign_slotsOnly t) _ _)

theorem opDesc_of_slotsOnly {s t : State} (h : SlotsOnly s t) (n : Nat) : opDesc t n = opDesc s n := by
  rw [h.frame]; rfl

/-- A SELECT_SEND that may act under host allocation asks for the slots of its scores, and posts its demand once it has them. -/
theorem routeBegin_of_hostAllocates {s : State} {op : DrvOp} {tag alloc : Nat} {a : Acq × State} (hrun : s.drv.run = some op)
    (hneeds : op.acq.needs = []) (hhost : hostAllocates s op = true) (hposted : s.drv.posted = none) (halloc : s.drv.alloc = none)
    (htags : allocTags s = some (tag, alloc)) (ha : a = acquire s op.acq (descUses s (opDesc s op.a) false)) :
    routeBegin s = if a.1.needs ≠ [] then setRun a.2 { op with acq := a.1 } else postDemand a.2 { op with acq := a.1 } tag := by
  have hready : drvReady s = some op := by rw [drvReady, hrun, Option.bind_some, if_pos hneeds]
  have hmay : ¬((!hostAllocates s op) = true ∨ s.drv.posted.isSome = true ∨ s.drv.alloc.isSome = true) := by
    simp [hhost, hposted, halloc]
  unfold routeBegin
  simp only [hready, if_neg hmay, htags, ha]

/-- The demand is posted after the next sequence number is set, the scores are read and the table is written (R165). -/
theorem postDemand_eq {s u r v : State} {op : DrvOp} {tag n : Nat} {d : Desc} {x : FMap (List Val) × State} (hd : d = opDesc s op.a)
    (hn : n = (s.get DRV_ROUTE_STATUS.SEQ + 1) % 2 ^ 16) (hu : u = (s.inOp 2).set DRV_ROUTE_STATUS.SEQ n)
    (hx : x = readTiles op.func d (op.chan d op.a) ((List.range d.tiles).map d.posOf) u)
    (hr : r = setRun x.2 { op with got := { tiles := x.1, sectors := [] } })
    (hv : v = tagWrite r (rawChan r tag) 0 ((demand op d x.1).flatMap fun k => toBytes 8 (k % 2 ^ 32 + n * 2 ^ 32))) :
    postDemand s op tag = setDrv v { v.drv with posted := some v.tick } := by
  subst hd hn hu hx hr hv
  rfl

theorem allocGo_of_posted {s : State} {seq : Nat} (hposted : s.drv.posted.isSome = true) (halloc : s.drv.alloc = none)
    (hseq : seq % 2 ^ 16 = s.get DRV_ROUTE_STATUS.SEQ) : allocGo s seq = noteFall (setDrv s { s.drv with alloc := some true }) :=
  if_pos ⟨hposted, by rw [halloc]; rfl, hseq⟩

theorem allocGo_of_stale {s : State} {seq : Nat} (h : s.drv.posted = none ∨ s.drv.alloc ≠ none ∨ seq % 2 ^ 16 ≠ s.get DRV_ROUTE_STATUS.SEQ) :
    allocGo s seq = s.count DRV_ROUTE_ALLOC_STALE_CNT 1 := by
  refine if_neg fun ⟨hposted, halloc, hseq⟩ => ?_
  rcases h with hnone | hsome | hne
  · rw [hnone] at hposted
    cases hposted
  · exact hsome (Option.isNone_iff_eq_none.1 halloc)
  · exact hne hseq

/-- The wait for an allocation runs out (R165). -/
theorem exec_routeAllocTimeout_of_due {s : State} {tick : Nat} (hposted : s.drv.posted = some tick) (halloc : s.drv.alloc = none)
    (hdue : tick + max 1 (s.held DRV_ROUTE_CFG.ALLOC_WAIT) * 1024 ≤ s.tick) : exec .routeAllocTimeout s = .next (noteFall (allocMissing s)) := by
  change execRouteAllocTimeout s = _
  unfold execRouteAllocTimeout
  simp only [hposted]
  rw [if_pos ⟨by rw [halloc]; rfl, hdue⟩]

theorem exec_routeAllocTimeout_of_not_due {s : State} (h : ∀ tick, s.drv.posted = some tick → s.drv.alloc = none →
      s.tick < tick + max 1 (s.held DRV_ROUTE_CFG.ALLOC_WAIT) * 1024) : exec .routeAllocTimeout s = .next s := by
  change execRouteAllocTimeout s = _
  unfold execRouteAllocTimeout
  split
  · rename_i tick hposted
    rw [if_neg fun ⟨halloc, hdue⟩ => Nat.not_lt.2 hdue (h tick hposted (Option.isNone_iff_eq_none.1 halloc))]
  · rfl

theorem allocMissing_frame (s : State) :
    allocMissing s = { s with
      regs := (allocMissing s).regs, logIn := (allocMissing s).logIn, free := (allocMissing s).free
      drv := { s.drv with alloc := some false } } := by
  unfold allocMissing
  rw [log_frame, State.count_frame]
  rfl

/-- A missing allocation is counted, whatever becomes of its log entry. -/
theorem allocMissing_counted (s : State) : Counted DRV_ROUTE_ALLOC_TIMEOUT_CNT 1 s (allocMissing s) :=
  (log_regsKept (s.count DRV_ROUTE_ALLOC_TIMEOUT_CNT 1) _ DRV_ROUTE_ALLOC_TIMEOUT_CNT (by decide)).trans
    (State.count_counted s DRV_ROUTE_ALLOC_TIMEOUT_CNT 1 (by decide))

theorem allocMissing_logged {s : State} (h : s.logIn.queue.length < 64) :
    (allocMissing s).logIn.queue.length = s.logIn.queue.length + 1 := by
  have hlog : (s.count DRV_ROUTE_ALLOC_TIMEOUT_CNT 1).logIn = s.logIn := State.count_logIn s _ 1
  have hentry := fun e => (State.log_regs (s.count DRV_ROUTE_ALLOC_TIMEOUT_CNT 1) e (by rw [hlog]; exact h)).2
  rw [hlog] at hentry
  exact hentry _

/-- Settles O20: what a SELECT_SEND does as it may act, and what the answer to its demand and the end of its wait each do. -/
theorem hostAllocationTakesEffect : Obligations.HostAllocationTakesEffect := by
  unfold Obligations.HostAllocationTakesEffect
  refine fun s => ⟨fun op tag alloc a hrun hneeds hhost hposted halloc htags ha => ?_, fun tick seq hposted halloc hseq => ?_,
    fun seq hstale => ?_, fun tick hposted halloc hdue => ?_, fun hwait => ?_⟩
  · have hbegin := routeBegin_of_hostAllocates hrun hneeds hhost hposted halloc htags ha
    have hslots : SlotsOnly s a.2 := ha ▸ acquire_slotsOnly s _ _
    refine ⟨fun hstalled => hbegin.trans (if_pos hstalled), fun hall n d u r v x hn hd hu hx hr hv => ⟨?_, ?_⟩⟩
    · rw [hbegin, if_neg (not_not_intro hall)]
      refine postDemand_eq (hd.trans (opDesc_of_slotsOnly hslots _).symm) ?_ hu hx hr hv
      rw [hslots.regs _ (by decide), hn]
    · rw [hu, State.get_set_self, hn]
      exact Nat.mod_mod _ _
  · have hlow : seq.toNat % 2 ^ 16 = s.get DRV_ROUTE_STATUS.SEQ := (Nat.mod_eq_of_lt seq.isLt).trans hseq
    refine ⟨allocGo s seq.toNat, rfl, ?_⟩
    rw [allocGo_of_posted (by rw [hposted]; rfl) halloc hlow]
    exact ⟨rfl, Bool.and_false _⟩
  · refine ⟨allocGo s seq.toNat, rfl, ?_⟩
    rw [allocGo_of_stale (by rwa [Nat.mod_eq_of_lt seq.isLt])]
    exact ⟨State.count_frame s _ 1, State.count_regsKept s _ 1, State.count_counted s _ 1 (by decide)⟩
  · refine ⟨_, exec_routeAllocTimeout_of_due hposted halloc hdue, ?_, allocMissing_counted s, allocMissing_logged⟩
    rw [allocMissing_frame]
    rfl
  · exact ⟨s, exec_routeAllocTimeout_of_not_due hwait, rfl⟩

end Sys2Proof.HostAllocation
end

section
/-!
PROOFS. The descriptor commits of 06_descriptors_and_layouts.md: what a commit stages, and what becomes of it when its validation ends.
-/

namespace Sys2Proof.DescriptorCommits

open Sys2Proof.Machine Sys2Proof.Machine.Reg Sys2Proof.ScalarsAndTallies Sys2Proof.DroverOperations

/-! DESC_COMMIT (R195). -/

theorem descCommit_of_busy {s : State} (n c : Nat) (h : s.commitNow.isSome = true) : descCommit s n c = s := if_pos (.inr h)

theorem descCommit_of_free {s : State} {n : Nat} (hn : n < 4096) (h : s.commitNow = none) :
    descCommit s n 1 = { (s.set SEQ_DESC_RESULT.NUMBER n).set SEQ_DESC_RESULT.PENDING 0 with
      commitNow := some (n, (List.range 8).map (fun i => s.get (SEQ_DESC_DATA.WORD i))) } := by
  have hmay : ¬(1 = 0 ∨ s.commitNow.isSome = true) := by simp [h]
  rw [descCommit, if_neg hmay, Nat.mod_eq_of_lt hn]

/-- A commit shows its number in SEQ_DESC_RESULT and no held commit, and sets nothing else (Table 6.12). -/
theorem descCommit_of_free_regs {s : State} {n : Nat} (hn : n < 4096) (h : s.commitNow = none) :
    (descCommit s n 1).get SEQ_DESC_RESULT.NUMBER = n ∧ (descCommit s n 1).get SEQ_DESC_RESULT.PENDING = 0
      ∧ RegsKept [SEQ_DESC_RESULT.NUMBER, SEQ_DESC_RESULT.PENDING] s (descCommit s n 1) := by
  rw [descCommit_of_free hn h]
  refine ⟨?_, State.get_set_self _ SEQ_DESC_RESULT.PENDING 0,
    RegsKept.trans (set_regsKept s SEQ_DESC_RESULT.NUMBER n) (set_regsKept _ SEQ_DESC_RESULT.PENDING 0)⟩
  calc ((s.set SEQ_DESC_RESULT.NUMBER n).set SEQ_DESC_RESULT.PENDING 0).get SEQ_DESC_RESULT.NUMBER
      = (s.set SEQ_DESC_RESULT.NUMBER n).get SEQ_DESC_RESULT.NUMBER := State.get_set_of_ne _ 0 (by decide)
    _ = n := by rw [State.get_set_self]; exact Nat.mod_eq_of_lt hn

/-! DESC_VALIDATE_DONE (R195, R196). -/

/-- A field that does not begin a register holds no word of the tag table. -/
theorem tagEntry_set (s : State) {f : Field} (v : Nat) (hf : f.lsb % 64 ≠ 0) : tagEntry (s.set f v) = tagEntry s := by
  have hword : ∀ n, (s.set f v).get (TAG_TABLE.WORD n) = s.get (TAG_TABLE.WORD n) := fun n =>
    State.get_set_of_ne s v (by simp only [Field.key, TAG_TABLE.WORD]; omega)
  funext t
  simp only [tagEntry, hword]

/-- The held commits that a commit for number `n` leaves in place. -/
def otherCommits (s : State) (n : Nat) : List (Nat × List Nat) := s.commits.filter (fun c => c.1 != n)

/-- The code that the validation of words `ws` for number `n` ends with: 15 where a valid descriptor has to be held and 64 others are (Table 6.8). -/
def validationCode (s : State) (n : Nat) (ws : List Nat) : Nat :=
  if (Desc.ofWords ws).refusal (tagEntry s) = 0 ∧ s.step.running = true ∧ 64 ≤ (otherCommits s n).length then 15
  else (Desc.ofWords ws).refusal (tagEntry s)

/-- A state whose validation has ended with a code, before anything is installed, held or refused. -/
def judged (s : State) (code : Nat) : State :=
  (State.set { s with commitNow := none } SEQ_DESC_RESULT.VALID 1).set SEQ_DESC_RESULT.CODE code

theorem judged_regsKept (s : State) (code : Nat) : RegsKept [SEQ_DESC_RESULT.VALID, SEQ_DESC_RESULT.CODE] s (judged s code) :=
  RegsKept.trans (s := s) (set_regsKept { s with commitNow := none } SEQ_DESC_RESULT.VALID 1) (set_regsKept _ SEQ_DESC_RESULT.CODE code)

theorem judged_valid (s : State) (code : Nat) : (judged s code).get SEQ_DESC_RESULT.VALID = 1 :=
  (State.get_set_of_ne _ code (by decide)).trans (State.get_set_self _ SEQ_DESC_RESULT.VALID 1)

theorem judged_code (s : State) (code : Nat) : (judged s code).get SEQ_DESC_RESULT.CODE = code % 16 :=
  State.get_set_self _ SEQ_DESC_RESULT.CODE code

/-- A refusal changes registers and the log alone. -/
theorem descRefused_frame (s : State) :
    descRefused s = { s with regs := (descRefused s).regs, logIn := (descRefused s).logIn, free := (descRefused s).free } := by
  unfold descRefused
  rw [log_frame, State.count_frame]

theorem descRefused_regsKept (s : State) :
    RegsKept (counterFields SEQ_DESC_REFUSED_CNT ++ (counterFields FLT_LOG_DROP_CNT ++ [FLT_FLAGS.LOG_DROP])) s (descRefused s) :=
  (State.count_regsKept s SEQ_DESC_REFUSED_CNT 1).trans (log_regsKept _ _)

/-- A refusal is counted, whatever becomes of its log entry. -/
theorem descRefused_counted (s : State) : Counted SEQ_DESC_REFUSED_CNT 1 s (descRefused s) :=
  (log_regsKept _ _ SEQ_DESC_REFUSED_CNT (by decide)).trans (State.count_counted s SEQ_DESC_REFUSED_CNT 1 (by decide))

theorem validationCode_of_held_full {s : State} {n : Nat} {ws : List Nat} (hcode : (Desc.ofWords ws).refusal (tagEntry s) = 0)
    (hrunning : s.step.running = true) (hfull : 64 ≤ (otherCommits s n).length) : validationCode s n ws = 15 :=
  if_pos ⟨hcode, hrunning, hfull⟩

theorem validationCode_of_not_full {s : State} {n : Nat} {ws : List Nat}
    (h : (Desc.ofWords ws).refusal (tagEntry s) ≠ 0 ∨ s.step.running = false ∨ (otherCommits s n).length < 64) :
    validationCode s n ws = (Desc.ofWords ws).refusal (tagEntry s) := by
  refine if_neg fun ⟨hcode, hrunning, hfull⟩ => ?_
  rcases h with hinvalid | hidle | hroom
  · exact hinvalid hcode
  · rw [hidle] at hrunning
    cases hrunning
  · exact absurd hroom (Nat.not_lt.2 hfull)

section
variable {s : State} {n : Nat} {ws : List Nat} (hnow : s.commitNow = some (n, ws))
include hnow

theorem descValidated_of_some : descValidated s =
    if validationCode s n ws ≠ 0 then descRefused (judged s (validationCode s n ws))
    else if s.step.running then
      { (judged s (validationCode s n ws)).set SEQ_DESC_RESULT.PENDING 1 with commits := otherCommits s n ++ [(n, ws)] }
    else installDescs (judged s (validationCode s n ws)) [(n, ws)] := by
  have htags : tagEntry (State.set { s with commitNow := none } SEQ_DESC_RESULT.VALID 1) = tagEntry s := tagEntry_set _ 1 (by decide)
  unfold descValidated
  simp only [hnow, htags]
  rfl

theorem descValidated_of_refused (h : validationCode s n ws ≠ 0) :
    descValidated s = descRefused (judged s (validationCode s n ws)) := by
  rw [descValidated_of_some hnow, if_pos h]

theorem descValidated_of_held (h : validationCode s n ws = 0) (hrunning : s.step.running = true) :
    descValidated s = { (judged s 0).set SEQ_DESC_RESULT.PENDING 1 with commits := otherCommits s n ++ [(n, ws)] } := by
  rw [descValidated_of_some hnow, if_neg (not_not_intro h), if_pos hrunning, h]

theorem descValidated_of_installed (h : validationCode s n ws = 0) (hidle : s.step.running = false) :
    descValidated s = { judged s 0 with descs := FMap.put s.descs n ws } := by
  rw [descValidated_of_some hnow, if_neg (not_not_intro h), if_neg (by simp [hidle]), h]
  rfl

/-- However a validation ends, SEQ_DESC_RESULT shows that it has and with which code (Table 6.12), and another commit may be validated. -/
theorem descValidated_shows : (descValidated s).commitNow = none ∧ (descValidated s).get SEQ_DESC_RESULT.VALID = 1
    ∧ (descValidated s).get SEQ_DESC_RESULT.CODE = validationCode s n ws % 16 := by
  by_cases hcode : validationCode s n ws = 0
  · cases hrunning : s.step.running
    · rw [descValidated_of_installed hnow hcode hrunning, hcode]
      exact ⟨rfl, judged_valid s 0, judged_code s 0⟩
    · rw [descValidated_of_held hnow hcode hrunning, hcode]
      have hkept := set_regsKept (judged s 0) SEQ_DESC_RESULT.PENDING 1
      exact ⟨rfl, (hkept _ (by decide)).trans (judged_valid s 0), (hkept _ (by decide)).trans (judged_code s 0)⟩
  · rw [descValidated_of_refused hnow hcode]
    have hkept := descRefused_regsKept (judged s (validationCode s n ws))
    refine ⟨?_, (hkept _ (by decide)).trans (judged_valid s _), (hkept _ (by decide)).trans (judged_code s _)⟩
    rw [descRefused_frame]
    rfl

/-- A refusal leaves the store and the held commits as they were, and is counted (R196). -/
theorem descValidated_refusal (h : validationCode s n ws ≠ 0) : (descValidated s).descs = s.descs ∧ (descValidated s).commits = s.commits
    ∧ Counted SEQ_DESC_REFUSED_CNT 1 s (descValidated s) := by
  rw [descValidated_of_refused hnow h]
  have hcount := descRefused_counted (judged s (validationCode s n ws))
  rw [Counted, judged_regsKept s _ SEQ_DESC_REFUSED_CNT (by decide)] at hcount
  refine ⟨?_, ?_, hcount⟩ <;> rw [descRefused_frame] <;> rfl

end

/-- Settles O21: a commit takes the staged words, and the code of their validation decides whether they are installed, held or refused. -/
theorem descriptorCommitsTakeEffect : Obligations.DescriptorCommitsTakeEffect := by
  unfold Obligations.DescriptorCommitsTakeEffect
  refine fun s => ⟨fun n hfree => ⟨descCommit s n.toNat 1, rfl, ?_, descCommit_of_free_regs n.isLt hfree⟩,
    fun n hbusy => ⟨descCommit s n.toNat 1, rfl, descCommit_of_busy _ _ hbusy⟩, fun n ws hnow => ?_⟩
  · rw [descCommit_of_free n.isLt hfree]
    rfl
  · obtain ⟨hnone, hvalid, hshown⟩ := descValidated_shows hnow
    refine ⟨descValidated s, rfl, hnone, hvalid, fun code hcode hlt => ?_⟩
    subst hcode
    refine ⟨fun hzero hidle => ?_, fun hzero hrunning hroom => ?_, fun hzero hrunning hfull => ?_, fun hinvalid => ?_⟩
    · have hv := (validationCode_of_not_full (n := n) (.inr (.inl hidle))).trans hzero
      refine ⟨?_, by rw [hshown, hv]⟩
      rw [descValidated_of_installed hnow hv hidle]
      rfl
    · have hv := (validationCode_of_not_full (.inr (.inr hroom))).trans hzero
      refine ⟨?_, by rw [hshown, hv], ?_⟩ <;> rw [descValidated_of_held hnow hv hrunning]
      · rfl
      · exact State.get_set_self _ SEQ_DESC_RESULT.PENDING 1
    · have hv := validationCode_of_held_full hzero hrunning hfull
      obtain ⟨hdescs, hcommits, hcount⟩ := descValidated_refusal hnow (by rw [hv]; decide)
      exact ⟨hdescs, hcommits, by rw [hshown, hv], hcount⟩
    · have hv := validationCode_of_not_full (n := n) (.inl hinvalid)
      obtain ⟨hdescs, hcommits, hcount⟩ := descValidated_refusal hnow (by rwa [hv])
      exact ⟨hdescs, hcommits, by rw [hshown, hv, Nat.mod_eq_of_lt (Nat.lt_succ_of_lt hlt)], hcount⟩

end Sys2Proof.DescriptorCommits
end

section
/-!
PROOFS. The accesses to tags of 06_descriptors_and_layouts.md: what becomes of one that its tag does not allow, and what a write leaves in a buffer.
-/

namespace Sys2Proof.TagAccesses

open Sys2Proof.Machine Sys2Proof.Machine.Reg Sys2Proof.DroverOperations

/-! Accesses that fail their check (R191, R192). -/

section
variable {s : State} {c : Chan} {off : Int} (hprot : c.prot = false)
include hprot

theorem tagRead_of_denied {n : Nat} (h : (tagEntry s c.tag).allows false off n = false) :
    tagRead s c off n = (List.replicate n 0, protFail s) := if_neg (by simp [hprot, h])

theorem tagWrite_of_denied {bs : List Byte} (h : (tagEntry s c.tag).allows true off bs.length = false) :
    tagWrite s c off bs = protFail s := if_neg (by simp [hprot, h])

end

/-- A failed check is counted, whether or not its operation has logged one already. -/
theorem protFail_counted (s : State) : Counted TAG_PROT_ERR_CNT 1 s (protFail s) :=
  ((logOnce_slotsOnly _ _ _).regs TAG_PROT_ERR_CNT (by decide)).trans (State.count_counted s TAG_PROT_ERR_CNT 1 (by decide))

/-- A failed check leaves the memories, the stacks' cache and the controllers as they were. -/
theorem protFail_mem_memory (s : State) : (protFail s).mem = s.mem ∧ (protFail s).memory = s.memory := by
  unfold protFail
  rw [(logOnce_slotsOnly _ _ _).frame]
  exact ⟨State.count_mem s _ 1, State.count_memory s _ 1⟩

/-! Bytes of a tag outside the stacks (R201). -/

/-- A write of bytes of a tag changes no byte elsewhere. -/
theorem cellAt_sramWrite_of_ne (e : TagEntry) (a : Nat) (bs : List Byte) : ∀ (m : List Host.Cell) (b : Nat),
    (∀ i, i < bs.length → a ≠ e.addr (b + i)) → cellAt (sramWrite m e b bs) a = cellAt m a := by
  induction bs with
  | nil => exact fun m b _ => rfl
  | cons x xs ih =>
    intro m b h
    have hrest : ∀ i, i < xs.length → a ≠ e.addr (b + 1 + i) := fun i hi => by
      rw [Nat.add_assoc, Nat.add_comm 1]
      exact h (i + 1) (Nat.succ_lt_succ hi)
    exact (ih _ _ hrest).trans (cellAt_putCell_of_ne m x (h 0 (Nat.succ_pos _)))

/-- Where the bytes of a tag lie apart, a read delivers what was written. -/
theorem sramRead_sramWrite {e : TagEntry} (hinj : Function.Injective e.addr) (bs : List Byte) : ∀ (m : List Host.Cell) (b : Nat),
    sramRead (sramWrite m e b bs) e b bs.length = bs := by
  induction bs with
  | nil => exact fun m b => rfl
  | cons x xs ih =>
    intro m b
    have hlater : ∀ i, i < xs.length → e.addr b ≠ e.addr (b + 1 + i) := fun i _ h => by
      have := hinj h
      omega
    have hhead : cellAt (sramWrite m e b (x :: xs)) (e.addr b) = x :=
      (cellAt_sramWrite_of_ne e _ xs _ _ hlater).trans (cellAt_putCell_self m _ x)
    exact congr (congrArg List.cons hhead) (ih _ (b + 1))

/-- The bytes of an accumulator-buffer tag follow one another (R201). -/
theorem addr_injective_of_accBuffer {e : TagEntry} (h : e.place = 2) : Function.Injective e.addr := by
  intro b b' hb
  simp only [TagEntry.addr, h] at hb
  omega

/-! Accesses that are served (R191). -/

/-- A tag that may be written at a place may be read there if it may be read at all. -/
theorem allows_read_of_allows_write {e : TagEntry} {off : Int} {n : Nat} (h : e.allows true off n = true) (hrd : e.rd = true) :
    e.allows false off n = true := by
  simp only [TagEntry.allows, Bool.and_eq_true] at h ⊢
  obtain ⟨⟨⟨hvalid, -⟩, hlow⟩, hhigh⟩ := h
  exact ⟨⟨⟨hvalid, hrd⟩, hlow⟩, hhigh⟩

section
variable {s : State} {c : Chan} {off : Nat} (hplace : (tagEntry s c.tag).place = 2) (hquiet : s.upsets = [])
include hplace hquiet

theorem tagRead_of_allowed {n : Nat} (h : (tagEntry s c.tag).allows false off n = true) :
    (tagRead s c off n).1 = sramRead s.mem (tagEntry s c.tag) off n := by
  have hplace' : ¬ (tagEntry s c.tag).place = 1 := by rw [hplace]; decide
  simp only [tagRead, h, Bool.or_true, Int.natCast_nonneg, decide_true, Bool.and_self, if_true, if_neg hplace', Int.toNat_natCast,
    meetWords, if_pos hquiet]

theorem tagWrite_of_allowed {bs : List Byte} (h : (tagEntry s c.tag).allows true off bs.length = true) :
    tagWrite s c off bs = { s with mem := sramWrite s.mem (tagEntry s c.tag) off bs } := by
  have hplace' : ¬ (tagEntry s c.tag).place = 1 := by rw [hplace]; decide
  simp only [tagWrite, h, Bool.or_true, Int.natCast_nonneg, decide_true, Bool.and_self, if_true, if_neg hplace', Int.toNat_natCast,
    freshWords, if_pos hquiet]

end

/-- What is written to an accumulator-buffer tag is what a read of it delivers. -/
theorem tagRead_tagWrite {s : State} {c : Chan} {off : Nat} {bs : List Byte} (hplace : (tagEntry s c.tag).place = 2) (hquiet : s.upsets = [])
    (hwrite : (tagEntry s c.tag).allows true off bs.length = true) (hrd : (tagEntry s c.tag).rd = true) :
    (tagRead (tagWrite s c off bs) c off bs.length).1 = bs := by
  rw [tagWrite_of_allowed hplace hquiet hwrite]
  have hread := tagRead_of_allowed (s := { s with mem := sramWrite s.mem (tagEntry s c.tag) off bs }) hplace hquiet
    (allows_read_of_allows_write hwrite hrd)
  exact hread.trans (sramRead_sramWrite (addr_injective_of_accBuffer hplace) bs s.mem off)

/-- Settles O23: an access that fails its check is counted and nothing more, and the bytes written to an accumulator-buffer tag lie apart. -/
theorem tagAccessesAreServedOrDropped : Obligations.TagAccessesAreServedOrDropped := by
  unfold Obligations.TagAccessesAreServedOrDropped
  refine ⟨fun s c off n bs hprot => ⟨fun hread => ?_, fun hwrite => ?_⟩, fun s c off bs hplace hquiet hwrite hrd => ?_⟩
  · rw [tagRead_of_denied hprot hread]
    obtain ⟨hmem, -⟩ := protFail_mem_memory s
    exact ⟨rfl, hmem, protFail_counted s⟩
  · rw [tagWrite_of_denied hprot hwrite]
    obtain ⟨hmem, hmemory⟩ := protFail_mem_memory s
    exact ⟨hmem, hmemory, protFail_counted s⟩
  · have hwritten := tagWrite_of_allowed hplace hquiet hwrite
    refine ⟨tagRead_tagWrite hplace hquiet hwrite hrd, fun a ha => ?_, ?_⟩ <;> rw [hwritten]
    exact cellAt_sramWrite_of_ne _ a bs s.mem off ha

end Sys2Proof.TagAccesses
end

section
/-!
PROOFS. Reads and writes of stack memory under 08_stacks_and_cache.md: what the eviction of a clean line that holds bytes of its own does to them.
-/

namespace Sys2Proof.StackEvictions

open Sys2Proof.Machine

/-- Line 0 clean, as a read of it leaves it whose burst arrives with another byte than the stack's and a CRC that lets it pass (R248): the line holds that
byte itself. -/
def strayLine : Line := { line := 0, keep := false, dirty := false, pf := false, bytes := (BurstEnd.altered [7]).diff }

/-- Set 0 is full of ordinary clean lines, and `strayLine` is its least recently used. -/
def fullSet : State :=
  { State.reset with memory := { MemState.reset with
      cache := [(0, (List.range 15).map (fun i => { line := 2049 * (i + 1), keep := false, dirty := false, pf := false, bytes := [] }) ++ [strayLine])] } }

/-- An address in a seventeenth line of set 0. -/
def newAddr : Nat := 2049 * 16 * 2048

theorem fullSet_cacheInOrder : cacheInOrder fullSet = true := by decide +kernel

theorem fullSet_lineQuiet : lineQuiet fullSet (lineOf newAddr) = true := by decide +kernel

theorem byteAt_fullSet : byteAt fullSet 0 = 7 := by decide +kernel

/-- A read that misses evicts the line without a write-back, and the stack's byte shows again. -/
theorem byteAt_lineRead_fullSet : byteAt (lineRead fullSet 0 .normal newAddr 1).2 0 = 0 := by decide +kernel

/-- So does a write that misses. -/
theorem byteAt_lineWrite_fullSet : byteAt (lineWrite fullSet 0 .normal newAddr [9]) 0 = 0 := by decide +kernel

/-- Refutes O24: `cacheInOrder` lets a clean line hold bytes of its own, and an eviction loses them: a read of another line changes byte 0 from 7 to 0. -/
theorem not_readsLeaveEveryByte : ¬ Obligations.ReadsLeaveEveryByte := by
  unfold Obligations.ReadsLeaveEveryByte
  intro h
  obtain ⟨-, hkept, -⟩ := h fullSet 0 .normal newAddr 1 fullSet_cacheInOrder fullSet_lineQuiet (by decide) (by decide) (by decide)
  have hbyte := hkept 0
  rw [byteAt_lineRead_fullSet, byteAt_fullSet] at hbyte
  exact absurd hbyte (by decide)

/-- Refutes O25, by the same eviction: a write into another line changes byte 0 from 7 to 0. -/
theorem not_writesChangeTheirBytesAlone : ¬ Obligations.WritesChangeTheirBytesAlone := by
  unfold Obligations.WritesChangeTheirBytesAlone
  intro h
  obtain ⟨hbytes, -⟩ := h fullSet 0 .normal newAddr [9] fullSet_cacheInOrder fullSet_lineQuiet (by decide) (by decide) (by decide)
  have hbyte := hbytes 0
  rw [byteAt_lineWrite_fullSet, byteAt_fullSet, if_neg (by simp [newAddr])] at hbyte
  exact absurd hbyte (by decide)

end Sys2Proof.StackEvictions
end

section
/-!
PROOFS. Requests to stack memory (MEM_REQUEST) of 08_stacks_and_cache.md: what an access to the cache and the prefetchers may change besides its counts,
and which way a request is served.
-/

namespace Sys2Proof.StackRequests

open Sys2Proof.Machine Sys2Proof.Machine.Reg Sys2Proof.DroverOperations

/-! What strikes (R24). -/

theorem strike_eq (s : State) (us : List Upset) : strike s us = { s with upsets := s.upsets ++ us } := by
  unfold strike
  split
  · rename_i h
    rw [h, List.append_nil]
  · rfl

/-! What an access may change besides the hit or the miss that it counts. -/

/-- The fields that an access counts in, besides its hit or its miss. -/
def accessFields : List Field :=
  [MEM_PF_USED_CNT, MEM_PF_ENGAGE_CNT, MEM_KEEP_DEMOTE_CNT, MEM_LAST_INVAL_CNT, MEM_LAST_DISCARD_CNT, MEM_RD_BURST_CNT, MEM_RD_BYTE_CNT,
   MEM_WR_BURST_CNT, MEM_WR_BYTE_CNT, MEM_RETIRED_ACC_CNT].flatMap counterFields

theorem hitCnt_not_accessField : MEM_CACHE_HIT_CNT.key ∉ accessFields.map Field.key := by decide

theorem missCnt_not_accessField : MEM_CACHE_MISS_CNT.key ∉ accessFields.map Field.key := by decide

/-- `t` is `s` but for the counters of an access and the state of the memory region. -/
structure CacheOnly (s t : State) : Prop where
  frame : t = { s with regs := t.regs, memory := t.memory }
  regs : RegsKept accessFields s t

/-- `t` is `s` but for the counters of an access and the prefetchers: their streams and the prefetches that they ask for. -/
structure StreamsOnly (s t : State) : Prop where
  frame : t = { s with
    regs := t.regs
    memory := { s.memory with streams0 := t.memory.streams0, streams1 := t.memory.streams1, pfq := t.memory.pfq } }
  regs : RegsKept accessFields s t

theorem regsKept_trans_self {fs : List Field} {s t u : State} (h : RegsKept fs s t) (k : RegsKept fs t u) : RegsKept fs s u :=
  fun f hf => (k f hf).trans (h f hf)

/-- What keeps a counter keeps what it has counted. -/
theorem counted_of_regsKept {f : Field} {n : Nat} {fs : List Field} {s t u : State} (h : Counted f n s t) (k : RegsKept fs t u)
    (hf : f.key ∉ fs.map Field.key) : Counted f n s u := by
  rw [Counted, k f hf]
  exact h

theorem CacheOnly.refl (s : State) : CacheOnly s s := ⟨rfl, RegsKept.refl _ s⟩

theorem CacheOnly.trans {s t u : State} (h : CacheOnly s t) (k : CacheOnly t u) : CacheOnly s u :=
  ⟨by rw [k.frame, h.frame], regsKept_trans_self h.regs k.regs⟩

theorem CacheOnly.mem {s t : State} (h : CacheOnly s t) : t.mem = s.mem := by rw [h.frame]

theorem CacheOnly.of_memory (s : State) (m : MemState) : CacheOnly s { s with memory := m } := ⟨rfl, fun _ _ => rfl⟩

theorem StreamsOnly.refl (s : State) : StreamsOnly s s := ⟨rfl, RegsKept.refl _ s⟩

theorem StreamsOnly.trans {s t u : State} (h : StreamsOnly s t) (k : StreamsOnly t u) : StreamsOnly s u :=
  ⟨by rw [k.frame, h.frame], regsKept_trans_self h.regs k.regs⟩

theorem StreamsOnly.cacheOnly {s t : State} (h : StreamsOnly s t) : CacheOnly s t :=
  ⟨by rw [h.frame], h.regs⟩

theorem StreamsOnly.fills {s t : State} (h : StreamsOnly s t) : t.memory.fills = s.memory.fills := by rw [h.frame]

theorem count_streamsOnly (s : State) {f : Field} (n : Nat) (hf : counterFields f ⊆ accessFields) : StreamsOnly s (s.count f n) :=
  ⟨by rw [State.count_frame], regsKept_mono (State.count_regsKept s f n) hf⟩

/-! The prefetchers (R244 to R246). -/

theorem putStreams_streamsOnly (s : State) (half : Nat) (ss : List Stream) : StreamsOnly s (putStreams s half ss) := by
  unfold putStreams
  split <;> exact ⟨rfl, fun _ _ => rfl⟩

theorem dropStream_streamsOnly (s : State) (ch : Nat) : StreamsOnly s (dropStream s ch) := ⟨rfl, fun _ _ => rfl⟩

theorem requestPrefetch_streamsOnly (s : State) (ch : Nat) (l : Int) : StreamsOnly s (requestPrefetch s ch l) := by
  unfold requestPrefetch
  split
  · exact .refl s
  · dsimp only
    split
    · exact .refl s
    · exact ⟨rfl, fun _ _ => rfl⟩

theorem requestWindow_streamsOnly (s : State) (ch l : Nat) (d : Int) (k : Nat) : StreamsOnly s (requestWindow s ch l d k) := by
  induction k with
  | zero => exact .refl s
  | succ k ih => exact ih.trans (requestPrefetch_streamsOnly _ _ _)

theorem advanceStream_streamsOnly (s : State) (half : Nat) (x : Stream) (d : Int) (l : Nat) : StreamsOnly s (advanceStream s half x d l) :=
  (putStreams_streamsOnly _ _ _).trans (requestWindow_streamsOnly _ _ _ _ _)

theorem streamHit_streamsOnly (s : State) (ch l : Nat) : StreamsOnly s (streamHit s ch l) := by
  unfold streamHit
  split
  · split
    · split
      · exact advanceStream_streamsOnly _ _ _ _ _
      · exact .refl s
    · exact .refl s
  · exact .refl s

/-- A stream that begins anew at a line. -/
theorem restartStream_streamsOnly (s : State) (ch half : Nat) (x : Stream) : StreamsOnly s (enterStream (dropStream s ch) half x) :=
  (dropStream_streamsOnly s ch).trans (putStreams_streamsOnly _ _ _)

theorem streamMiss_streamsOnly (s : State) (ch l : Nat) : StreamsOnly s (streamMiss s ch l) := by
  unfold streamMiss
  split
  · exact .refl s
  · split
    · exact putStreams_streamsOnly _ _ _
    · dsimp only
      split
      · split
        · exact ((putStreams_streamsOnly _ _ _).trans (count_streamsOnly _ 1 (by decide))).trans (requestWindow_streamsOnly _ _ _ _ _)
        · exact restartStream_streamsOnly _ _ _ _
      · split
        · exact advanceStream_streamsOnly _ _ _ _ _
        · split
          · exact .refl s
          · exact restartStream_streamsOnly _ _ _ _

/-- A burst is counted, and nothing more (R233, R251). -/
theorem burst_streamsOnly (s : State) (write : Bool) (l off n : Nat) : StreamsOnly s (burst s write l off n) := by
  unfold burst
  dsimp only
  split
  · exact count_streamsOnly s 1 (by decide)
  · split <;> exact (count_streamsOnly s 1 (by decide)).trans (count_streamsOnly _ _ (by decide))

/-! A line that is hit (R238 to R241). -/

theorem keepRoom_cacheOnly (s : State) (k l : Nat) : CacheOnly s (keepRoom s k l) := by
  unfold keepRoom
  dsimp only
  split
  · exact .refl s
  · split
    · exact .refl s
    · exact (count_streamsOnly s 1 (by decide)).cacheOnly.trans (.of_memory _ _)

theorem touchLine_cacheOnly (s : State) (h : Hint) (x : Line) : CacheOnly s (touchLine s h x) := by
  unfold touchLine
  split
  · exact .of_memory _ _
  · exact (keepRoom_cacheOnly _ _ _).trans (.of_memory _ _)
  · exact .of_memory _ _

theorem lastRead_cacheOnly (s : State) (x : Line) : CacheOnly s (lastRead s x) := by
  have hdrop : CacheOnly s (dropLine (s.count MEM_LAST_INVAL_CNT 1) x.line) :=
    (count_streamsOnly s 1 (by decide)).cacheOnly.trans (.of_memory _ _)
  unfold lastRead
  dsimp only
  split
  · exact (hdrop.trans (count_streamsOnly _ 1 (by decide)).cacheOnly).trans (.of_memory _ _)
  · exact hdrop.trans (.of_memory _ _)

theorem noteHit_cacheOnly (s : State) (x : Line) : CacheOnly (s.count MEM_CACHE_HIT_CNT 1) (noteHit s x) := by
  unfold noteHit
  dsimp only
  split
  · exact (count_streamsOnly _ 1 (by decide)).cacheOnly
  · exact .refl _

/-- A resident line after a read of it under a hint (Table 8.3). -/
def afterHit (s : State) (ch : Nat) (h : Hint) (x : Line) : State :=
  if h = .last then lastRead (streamHit (noteHit s x) ch x.line) x else touchLine (streamHit (noteHit s x) ch x.line) h { x with pf := false }

theorem afterHit_cacheOnly (s : State) (ch : Nat) (h : Hint) (x : Line) : CacheOnly (s.count MEM_CACHE_HIT_CNT 1) (afterHit s ch h x) := by
  have hstream : CacheOnly (s.count MEM_CACHE_HIT_CNT 1) (streamHit (noteHit s x) ch x.line) :=
    (noteHit_cacheOnly s x).trans (streamHit_streamsOnly _ ch x.line).cacheOnly
  unfold afterHit
  split
  · exact hstream.trans (lastRead_cacheOnly _ x)
  · exact hstream.trans (touchLine_cacheOnly _ h _)

theorem line_of_findLine {s : State} {l : Nat} {x : Line} (h : findLine s l = some x) : x.line = l := by
  have hx := List.find?_some h
  exact beq_iff_eq.1 hx

theorem readLine_of_resident {s : State} {l : Nat} {x : Line} (ch : Nat) (h : Hint) (off n : Nat) (hpage : pageRetired s (pageOf l) = false)
    (hquiet : s.upsets = []) (hx : findLine s l = some x) : readLine s ch h l off n = (lineBytes s x off n, afterHit s ch h x) := by
  simp only [readLine, hpage, meetResident_none s l hquiet, hx, Bool.false_eq_true, if_false, afterHit, line_of_findLine hx]

theorem readLine_of_retired {s : State} {l : Nat} (ch : Nat) (h : Hint) (off n : Nat) (hpage : pageRetired s (pageOf l) = true) :
    readLine s ch h l off n = (List.replicate n 0, s.count MEM_RETIRED_ACC_CNT 1) := if_pos hpage

theorem writeLine_of_retired {s : State} {l : Nat} (ch : Nat) (h : Hint) (off : Nat) (bs : List Byte) (hpage : pageRetired s (pageOf l) = true) :
    writeLine s ch h l off bs = s.count MEM_RETIRED_ACC_CNT 1 := if_pos hpage

/-- A byte of a resident line is the line's own, or else the stack's (R235). -/
theorem byteAt_of_resident {s : State} {b : Nat} {x : Line} (hb : b < stackBytes) (hpage : pageRetired s (pageOf (lineOf b)) = false)
    (hx : findLine s (lineOf b) = some x) : byteAt s b = (FMap.find x.bytes (b % 2048)).getD (cellAt s.mem b) := by
  rw [byteAt, if_pos hb, stackPeek, hpage, hx]
  cases hfind : FMap.find x.bytes (b % 2048) <;> simp [hfind]

/-- A read of a resident line delivers the bytes that stand at its addresses. -/
theorem lineBytes_eq_byteAt {s : State} {a n : Nat} {x : Line} (ha : a < stackBytes) (hn : a % 2048 + n ≤ 2048)
    (hpage : pageRetired s (pageOf (lineOf a)) = false) (hx : findLine s (lineOf a) = some x) :
    lineBytes s x (a % 2048) n = (List.range n).map (fun i => byteAt s (a + i)) := by
  refine List.map_congr_left fun i hi => ?_
  rw [List.mem_range] at hi
  have hbytes : stackBytes = 0xC000000000 := rfl
  have hline : lineOf (a + i) = lineOf a := by simp only [lineOf]; omega
  have hoff : (a + i) % 2048 = a % 2048 + i := by omega
  have hplace : x.line * 2048 + a % 2048 + i = a + i := by rw [line_of_findLine hx]; simp only [lineOf]; omega
  rw [byteAt_of_resident (by omega) (by rwa [hline]) (by rwa [hline]), hoff, hplace]

/-! A request within its first line (Table 8.3). -/

/-- The part of a request within the `room` that its first line has (R233). -/
def within (room : Nat) : MemAsk → MemAsk
  | .read n => .read (min n room)
  | .write d => .write (d.take room)

/-- The hint that a request acts under. -/
def askHint (s : State) (hint : Hint) : MemAsk → Hint
  | .read _ => effHint s hint
  | .write _ => writeHint s hint

/-- A request is served at once. -/
def serveNow (s : State) (ch : Nat) (h : Hint) (l off : Nat) : MemAsk → State
  | .read n => setReply (readLine s ch h l off n).2 (readLine s ch h l off n).1
  | .write d => writeLine s ch h l off d

/-- The fill that a request waits in. -/
def fillFor (wave : Nat) (h : Hint) (l off : Nat) (ask : MemAsk) : Fill :=
  { line := l, wave := wave, prefetch := false, hint := h, discarded := decide (h = .last), off := off, len := Machine.askLen ask
    write := match ask with | .write d => some d | .read _ => none }

/-- MEM_REQUEST at a state in which what it says has struck: past the stacks nothing answers, a request waits, or it is served. -/
theorem exec_memRequest {s u : State} {bursts cells : List Upset} (hu : u = strike s (bursts ++ cells)) (ch : Nat) (hint : Hint) (addr : BitVec 40)
    (ask : MemAsk) : exec (.memRequest ch hint addr ask bursts cells) s = .next (if stackBytes ≤ addr.toNat then u
      else if waitsForFill u (effHint u hint) (lineOf addr.toNat) (within (2048 - addr.toNat % 2048) ask) then
        { u with memory := { u.memory with
            waiting := u.memory.waiting ++ [{ chan := ch, hint := hint, addr := addr.toNat, ask := within (2048 - addr.toNat % 2048) ask }] } }
      else lineRequest u ch hint addr.toNat (within (2048 - addr.toNat % 2048) ask)) := by
  subst hu
  cases ask <;> rfl

section
variable {s : State} {a : Nat} {ask : MemAsk}

theorem lineRequest_of_retired (ch : Nat) (hint : Hint) (h : pageRetired s (pageOf (lineOf a)) = true) :
    lineRequest s ch hint a ask = serveNow s ch (askHint s hint ask) (lineOf a) (a % 2048) ask := by
  cases ask <;> exact if_pos (.inl h)

/-- A request for a resident line is served at once, and so is one that neither finds its line on its way nor fetches it. -/
theorem lineRequest_of_served (ch : Nat) (hint : Hint) (hserved : (findLine s (lineOf a)).isSome = true
      ∨ s.memory.fills.any (fun f => f.line == lineOf a) = false ∧ fetches (askHint s hint ask) ask = false) :
    lineRequest s ch hint a ask = serveNow s ch (askHint s hint ask) (lineOf a) (a % 2048) ask := by
  rcases hserved with hres | ⟨hfills, hfetch⟩
  · cases ask <;> exact if_pos (.inr hres)
  · have hnot : ¬ (s.memory.fills.any (fun f => f.line == lineOf a) = true ∨ fetches (askHint s hint ask) ask = true) := by
      rw [hfills, hfetch]
      decide
    cases ask <;> exact (ite_congr rfl (fun _ => rfl) (fun _ => if_neg hnot)).trans (ite_self _)

/-- Any other request waits for the stack's burst of its line. -/
theorem lineRequest_of_joins (ch : Nat) (hint : Hint) (hpage : pageRetired s (pageOf (lineOf a)) = false) (hmiss : findLine s (lineOf a) = none)
    (hjoins : s.memory.fills.any (fun f => f.line == lineOf a) = true ∨ fetches (askHint s hint ask) ask = true) :
    lineRequest s ch hint a ask
      = joinFill (streamMiss (s.count MEM_CACHE_MISS_CNT 1) ch (lineOf a)) (askHint s hint ask) (lineOf a) (a % 2048) ask := by
  have hnot : ¬ (pageRetired s (pageOf (lineOf a)) = true ∨ (findLine s (lineOf a)).isSome = true) := by
    rw [hpage, hmiss]
    decide
  cases ask <;> exact (if_neg hnot).trans (if_pos hjoins)

end

theorem waveFor_of_fills {s t : State} (h : t.memory.fills = s.memory.fills) (l : Nat) : waveFor t l = waveFor s l := by
  rw [waveFor, waveFor, h]

/-- The burst that a request sends where it begins a new fill of its line. -/
def joinBurst (s : State) (h : Hint) (l off : Nat) (ask : MemAsk) : State :=
  if !(waveFor s l).2 then s
  else if fetches h ask then burst s false l 0 2048
  else match ask with
    | .read n => burst s false l off n
    | .write _ => s

theorem joinBurst_streamsOnly (s : State) (h : Hint) (l off : Nat) (ask : MemAsk) : StreamsOnly s (joinBurst s h l off ask) := by
  unfold joinBurst
  split
  · exact .refl s
  · split
    · exact burst_streamsOnly s false l 0 2048
    · cases ask with
      | read n => exact burst_streamsOnly s false l off n
      | write d => exact .refl s

theorem joinFill_eq (s : State) (h : Hint) (l off : Nat) (ask : MemAsk) :
    joinFill s h l off ask = if h = .last then discardFills (addFill (joinBurst s h l off ask) (fillFor (waveFor s l).1 h l off ask)) l
      else addFill (joinBurst s h l off ask) (fillFor (waveFor s l).1 h l off ask) := by
  cases ask <;> rfl

/-- The fills of a line after a request for it under a hint: a LAST read makes those on their way not to be kept (R241). -/
def fillsAfter (h : Hint) (l : Nat) (fs : List Fill) (f : Fill) : List Fill :=
  fs.map (fun g => if h = .last ∧ g.line = l then { g with discarded := true } else g) ++ [f]

/-- The memory region with other fills. -/
def withFills (s : State) (fs : List Fill) : State := { s with memory := { s.memory with fills := fs } }

theorem joinFill_fills (s : State) (h : Hint) (l off : Nat) (ask : MemAsk) :
    joinFill s h l off ask = withFills (joinBurst s h l off ask) (fillsAfter h l s.memory.fills (fillFor (waveFor s l).1 h l off ask)) := by
  rw [joinFill_eq, fillsAfter, ← (joinBurst_streamsOnly s h l off ask).fills]
  by_cases hlast : h = .last
  · rw [if_pos hlast]
    simp [hlast, discardFills, addFill, withFills, fillFor]
  · rw [if_neg hlast]
    simp [hlast, addFill, withFills]

/-! What each way of serving a request changes. -/

section
variable {s u t : State} {l : Nat} {ch : Nat} {h : Hint} {off n : Nat}

/-- A request for a page out of service is counted alone, and a read of it is answered with zeros (R251). -/
theorem serveNow_read_of_retired (hpage : pageRetired s (pageOf l) = true) (ht : t = serveNow s ch h l off (.read n)) :
    t = { s with regs := t.regs, memory := { s.memory with reply := List.replicate n 0 } }
      ∧ Counted MEM_RETIRED_ACC_CNT 1 s t ∧ RegsKept (counterFields MEM_RETIRED_ACC_CNT) s t := by
  rw [serveNow, readLine_of_retired ch h off n hpage] at ht
  subst ht
  refine ⟨?_, State.count_counted s _ 1 (by decide), State.count_regsKept s _ 1⟩
  rw [State.count_frame]
  rfl

theorem serveNow_write_of_retired {d : List Byte} (hpage : pageRetired s (pageOf l) = true) (ht : t = serveNow s ch h l off (.write d)) :
    t = { s with regs := t.regs } ∧ Counted MEM_RETIRED_ACC_CNT 1 s t ∧ RegsKept (counterFields MEM_RETIRED_ACC_CNT) s t := by
  rw [serveNow, writeLine_of_retired ch h off d hpage] at ht
  subst ht
  exact ⟨State.count_frame s _ 1, State.count_counted s _ 1 (by decide), State.count_regsKept s _ 1⟩

/-- A read of a resident line in which no error waits is answered with its bytes, and counted as a hit (R231). -/
theorem serveNow_read_of_resident {a : Nat} (ha : a < stackBytes) (hn : a % 2048 + n ≤ 2048)
    (hpage : pageRetired s (pageOf (lineOf a)) = false) (hres : (findLine s (lineOf a)).isSome = true) (hquiet : s.upsets = [])
    (ht : t = serveNow s ch h (lineOf a) (a % 2048) (.read n)) :
    t.memory.reply = (List.range n).map (fun i => byteAt s (a + i)) ∧ t.mem = s.mem ∧ Counted MEM_CACHE_HIT_CNT 1 s t := by
  obtain ⟨x, hx⟩ := Option.isSome_iff_exists.1 hres
  have hhit := afterHit_cacheOnly s ch h x
  rw [serveNow, readLine_of_resident ch h _ n hpage hquiet hx] at ht
  subst ht
  refine ⟨lineBytes_eq_byteAt ha hn hpage hx, ?_, ?_⟩
  · exact hhit.mem.trans (State.count_mem s _ 1)
  · exact counted_of_regsKept (State.count_counted s _ 1 (by decide)) hhit.regs hitCnt_not_accessField

/-- A request that waits for its line is counted as a miss and listed with the fills; memory, the cache and the last reply stay (R231, R241). -/
theorem missed_spec {ask : MemAsk} (ht : t = joinFill (streamMiss (s.count MEM_CACHE_MISS_CNT 1) ch l) h l off ask) :
    t.mem = s.mem ∧ t.memory.cache = s.memory.cache ∧ t.memory.reply = s.memory.reply
      ∧ t.memory.fills = fillsAfter h l s.memory.fills (fillFor (waveFor s l).1 h l off ask) ∧ Counted MEM_CACHE_MISS_CNT 1 s t := by
  have hmiss := streamMiss_streamsOnly (s.count MEM_CACHE_MISS_CNT 1) ch l
  have hsent := hmiss.trans (joinBurst_streamsOnly _ h l off ask)
  have hfills : (streamMiss (s.count MEM_CACHE_MISS_CNT 1) ch l).memory.fills = s.memory.fills := by
    rw [hmiss.fills, State.count_memory]
  rw [joinFill_fills, hfills, waveFor_of_fills hfills] at ht
  subst ht
  refine ⟨hsent.cacheOnly.mem.trans (State.count_mem s _ 1), ?_, ?_, rfl,
    counted_of_regsKept (State.count_counted s _ 1 (by decide)) hsent.regs missCnt_not_accessField⟩
  all_goals
    simp only [withFills]
    rw [hsent.frame, State.count_memory]

end

/-- A request that does not wait is served within its first line. -/
theorem answers_of_not_waiting {s u : State} {bursts cells : List Upset} {ch : Nat} {hint : Hint} {addr : BitVec 40} {ask asked : MemAsk}
    {P : State → Prop} (hu : u = strike s (bursts ++ cells)) (hin : addr.toNat < stackBytes)
    (hasked : asked = within (2048 - addr.toNat % 2048) ask) (hfree : waitsForFill u (effHint u hint) (lineOf addr.toNat) asked = false)
    (hP : P (lineRequest u ch hint addr.toNat asked)) : Answers (.memRequest ch hint addr ask bursts cells) s P := by
  refine ⟨_, ?_, hP⟩
  rw [exec_memRequest hu, if_neg (Nat.not_le.2 hin), ← hasked, if_neg (by rw [hfree]; decide)]

theorem length_le_of_read_within {n room : Nat} {ask : MemAsk} (h : .read n = within room ask) : n ≤ room := by
  cases ask with
  | read m =>
    cases h
    exact Nat.min_le_right m room
  | write d => cases h

/-- Settles O26: each way that a request can go is a branch of the command, and what it does there is said by the read or write of a line, or by the
fill that it joins. What has struck touches none of what chooses the way. -/
theorem memoryRequestsAreServed : Obligations.MemoryRequestsAreServed := by
  unfold Obligations.MemoryRequestsAreServed
  rintro s u ch hint h addr bursts cells a l room hu rfl rfl rfl
  refine ⟨fun hout ask => ⟨u, by rw [exec_memRequest hu, if_pos hout], rfl⟩, fun hin ask asked hasked hh => ?_⟩
  have hwithin : asked = within (2048 - addr.toNat % 2048) ask := by rw [hasked]; cases ask <;> rfl
  have hhint : h = askHint s hint asked := by rw [hh, hwithin]; cases ask <;> rfl
  obtain rfl := hu.trans (strike_eq s _)
  generalize s.upsets ++ (bursts ++ cells) = upsets at hu ⊢
  refine ⟨fun hwait => ?_, fun hfree => ⟨?_, ?_, ?_, ?_, ?_⟩⟩
  · refine ⟨_, ?_, rfl⟩
    rw [exec_memRequest hu, if_neg (Nat.not_le.2 hin), ← hwithin]
    exact congrArg _ (if_pos hwait)
  all_goals refine fun hpage => ?_
  · rintro n rfl
    exact answers_of_not_waiting hu hin hwithin hfree (serveNow_read_of_retired hpage (lineRequest_of_retired ch hint hpage))
  · rintro d rfl
    exact answers_of_not_waiting hu hin hwithin hfree (serveNow_write_of_retired hpage (lineRequest_of_retired ch hint hpage))
  · rintro hres hquiet n rfl
    have hn := length_le_of_read_within hwithin
    exact answers_of_not_waiting hu hin hwithin hfree
      (serveNow_read_of_resident (s := { s with upsets := upsets }) hin (by omega) hpage hres hquiet (lineRequest_of_served ch hint (.inl hres)))
  · intro hmiss hjoins
    rw [hhint] at hjoins
    obtain ⟨hmem, hcache, hreply, hfills, hcount⟩ := missed_spec
      (lineRequest_of_joins (s := { s with upsets := upsets }) ch hint hpage hmiss hjoins)
    refine answers_of_not_waiting hu hin hwithin hfree ⟨hmem, hcache, hreply, ⟨_, rfl, ?_⟩, hcount⟩
    rw [hhint]
    exact hfills
  · intro hserved
    rw [hhint] at hserved ⊢
    refine answers_of_not_waiting hu hin hwithin hfree ⟨?_, ?_⟩
    · rintro n rfl
      exact lineRequest_of_served ch hint hserved
    · rintro d rfl
      exact lineRequest_of_served ch hint hserved

end Sys2Proof.StackRequests
end
